-- ==== Sys2Proof/Word.lean ====
section
/-! DEFINITION. Words, masks and finite tables: the plain data every other file is written over. -/

namespace Sys2Proof

/-- A 32-bit register or instruction word (R349, R359). -/
abbrev Word := BitVec 32
/-- One byte of memory (R7). -/
abbrev Byte := BitVec 8
/-- A 64-bit generic address (R57, R165). -/
abbrev Addr := BitVec 64
/-- A set of lanes of one wave: bit l is lane l (R127). -/
abbrev Mask := BitVec 64

/-- A finite table: entries in strictly rising key order, as every operation keeps them. An unlisted key has the value that the
reader names. -/
abbrev Tbl (α : Type) := List (Nat × α)

/-- The entry at a key, if listed. -/
def Tbl.get? {α : Type} : Tbl α → Nat → Option α
  | [], _ => none
  | (j, v) :: t, k => if j = k then some v else Tbl.get? t k

/-- The value at a key, or `d` where none is listed. -/
def Tbl.getD {α : Type} (t : Tbl α) (k : Nat) (d : α) : α := (t.get? k).getD d

/-- Writes the value at a key, in place or at its place in the order. -/
def Tbl.set {α : Type} : Tbl α → Nat → α → Tbl α
  | [], k, v => [(k, v)]
  | (j, w) :: t, k, v =>
    if j = k then (k, v) :: t else if k < j then (k, v) :: (j, w) :: t else (j, w) :: Tbl.set t k v

/-- Removes a key. -/
def Tbl.erase {α : Type} : Tbl α → Nat → Tbl α
  | [], _ => []
  | (j, w) :: t, k => if j = k then Tbl.erase t k else (j, w) :: Tbl.erase t k

/-- Writes a value, keeping the table free of entries equal to `d`. -/
def Tbl.put {α : Type} [DecidableEq α] (t : Tbl α) (k : Nat) (v d : α) : Tbl α :=
  if v = d then t.erase k else t.set k v

/-- Applies a function to the value at a key (`d` where none is listed). -/
def Tbl.upd {α : Type} (t : Tbl α) (k : Nat) (d : α) (f : α → α) : Tbl α := t.set k (f (t.getD k d))

/-- The keys listed, in rising order. -/
def Tbl.keys {α : Type} (t : Tbl α) : List Nat := t.map Prod.fst
/-- The values listed, in key order. -/
def Tbl.vals {α : Type} (t : Tbl α) : List α := t.map Prod.snd

/-- The lanes of a mask, in ascending order. -/
def lanesOf (m : Mask) : List Nat := (List.range 64).filter fun l => m.getLsbD l
/-- The mask with exactly lane `l`. -/
def laneBit (l : Nat) : Mask := BitVec.ofNat 64 (2 ^ l)
/-- The mask of the lanes for which `p` holds. -/
def maskOf (p : Nat → Bool) : Mask :=
  BitVec.ofNat 64 ((List.range 64).foldl (fun acc l => if p l then acc + 2 ^ l else acc) 0)
/-- The lowest lane of a mask, 0 if it is empty. -/
def lowestLane (m : Mask) : Nat := (lanesOf m).headD 0
/-- The mask of lanes 0 to n - 1. -/
def fullMask (n : Nat) : Mask := BitVec.ofNat 64 (2 ^ n - 1)

/-- Ceiling of a quotient of naturals. -/
def ceilDiv (a b : Nat) : Nat := (a + b - 1) / b
/-- The first element that meets a test, with the rest of the list in order. -/
def takeFirst {α : Type} (p : α → Bool) : List α → Option (α × List α)
  | [] => none
  | x :: t => if p x then some (x, t) else (takeFirst p t).map fun (y, r) => (y, x :: r)

/-- Puts a number at its place in a rising list. -/
def insertNat (x : Nat) : List Nat → List Nat
  | [] => [x]
  | y :: t => if x ≤ y then x :: y :: t else y :: insertNat x t
/-- The list in rising order. -/
def sortNat : List Nat → List Nat
  | [] => []
  | x :: t => insertNat x (sortNat t)

end Sys2Proof
end

