-- ==== Sys2Proof/Config.lean ====
section
/-! DEFINITION. What the part fixes, and the free values: constants without a body, one for each value the manual leaves open. -/

namespace Sys2Proof
namespace Config

/-- Bytes of one cache line. The manual gives no line size. DESIGN CHOICE, log entry 5. -/
def lineBytes : Nat := 64
/-- Energy of one token in nJ (Table 1.4). -/
def tokenNj : Nat := 1680
/-- Bytes of one die's first-tier range (R18). -/
def dieRange : Nat := 0xC00000000
/-- Bytes of the first tier (R46). -/
def firstTier : Nat := 0x6000000000
/-- First address of the second tier (R46). -/
def secondTier : Nat := 0x080000000000
/-- Last address of the second-tier range (R46). -/
def secondTierEnd : Nat := 0x25CD64FFFFFF
/-- Size of BAR2: 64 TiB (R58). -/
def bar2Size : Nat := 0x400000000000
/-- Bytes of one die's save reserve (R309). -/
def reserveBytes : Nat := 0x80000000

/-- What a byte written under one key tag decrypts to under another: by location and the two tags (R28, R31, R32). -/
opaque staleByte : Nat → Nat → Nat → Byte
/-- A register word whose value the manual leaves unspecified (R444, R161). -/
opaque freeWord : Nat → Word
/-- Which enabled move comes next: no rule orders the module's agents (R5, R154). -/
opaque pick : Nat → Nat
/-- Lines of a core's L1 data cache and instruction cache, and of a die's L2 and LLC slice (Table 1.1), at 64 bytes a line. -/
def l1Lines : Nat := 4096
def icacheLines : Nat := 2048
def l2Lines : Nat := 1572864
def llcLines : Nat := 12582912
/-- Bytes of payload that a flit carries at most (R49). -/
def flitPayload : Nat := 224

/-- Which of n lines a full cache drops to make room: the manual names no replacement rule (R16, R174). -/
opaque victim : Nat → Nat
/-- The set of a translation cache that a page lies in, by the number of sets, PASID and page (Table 3.1 gives the ways alone). -/
opaque xlatSet : Nat → Nat → Nat → Nat
/-- Whether an acquire to which nothing is made visible drops the lines that it covers all the same (R213, R219), by the counter. -/
opaque dropsLoose : Nat → Bool
/-- How many moves may go before one that has become possible: the bound behind R155's eventual issue. -/
opaque patience : Nat
/-- Which of two writers of one register word the manual lets stand (R148): true for the returning value. -/
opaque lateWrite : Nat → Bool
/-- The verdict of the ECDSA P-384 check over a measurement (R27), and of the LMS check; the images carry both signatures. -/
opaque ecdsaVerify : BitVec 384 → List Byte → Bool
opaque lmsVerify : BitVec 384 → List Byte → Bool
/-- The secret fused into the part (R29). -/
opaque fusedSecret : List Byte
/-- The private scalar of the P-384 identity key pair that a fused secret gives (R29). -/
opaque deriveKey : List Byte → BitVec 384
/-- The body of an SPDM answer beyond what R29 states (the DMTF standard gives it), by request code, the device's private key and the
request. -/
opaque spdmBody : Nat → BitVec 384 → List Byte → List Byte
/-- The code of a fabric operation in a flit's header, and its virtual channel (R49 names the fields alone), by the operation's number. -/
opaque fabCode : Nat → BitVec 8
opaque fabChannel : Nat → BitVec 2
/-- Result of a transcendental function whose enclosing interval does not decide the rounding (never reached, log entry 30). -/
opaque undecided : Nat → Nat → Nat

end Config
end Sys2Proof
end

