-- ==== Sys2Proof/Machine/Formats.lean ====
section
/-! DEFINITION. The number formats and their rounding: what codes stand for, exact sums, products and quotients, and the
one rounding helper (chapter 13). -/

namespace Sys2Proof
namespace Machine

/-- Flags in the bit order of %fpflags (Table 13.9). -/
abbrev Fl := BitVec 7
/-- Inexact. -/
def Fl.nx : Fl := 1
/-- Underflow. -/
def Fl.uf : Fl := 2
/-- Overflow. -/
def Fl.of : Fl := 4
/-- Exact infinity from a finite operand. -/
def Fl.dz : Fl := 8
/-- Invalid. -/
def Fl.nv : Fl := 16
/-- An integer saturation changed a value. -/
def Fl.sat : Fl := 32
/-- A masked index. -/
def Fl.bound : Fl := 64

/-- Kinds of format that round in ways of their own. -/
inductive FKind where
  | ieee | b8 | mx | mxi8 | e8m0 | int (signed : Bool)
  deriving DecidableEq, Repr

/-- A format (Tables 13.1 to 13.5). Of a floating format: `p` significand bits with the hidden one, smallest spacing
2^`qmin`, the magnitude code of its largest finite value, its infinity and NaN codes, and its sign bit. -/
structure Fmt where
  kind : FKind
  bits : Nat
  p : Nat := 1
  qmin : Int := 0
  maxCode : Nat := 0
  inf : Option Nat := none
  nan : Option Nat := none
  sign : Option Nat := none
  negZero : Bool := true
  deriving DecidableEq, Repr

/-- fp64 (Table 13.2). -/
def fp64 : Fmt := { kind := .ieee, bits := 64, p := 53, qmin := -1074, maxCode := 0x7FEFFFFFFFFFFFFF, inf := some 0x7FF0000000000000, nan := some 0x7FF8000000000000, sign := some 63 }
/-- fp32 (Table 13.2). -/
def fp32 : Fmt := { kind := .ieee, bits := 32, p := 24, qmin := -149, maxCode := 0x7F7FFFFF, inf := some 0x7F800000, nan := some 0x7FC00000, sign := some 31 }
/-- fp16 (Table 13.2). -/
def fp16 : Fmt := { kind := .ieee, bits := 16, p := 11, qmin := -24, maxCode := 0x7BFF, inf := some 0x7C00, nan := some 0x7E00, sign := some 15 }
/-- bf16 (Table 13.2). -/
def bf16 : Fmt := { kind := .ieee, bits := 16, p := 8, qmin := -133, maxCode := 0x7F7F, inf := some 0x7F80, nan := some 0x7FC0, sign := some 15 }
/-- An integer format (R321). -/
def intFmt (bits : Nat) (signed : Bool) : Fmt := { kind := .int signed, bits := bits }
/-- e8m0 (R326). -/
def e8m0 : Fmt := { kind := .e8m0, bits := 8, nan := some 0xFF }
/-- mxi8 (R325). -/
def mxi8 : Fmt := { kind := .mxi8, bits := 8 }
/-- The floating MX element formats (Table 13.5). -/
def mxe4m3 : Fmt := { kind := .mx, bits := 8, p := 4, qmin := -9, maxCode := 0x7E, nan := some 0x7F, sign := some 7 }
/-- mxe5m2. -/
def mxe5m2 : Fmt := { kind := .mx, bits := 8, p := 3, qmin := -16, maxCode := 0x7B, inf := some 0x7C, nan := some 0x7E, sign := some 7 }
/-- mxe3m2. -/
def mxe3m2 : Fmt := { kind := .mx, bits := 8, p := 3, qmin := -4, maxCode := 0x1F, sign := some 5 }
/-- mxe2m3. -/
def mxe2m3 : Fmt := { kind := .mx, bits := 8, p := 4, qmin := -3, maxCode := 0x1F, sign := some 5 }
/-- mxe2m1. -/
def mxe2m1 : Fmt := { kind := .mx, bits := 4, p := 2, qmin := -1, maxCode := 0x7, sign := some 3 }

/-- A binary8 format by its page-1 code (R318, R323, R324). -/
def b8Fmt (c : Nat) : Fmt :=
  let u := c / 16 % 2 == 1
  let f := c / 8 % 2 == 1
  let p := c % 8
  let b : Int := if u then 2 ^ (8 - p) else 2 ^ (7 - p)
  { kind := .b8, bits := 8, p := p, qmin := 1 - b - ((p : Int) - 1),
    maxCode := if u then (if f then 0xFE else 0xFD) else if f then 0x7F else 0x7E,
    inf := if f then none else if u then some 0xFE else some 0x7F,
    nan := if u then some 0xFF else some 0x80, sign := if u then none else some 7, negZero := false }

/-- The format a code names, in page 0 or page 1 (R317). A reserved code names no format; it is refused at decode. -/
def fmtOf (page1 : Bool) (c : Nat) : Fmt :=
  if page1 then b8Fmt c else
  match c with
  | 0 => intFmt 8 true | 1 => intFmt 16 true | 2 => intFmt 32 true | 3 => intFmt 64 true
  | 4 => intFmt 8 false | 5 => intFmt 16 false | 6 => intFmt 32 false | 7 => intFmt 64 false
  | 8 => intFmt 4 true | 9 => intFmt 4 false
  | 10 => fp64 | 11 => fp32 | 12 => fp16 | 13 => bf16 | 14 => e8m0
  | 16 => mxe4m3 | 17 => mxe5m2 | 18 => mxe3m2 | 19 => mxe2m3 | 20 => mxe2m1 | 21 => mxi8
  | _ => intFmt 32 false

/-! ## Exact values -/

/-- A real number: (-1)^neg × m × 2^e, or with `st` a number strictly between that and one unit of m more in magnitude. -/
structure RVal where
  neg : Bool
  m : Nat
  e : Int
  st : Bool := false
  deriving DecidableEq, Repr, Inhabited

/-- What a code stands for (R375). A NaN carries whether it signals and, in an IEEE format, its sign and its fraction
aligned to 52 bits. -/
inductive Val where
  | nan (signalling : Bool) (pay : Option (Bool × Nat))
  | inf (neg : Bool)
  | num (x : RVal)
  deriving DecidableEq, Repr, Inhabited

/-- Zero with a sign. -/
def zeroV (neg : Bool) : Val := .num { neg := neg, m := 0, e := 0 }
/-- A value is zero. -/
def RVal.isZero (x : RVal) : Bool := x.m == 0 && !x.st

/-- Two's complement reading of the low n bits. -/
def toSigned (n x : Nat) : Int := if x % 2 ^ n ≥ 2 ^ (n - 1) then (x % 2 ^ n : Nat) - (2 ^ n : Int) else (x % 2 ^ n : Nat)
/-- An integer as an exact value. -/
def intV (x : Int) : Val := .num { neg := x < 0, m := x.natAbs, e := 0 }

/-- Magnitude code and sign of a code. -/
def Fmt.split (f : Fmt) (c : Nat) : Bool × Nat :=
  match f.sign with
  | none => (false, c)
  | some b => (c / 2 ^ b % 2 == 1, c % 2 ^ b)

/-- The finite value of a magnitude code. -/
def Fmt.finite (f : Fmt) (neg : Bool) (mag : Nat) : RVal :=
  let ex := mag / 2 ^ (f.p - 1)
  let fr := mag % 2 ^ (f.p - 1)
  if ex == 0 then { neg := neg, m := fr, e := f.qmin }
  else { neg := neg, m := fr + 2 ^ (f.p - 1), e := f.qmin + ((ex : Int) - 1) }

/-- The value of a code (R321 to R327), with FLUSH applied to IEEE subnormals (R341). -/
def decodeCode (f : Fmt) (flush : Bool) (code : Nat) : Val :=
  let c := code % 2 ^ f.bits
  match f.kind with
  | .int sg => intV (if sg then toSigned f.bits c else c)
  | .e8m0 => if c == 0xFF then .nan false none else .num { neg := false, m := 1, e := (c : Int) - 127 }
  | .mxi8 => let x := toSigned 8 c; .num { neg := x < 0, m := x.natAbs, e := -6 }
  | .b8 =>
    if f.nan == some c then .nan false none
    else
      let (neg, mag) := f.split c
      if f.inf == some mag then .inf neg else .num (f.finite neg mag)
  | .mx =>
    let (neg, mag) := f.split (if f.sign == some 5 then c % 64 else c)
    if f.inf == some mag then .inf neg
    else if mag > f.maxCode then .nan false none
    else .num (f.finite neg mag)
  | .ieee =>
    let (neg, mag) := f.split c
    let fb := f.p - 1
    if f.inf == some mag then .inf neg
    else if mag > f.maxCode then
      let fr := mag % 2 ^ fb
      .nan (fr / 2 ^ (fb - 1) == 0) (some (neg, fr * 2 ^ (52 - fb)))
    else if flush && mag / 2 ^ fb == 0 then zeroV neg
    else .num (f.finite neg mag)

/-- An IEEE code is subnormal (R345). -/
def isSubnormal (f : Fmt) (c : Nat) : Bool :=
  f.kind == .ieee && (let mag := (f.split (c % 2 ^ f.bits)).2; mag != 0 && mag < 2 ^ (f.p - 1))

/-- The NaN code of a result in a format: canonical, or the operand's payload (R342). A format without a NaN gives 0. -/
def nanCode (f : Fmt) (nancan : Bool) (pay : Option (Bool × Nat)) : Nat :=
  match f.kind, pay with
  | .ieee, some (neg, fr) =>
    if nancan then f.nan.getD 0
    else
      let fb := f.p - 1
      (if neg then 2 ^ (f.bits - 1) else 0) + f.inf.getD 0 + (fr / 2 ^ (52 - fb) ||| 2 ^ (fb - 1))
  | _, _ => f.nan.getD 0

/-- A code with its sign. -/
def Fmt.join (f : Fmt) (neg : Bool) (mag : Nat) : Nat :=
  match f.sign with
  | none => mag
  | some b => if neg then mag + 2 ^ b else mag

/-! ## Rounding (R330 to R336) -/

/-- Whether the magnitude rounds away from zero: from the remainder over 2^sh, the sticky mark, the parity of the lower
candidate's code, and for STO the generator word of the lane. -/
def roundUp (mode : Nat) (neg : Bool) (r : Nat) (rem sh : Nat) (st odd : Bool) : Bool :=
  let exact := rem == 0 && !st
  let half := 2 ^ sh
  let cmp : Nat := if 2 * rem < half then 0 else if 2 * rem > half || st then 2 else 1
  if exact then false
  else match mode with
    | 0 => cmp == 2 || (cmp == 1 && odd)
    | 1 => false
    | 2 => !neg
    | 3 => neg
    | 4 => cmp ≥ 1
    | 5 => rem * 2 ^ 32 / 2 ^ sh + r ≥ 2 ^ 32
    | _ => false

/-- The multiple of 2^q at or below |x|, the remainder, and the shift it is taken over. -/
def splitAt (x : RVal) (q : Int) : Nat × Nat × Nat :=
  let sh := q - x.e
  if sh ≤ 0 then (x.m * 2 ^ (-sh).toNat, 0, 1) else (x.m / 2 ^ sh.toNat, x.m % 2 ^ sh.toNat, sh.toNat)

/-- A rounded result: its code, its flags, whether it was tiny before rounding, and whether it overflowed. -/
structure Rounded where
  code : Nat
  fl : Fl
  tiny : Bool := false
  ovf : Bool := false
  deriving DecidableEq, Repr

/-- What an overflow delivers (Table 13.7 and the adjustments of R332): `away` is STO's decision. -/
def overflowCode (f : Fmt) (mode : Nat) (sat neg away : Bool) : Nat :=
  let toInf := match mode with
    | 0 | 4 => true
    | 1 => false
    | 2 => !neg
    | 3 => neg
    | _ => away
  if !toInf || sat then f.join neg f.maxCode
  else match f.inf, f.nan with
    | some i, _ => f.join neg i
    | none, some n => n
    | none, none => f.join neg f.maxCode

/-- Rounds a non-zero real to a floating format (R331 to R333, R341). -/
def roundFloat (f : Fmt) (mode : Nat) (sat flush : Bool) (r : Nat) (x : RVal) : Rounded :=
  let top : Int := x.e + (Nat.log2 x.m : Int)
  let q := max (top - ((f.p : Int) - 1)) f.qmin
  let (n, rem, sh) := splitAt x q
  let low := n + (q - f.qmin).toNat * 2 ^ (f.p - 1)
  let exact := rem == 0 && !x.st
  let up := roundUp mode x.neg r rem sh x.st (low % 2 == 1)
  let code := if up then low + 1 else low
  let tiny := low < 2 ^ (f.p - 1)
  let fl := if exact then 0 else if tiny then Fl.uf ||| Fl.nx else Fl.nx
  if f.sign.isNone && x.neg && code != 0 then { code := if sat then 0 else f.nan.getD 0, fl := fl ||| Fl.nv, tiny := tiny }
  else if code > f.maxCode then { code := overflowCode f mode (sat || f.kind == .mx) x.neg up, fl := Fl.of ||| Fl.nx, ovf := true }
  else
    let neg := x.neg && (code != 0 || f.negZero)
    if flush && f.kind == .ieee && code != 0 && code < 2 ^ (f.p - 1) then
      { code := f.join neg 0, fl := Fl.uf ||| Fl.nx, tiny := true }
    else
      { code := f.join neg code, tiny := tiny, fl := fl }

/-- Rounds a real to an integer under a mode: the integer and whether it was exact. -/
def roundInt (mode r : Nat) (x : RVal) : Int × Bool :=
  let (n, rem, sh) := splitAt x 0
  let up := roundUp mode x.neg r rem sh x.st (n % 2 == 1)
  let k : Nat := if up then n + 1 else n
  (if x.neg then -(k : Int) else k, rem == 0 && !x.st)

/-- The range of an integer format. -/
def intRange (bits : Nat) (sg : Bool) : Int × Int :=
  if sg then (-(2 ^ (bits - 1) : Int), 2 ^ (bits - 1) - 1) else (0, 2 ^ bits - 1)
/-- Clamps an integer to a range. -/
def clampI (lo hi x : Int) : Int := if x < lo then lo else if hi < x then hi else x
/-- The low n bits of an integer. -/
def wrapN (n : Nat) (x : Int) : Nat := (x % (2 ^ n : Int)).toNat

/-- Rounding of an exact value to any format, with its flags: R330 to R334, R336, R341 and R342. -/
def roundVal (f : Fmt) (mode : Nat) (sat flush nancan : Bool) (r : Nat) (v : Val) : Rounded :=
  match v with
  | .nan sg pay =>
    match f.kind with
    | .int _ | .mxi8 => { code := 0, fl := Fl.nv }
    | _ => if f.nan.isNone then { code := 0, fl := Fl.nv }
           else { code := nanCode f nancan pay, fl := if sg then Fl.nv else 0 }
  | .inf neg =>
    match f.kind with
    | .int sg => let (lo, hi) := intRange f.bits sg; { code := wrapN f.bits (if neg then lo else hi), fl := Fl.nv }
    | .mxi8 => { code := if neg then 0x80 else 0x7F, fl := Fl.nv }
    | _ =>
      if f.sign.isNone && neg then { code := if sat then 0 else f.nan.getD 0, fl := Fl.nv }
      else match f.inf with
        | some i => { code := f.join neg i, fl := 0 }
        | none => { code := if sat || f.nan.isNone then f.join neg f.maxCode else f.nan.getD 0, fl := Fl.nv }
  | .num x =>
    if x.isZero then
      match f.kind with
      | .int _ | .mxi8 | .e8m0 => { code := 0, fl := 0 }
      | _ => { code := f.join (x.neg && f.negZero) 0, fl := 0 }
    else
      match f.kind with
      | .int sg =>
        let (k, exact) := roundInt mode r x
        let (lo, hi) := intRange f.bits sg
        let c := clampI lo hi k
        { code := wrapN f.bits c, fl := if c != k then Fl.nv else if exact then 0 else Fl.nx }
      | .mxi8 =>
        let (k, exact) := roundInt mode r { x with e := x.e + 6 }
        let c := clampI (-128) 127 k
        { code := wrapN 8 c, fl := if c != k then Fl.of ||| Fl.nx else if exact then 0 else Fl.nx, ovf := c != k }
      | .e8m0 => { code := 0, fl := 0 }
      | _ => roundFloat f mode sat flush r x

/-! ## Exact arithmetic -/

/-- Sign and magnitude of an integer at a scale. -/
def ofInt (k : Int) (e : Int) : RVal := { neg := k < 0, m := k.natAbs, e := e }
/-- The integer m with its sign. -/
def RVal.toInt (x : RVal) : Int := if x.neg then -(x.m : Int) else x.m

/-- Exact sum of two finite values; an exact zero sum of unlike signs takes the sign `zneg`. -/
def addR (x y : RVal) (zneg : Bool) : RVal :=
  if x.isZero && y.isZero then { neg := if x.neg == y.neg then x.neg else zneg, m := 0, e := 0 }
  else
    let e := min x.e y.e
    let k := x.toInt * 2 ^ (x.e - e).toNat + y.toInt * 2 ^ (y.e - e).toNat
    if k == 0 then { neg := zneg, m := 0, e := 0 } else ofInt k e

/-- Exact product. -/
def mulR (x y : RVal) : RVal := { neg := x.neg != y.neg, m := x.m * y.m, e := x.e + y.e }

/-- Value with its flags. -/
abbrev ValF := Val × Fl

/-- NV of a signalling operand. -/
def snanFl : Val → Fl
  | .nan true _ => Fl.nv
  | _ => 0
/-- A value is a NaN. -/
def Val.isNan : Val → Bool
  | .nan _ _ => true
  | _ => false
/-- A value is infinite. -/
def Val.isInf : Val → Bool
  | .inf _ => true
  | _ => false
/-- A value is zero. -/
def Val.isZero : Val → Bool
  | .num x => x.isZero
  | _ => false
/-- Sign of a value. -/
def Val.neg : Val → Bool
  | .nan _ (some (s, _)) => s
  | .nan _ none => false
  | .inf n => n
  | .num x => x.neg
/-- A NaN made from operands that are none (R342). -/
def newNan : Val := .nan false none
/-- A NaN operand as a result: quiet (R342). -/
def quiet : Val → Val
  | .nan _ p => .nan false p
  | v => v
/-- The first NaN among operands, in order. -/
def firstNan : List Val → Option Val
  | [] => none
  | v :: t => if v.isNan then some (quiet v) else firstNan t
/-- NV when an operand signals. -/
def snans (vs : List Val) : Fl := vs.foldl (fun f v => f ||| snanFl v) 0

/-- Exact sum a + b of IEEE semantics: `zneg` is the sign of an exact zero of unlike signs (RDN). -/
def addV (a b : Val) (zneg : Bool) : ValF :=
  match firstNan [a, b] with
  | some v => (v, snans [a, b])
  | none =>
    match a, b with
    | .inf x, .inf y => if x == y then (.inf x, 0) else (newNan, Fl.nv)
    | .inf x, _ => (.inf x, 0)
    | _, .inf y => (.inf y, 0)
    | .num x, .num y => (.num (addR x y zneg), 0)
    | _, _ => (newNan, 0)

/-- Exact product. -/
def mulV (a b : Val) : ValF :=
  match firstNan [a, b] with
  | some v => (v, snans [a, b])
  | none =>
    match a, b with
    | .inf x, y => if y.isZero then (newNan, Fl.nv) else (.inf (x != y.neg), 0)
    | x, .inf y => if x.isZero then (newNan, Fl.nv) else (.inf (x.neg != y), 0)
    | .num x, .num y => (.num (mulR x y), 0)
    | _, _ => (newNan, 0)

/-- Exact a × b + c: the first NaN among a, b, c stands, and 0 × ∞ raises NV whatever c is (R342, R386). -/
def fmaV (a b c : Val) (zneg : Bool) : ValF :=
  let bad := (a.isInf && b.isZero) || (a.isZero && b.isInf)
  match firstNan [a, b, c] with
  | some v => (v, snans [a, b, c] ||| (if bad then Fl.nv else 0))
  | none =>
    if bad then (newNan, Fl.nv)
    else
      let (p, _) := mulV a b
      addV p c zneg

/-- The quotient of two finite values, m of `extra` bits or more: exact, or with the sticky mark. -/
def divR (x y : RVal) : RVal :=
  let sh := 320 + Nat.log2 y.m - min (320 + Nat.log2 y.m) (Nat.log2 x.m)
  let n := x.m * 2 ^ sh
  { neg := x.neg != y.neg, m := n / y.m, e := x.e - y.e - (sh : Int), st := n % y.m != 0 || x.st }

/-- Integer square root by bits, from the highest: `n` bits of result. -/
def isqrtGo : Nat → Nat → Nat → Nat
  | 0, _, acc => acc
  | n + 1, x, acc =>
    let c := acc + 2 ^ n
    if c * c ≤ x then isqrtGo n x c else isqrtGo n x acc
/-- Integer square root. -/
def isqrt (x : Nat) : Nat := isqrtGo (Nat.log2 x / 2 + 1) x 0

/-- Square root of a non-negative finite value. -/
def sqrtR (x : RVal) : RVal :=
  let e0 := x.e - 256 - ((x.e % 2))
  let n := x.m * 2 ^ (x.e - e0).toNat
  let k := isqrt n
  { neg := false, m := k, e := e0 / 2, st := k * k != n || x.st }

/-- Compares two finite values: -1, 0 or 1. -/
def cmpR (x y : RVal) : Int :=
  let e := min x.e y.e
  let d := x.toInt * 2 ^ (x.e - e).toNat - y.toInt * 2 ^ (y.e - e).toNat
  if d < 0 then -1 else if d > 0 then 1 else 0

/-- Compares two values that are no NaN. -/
def cmpV : Val → Val → Int
  | .inf a, .inf b => if a == b then 0 else if a then -1 else 1
  | .inf a, _ => if a then -1 else 1
  | _, .inf b => if b then 1 else -1
  | .num x, .num y => cmpR x y
  | _, _ => 0

/-- fp32 addition under RNE as codes, flags discarded: the step of fp32 .add in memory (R417). -/
def fp32Add (flush nancan : Bool) (a b : Nat) : Nat :=
  (roundVal fp32 0 false flush nancan 0 (addV (decodeCode fp32 flush a) (decodeCode fp32 flush b) false).1).code

/-- One step of a converter's generator (R335). -/
def stoStep (x : Word) : Word :=
  let x := x ^^^ (x <<< 13)
  let x := x ^^^ (x >>> 17)
  x ^^^ (x <<< 5)
/-- Rotation left in 32 bits (R375). -/
def rotl32 (x : Word) (k : Nat) : Word := if k % 32 == 0 then x else (x <<< (k % 32)) ||| (x >>> (32 - k % 32))
/-- The generator word of a lane (R336). -/
def laneRand (x : Word) (l : Nat) : Nat := (rotl32 x (5 * l % 32)).toNat

end Machine
end Sys2Proof
end

