-- ==== Sys2Proof/Syntax.lean ====
section
/-! DEFINITION. The steps of the part: one constructor of Instr for each row of spec/opcode_table.json. An instruction
carries the named fields of its word and of its extension word; an event carries what the outside world, or the unit
concerned, supplies. -/

namespace Sys2Proof

/-- An extension word of E-mod layout (R353, Table 14.3). -/
structure EMod where
  gsense : Bool
  guard : BitVec 3
  src3 : BitVec 7
  fmt : BitVec 5
  rnd : BitVec 3
  sat : Bool
  usrc : Bool
  mod : BitVec 3
  byte : BitVec 8
  deriving DecidableEq, Repr

/-- An extension word of E-imm layout, float reading (R354, Table 14.4). -/
structure EFlt where
  gsense : Bool
  guard : BitVec 3
  rsv : BitVec 8
  sat : Bool
  rnd : BitVec 3
  imm16 : BitVec 16
  deriving DecidableEq, Repr

/-- The operand fields of an L-form word (R350) with its optional E-mod word. -/
structure LForm where
  sw : Bool
  vd : BitVec 7
  va : BitVec 7
  vb : BitVec 7
  ext : Option EMod
  deriving DecidableEq, Repr

/-- An L-form word with a 32-bit immediate: a form marked (I) (R354). -/
structure LImm where
  sw : Bool
  vd : BitVec 7
  va : BitVec 7
  vb : BitVec 7
  imm : Word
  deriving DecidableEq, Repr

/-- An L-form word with a float immediate: a form marked (F) (R354, R391). -/
structure LFlt where
  sw : Bool
  vd : BitVec 7
  va : BitVec 7
  vb : BitVec 7
  f : EFlt
  deriving DecidableEq, Repr

/-- The operand fields of a U-form word (R351) with its optional E-mod word. -/
structure UForm where
  sw : Bool
  gd : BitVec 6
  ga : BitVec 6
  gb : BitVec 6
  ext : Option EMod
  deriving DecidableEq, Repr

/-- A U-form word with a 32-bit immediate (R354, R435). -/
structure UImm where
  sw : Bool
  gd : BitVec 6
  ga : BitVec 6
  gb : BitVec 6
  imm : Word
  deriving DecidableEq, Repr

/-- A UB-form word (R352). -/
structure BForm where
  sw : Bool
  sense : Bool
  pred : BitVec 3
  off : BitVec 19
  deriving DecidableEq, Repr

/-- The four modes of a core (R162). -/
inductive CoreMode where
  | service | startUp | selfTest | recovery
  deriving DecidableEq, Repr

/-- The caches whose lines change of themselves (R174). -/
inductive CacheLevel where
  | l1 | l2 | icache | llc
  deriving DecidableEq, Repr

/-- What link training at start step 5 finds (R26, R46): each populated CXL port with its capacity in units of 256 MiB. The
fabric ports stay down until the device number is assigned (Table 2.3). -/
structure StartInputs where
  cxl : List (Nat × Nat)
  deriving DecidableEq, Repr

/-- A row of an SRAM array, as error-log entries name it (Table 2.4). -/
structure RowId where
  unit : Nat
  array : Nat
  row : Nat
  deriving DecidableEq, Repr

/-- What an ECC error struck (R35, R36). -/
inductive EccTarget where
  /-- clean cache data, a line of a cache of the row's unit: refetched, no consumer sees a fault -/
  | cleanCache (level : CacheLevel) (line : Nat)
  /-- other data: the locations of the protected word -/
  | data (locs : List Nat)
  /-- a core scratchpad: the team whose storage it is -/
  | coreScratch (team : Nat)
  /-- a word of the row's core's vector register file: wave slot, lane and register -/
  | vectorReg (slot lane reg : Nat)
  /-- a word of its uniform register file: wave slot and register -/
  | uniformReg (slot reg : Nat)
  /-- a predicate register of a wave, and its uniform predicates -/
  | predicate (slot reg : Nat)
  | uniPred (slot : Nat)
  /-- a stream register of one lane -/
  | streamReg (slot lane reg : Nat)
  /-- an entry of the row's core's split table -/
  | splitEntry (entry : Nat)
  /-- an I/O-die array: the context that owns the entry -/
  | ioDie (ctx : Nat)
  deriving DecidableEq, Repr

/-- A fabric stream: the peer and the PASID of its source (R55). As a source the module names the destination device
and its own PASID; as a destination it names the source device and the source PASID. -/
structure StreamId where
  peer : BitVec 22
  pasid : BitVec 20
  deriving DecidableEq, Repr

/-- What a fabric operation does at the destination (R54, R56). -/
inductive FabKind where
  | load | store | atomic (op : BitVec 3) (fp : Bool) (signed : Bool) | cas
  deriving DecidableEq, Repr

/-- A fabric operation: header fields and payload (R49, R55). -/
structure FabOp where
  stream : StreamId
  /-- the PASID at the destination (R54) -/
  ppasid : BitVec 20
  epoch : BitVec 8
  num : Word
  kind : FabKind
  release : Bool
  addr : Addr
  len : Nat
  data : List Byte
  deriving DecidableEq, Repr

/-- The number of a fabric operation's kind, which its code in a header follows. -/
def FabKind.number : FabKind → Nat
  | .load => 0
  | .store => 1
  | .cas => 2
  | .atomic op fp sgn => 3 + op.toNat * 4 + (if fp then 2 else 0) + (if sgn then 1 else 0)

/-- The 16 header bytes of a flit that carries an operation from device `src` to device `dest` (R49):
dest | src | pasid | seq | op | len | vc | epoch | rsv, from bit 127 down. The PASID is the stream's, that of the source (log entry 18). -/
def FabOp.header (o : FabOp) (dest src : BitVec 22) : BitVec 128 :=
  dest ++ src ++ o.stream.pasid ++ o.num ++ Config.fabCode (o.kind.number * 2 + (if o.release then 1 else 0)) ++ BitVec.ofNat 8 o.len ++
    Config.fabChannel o.kind.number ++ o.epoch ++ (0 : BitVec 6)

/-- An acknowledgement of a stream operation, with the data of a load or atomic (R54, R55). -/
structure FabAck where
  stream : StreamId
  epoch : BitVec 8
  num : Word
  refused : Bool
  poisoned : Bool
  data : List Byte
  deriving DecidableEq, Repr

/-- A flit as it arrives (R49 to R51): the header of bytes 0 to 15, what the operation code and the payload of bytes 16 to 239 say (the
manual gives neither codes nor their layout), the link sequence number of bytes 240 to 247, and the verdict of the CRC behind it. -/
structure Flit where
  header : BitVec 128
  ppasid : BitVec 20
  kind : FabKind
  release : Bool
  addr : Addr
  data : List Byte
  linkSeq : BitVec 64
  crcOk : Bool
  deriving DecidableEq, Repr

/-- The destination that a header names. -/
def Flit.dest (f : Flit) : BitVec 22 := f.header.extractLsb' 106 22
/-- The operation that a flit brings: source, PASID, sequence number, length and epoch as the header has them. -/
def Flit.op (f : Flit) : FabOp :=
  { stream := { peer := f.header.extractLsb' 84 22, pasid := f.header.extractLsb' 64 20 }, ppasid := f.ppasid,
    epoch := f.header.extractLsb' 6 8, num := f.header.extractLsb' 32 32, kind := f.kind, release := f.release, addr := f.addr,
    len := (f.header.extractLsb' 16 8).toNat, data := f.data }

/-- A Translation Completion (R59, R61). `size` is the base-two logarithm of the page size. -/
inductive AtsReply where
  | success (t : Addr) (r w u : Bool) (size : Nat)
  | refused
  deriving DecidableEq, Repr

/-- The code of a PRI Page Response (R64). -/
inductive PrCode where
  | success | invalid | failure
  deriving DecidableEq, Repr

/-- What comes with an event from the outside world or from the unit concerned; the docstring of each event's meaning says
which fields it reads. `unit` names the core, die, quartet, port or context, `item` what of it. -/
structure Input where
  unit : Nat := 0
  item : Nat := 0
  id : Nat := 0
  val : Nat := 0
  flag : Bool := false
  lanes : Mask := 0
  bytes : List Byte := []
  start : StartInputs := { cxl := [] }
  row : RowId := { unit := 0, array := 0, row := 0 }
  ecc : EccTarget := .data []
  stream : StreamId := { peer := 0, pasid := 0 }
  flit : Option Flit := none
  ack : Option FabAck := none
  ats : AtsReply := .refused
  pr : PrCode := .success
  mode : CoreMode := .service
  level : CacheLevel := .l1
  pasid : Option (BitVec 20) := none
  deriving DecidableEq, Repr

/-- Every step of the part: one constructor for each row of spec/opcode_table.json. -/
inductive Instr where
  /-- IADD (R379). Integer add. -/
  | iadd (f : LForm)
  /-- IADD_I (R384). Integer add of a 32-bit immediate. -/
  | iaddI (f : LImm)
  /-- IADDC (R380). Add with carry through a predicate. -/
  | iaddc (f : LForm)
  /-- ISUB (R379). Integer subtract. -/
  | isub (f : LForm)
  /-- IMUL (R379). Integer multiply, low bits. -/
  | imul (f : LForm)
  /-- IMULH (R379). High half of the integer product. -/
  | imulh (f : LForm)
  /-- IMAD (R379). Integer multiply-add. -/
  | imad (f : LForm)
  /-- IMIN (R379). Integer minimum. -/
  | imin (f : LForm)
  /-- IMAX (R379). Integer maximum. -/
  | imax (f : LForm)
  /-- IABS (R379). Integer absolute value. -/
  | iabs (f : LForm)
  /-- AND (R381). Bitwise AND. -/
  | and (f : LForm)
  /-- OR (R381). Bitwise OR. -/
  | or (f : LForm)
  /-- XOR (R381). Bitwise XOR. -/
  | xor (f : LForm)
  /-- LOP3 (R381). Three-input logic operation by truth table. -/
  | lop3 (f : LForm)
  /-- SHL (R381). Shift left. -/
  | shl (f : LForm)
  /-- SHR (R381). Logical shift right. -/
  | shr (f : LForm)
  /-- SAR (R381). Arithmetic shift right. -/
  | sar (f : LForm)
  /-- ROT (R381). Rotate. -/
  | rot (f : LForm)
  /-- BFX (R382). Bit-field extract. -/
  | bfx (f : LForm)
  /-- BFI (R382). Bit-field insert. -/
  | bfi (f : LForm)
  /-- POPC (R381). Population count. -/
  | popc (f : LForm)
  /-- CLZ (R381). Count of leading zeros. -/
  | clz (f : LForm)
  /-- BREV (R381). Bit reverse. -/
  | brev (f : LForm)
  /-- PRMT (R382). Byte permute. -/
  | prmt (f : LForm)
  /-- ICMP (R383). Integer compare into a predicate. -/
  | icmp (f : LForm)
  /-- SEL (R383). Select by predicate. -/
  | sel (f : LForm)
  /-- MOV (R383). Register move. -/
  | mov (f : LForm)
  /-- MOV_SPECIAL (R364). Move of a lane-valued special register. -/
  | movSpecial (f : LForm)
  /-- MOVI (R383). Move of a 32-bit immediate. -/
  | movi (f : LImm)
  /-- IMUL_I (R384). Integer multiply by an immediate. -/
  | imulI (f : LImm)
  /-- AND_I (R384). AND with an immediate. -/
  | andI (f : LImm)
  /-- OR_I (R384). OR with an immediate. -/
  | orI (f : LImm)
  /-- XOR_I (R384). XOR with an immediate. -/
  | xorI (f : LImm)
  /-- ICMP_I (R384). Integer compare with an immediate. -/
  | icmpI (f : LImm)
  /-- IMIN_I (R384). Integer minimum with an immediate. -/
  | iminI (f : LImm)
  /-- IMAX_I (R384). Integer maximum with an immediate. -/
  | imaxI (f : LImm)
  /-- FADD (R386). Floating-point add. -/
  | fadd (f : LForm)
  /-- FADD_F (R391). fp32 add of an immediate. -/
  | faddF (f : LFlt)
  /-- FMUL (R386). Floating-point multiply. -/
  | fmul (f : LForm)
  /-- FMUL_F (R391). fp32 multiply by an immediate. -/
  | fmulF (f : LFlt)
  /-- FFMA (R386). Fused multiply-add. -/
  | ffma (f : LForm)
  /-- FFMA_F (R391). Fused multiply-add with an immediate. -/
  | ffmaF (f : LFlt)
  /-- FMIN (R387). Floating-point minimum under MINMAX. -/
  | fmin (f : LForm)
  /-- FMAX (R387). Floating-point maximum under MINMAX. -/
  | fmax (f : LForm)
  /-- FCMP (R387). Floating-point compare into a predicate. -/
  | fcmp (f : LForm)
  /-- FCMP_F (R391). fp32 compare with an immediate. -/
  | fcmpF (f : LFlt)
  /-- FRND (R390). Round to an integral value. -/
  | frnd (f : LForm)
  /-- FRCP (R388). Reciprocal. -/
  | frcp (f : LForm)
  /-- FRSQ (R388). Reciprocal square root. -/
  | frsq (f : LForm)
  /-- FSQRT (R388). Square root. -/
  | fsqrt (f : LForm)
  /-- FEXP2 (R389). Base-2 exponential. -/
  | fexp2 (f : LForm)
  /-- FLOG2 (R389). Base-2 logarithm. -/
  | flog2 (f : LForm)
  /-- FSIN (R389). sin(π × a). -/
  | fsin (f : LForm)
  /-- FCOS (R389). cos(π × a). -/
  | fcos (f : LForm)
  /-- FTANH (R389). Hyperbolic tangent. -/
  | ftanh (f : LForm)
  /-- DADD (R386). fp64 add. -/
  | dadd (f : LForm)
  /-- DMUL (R386). fp64 multiply. -/
  | dmul (f : LForm)
  /-- DFMA (R386). fp64 fused multiply-add. -/
  | dfma (f : LForm)
  /-- DADD_F (R391). fp64 add of an immediate. -/
  | daddF (f : LFlt)
  /-- HFMA2 (R386). Paired 16-bit fused multiply-add. -/
  | hfma2 (f : LForm)
  /-- HFMA2_F (R391). Paired fp16 multiply-add with an immediate. -/
  | hfma2F (f : LFlt)
  /-- VDOT4 (R396). Four-element 8-bit float dot product into fp32. -/
  | vdot4 (f : LForm)
  /-- VDOT8 (R396). Eight-element integer dot product into i32. -/
  | vdot8 (f : LForm)
  /-- MXDOT (R397). Scaled MX block dot product. -/
  | mxdot (f : LForm)
  /-- CVT (R393). Format conversion. -/
  | cvt (f : LForm)
  /-- CVTSR (R394). Conversion with stochastic rounding from a supplied word. -/
  | cvtsr (f : LForm)
  /-- PACK (R395). Pack narrow elements. -/
  | pack (f : LForm)
  /-- UNPK (R395). Unpack a narrow element. -/
  | unpk (f : LForm)
  /-- QNT (R398). Quantise fp32 blocks into an MX format. -/
  | qnt (f : LForm)
  /-- SHFL (R401). Lane shuffle within groups. -/
  | shfl (f : LForm)
  /-- VOTE (R402). Predicate vote within groups. -/
  | vote (f : LForm)
  /-- BALLOT (R402). Predicate ballot into a 64-bit pair. -/
  | ballot (f : LForm)
  /-- REDUX (R403). Group reduction. -/
  | redux (f : LForm)
  /-- SCAN (R403). Group prefix scan. -/
  | scan (f : LForm)
  /-- QSWZ (R404). Quad swizzle. -/
  | qswz (f : LForm)
  /-- DERIV (R404). Quad derivative. -/
  | deriv (f : LForm)
  /-- LD (R410). Lane load. -/
  | ld (f : LForm)
  /-- ST (R410). Lane store. -/
  | st (f : LForm)
  /-- LDS (R412). Window load through a 32-bit offset. -/
  | lds (f : LForm)
  /-- STS (R412). Window store through a 32-bit offset. -/
  | sts (f : LForm)
  /-- LDF (R413). Full-empty load, blocking until the granule is full. -/
  | ldf (f : LForm)
  /-- STF (R413). Full-empty store, setting the granule full. -/
  | stf (f : LForm)
  /-- SFILL (R414). Sets the granules of a range empty. -/
  | sfill (f : LForm)
  /-- ATOM (R417). Atomic read-modify-write. -/
  | atom (f : LForm)
  /-- ATCAS (R417). Atomic compare-and-swap. -/
  | atcas (f : LForm)
  /-- RED (R417). Non-returning reduction. -/
  | red (f : LForm)
  /-- WAITC (R418). Wait until a location meets a condition. -/
  | waitc (f : LForm)
  /-- PREF (R415). Prefetch hint. -/
  | pref (f : LForm)
  /-- TEX (R422). Filtered texture sample. -/
  | tex (f : LForm)
  /-- TLD (R423). Texel load. -/
  | tld (f : LForm)
  /-- IMGST (R423). Texel store. -/
  | imgst (f : LForm)
  /-- SOPEN (R426). Opens a direct stream. -/
  | sopen (f : LForm)
  /-- ISOPEN (R426). Opens an indirect stream. -/
  | isopen (f : LForm)
  /-- SCLOSE (R428). Closes a stream. -/
  | sclose (f : LForm)
  /-- SADV (R428). Advances a stream. -/
  | sadv (f : LForm)
  /-- STEND (R428). Tests a stream for its end. -/
  | stend (f : LForm)
  /-- SRD (R427). Stream read. -/
  | srd (f : LForm)
  /-- SWR (R427). Stream write. -/
  | swr (f : LForm)
  /-- TFEED (R431). Writes lane bytes into a tile. -/
  | tfeed (f : LForm)
  /-- TDRAIN (R431). Reads tile bytes into lanes. -/
  | tdrain (f : LForm)
  /-- GADD (R434). Uniform add. -/
  | gadd (f : UForm)
  /-- GADD_I (R435). Uniform add of an immediate. -/
  | gaddI (f : UImm)
  /-- GSUB (R434). Uniform subtract. -/
  | gsub (f : UForm)
  /-- GSUB_I (R435). Uniform subtract of an immediate. -/
  | gsubI (f : UImm)
  /-- GMUL (R434). Uniform multiply. -/
  | gmul (f : UForm)
  /-- GMUL_I (R435). Uniform multiply by an immediate. -/
  | gmulI (f : UImm)
  /-- GAND (R434). Uniform AND. -/
  | gand (f : UForm)
  /-- GAND_I (R435). Uniform AND with an immediate. -/
  | gandI (f : UImm)
  /-- GOR (R434). Uniform OR. -/
  | gor (f : UForm)
  /-- GOR_I (R435). Uniform OR with an immediate. -/
  | gorI (f : UImm)
  /-- GXOR (R434). Uniform XOR. -/
  | gxor (f : UForm)
  /-- GXOR_I (R435). Uniform XOR with an immediate. -/
  | gxorI (f : UImm)
  /-- GSHL (R434). Uniform shift left. -/
  | gshl (f : UForm)
  /-- GSHL_I (R435). Uniform shift left by an immediate. -/
  | gshlI (f : UImm)
  /-- GSHR (R434). Uniform shift right. -/
  | gshr (f : UForm)
  /-- GSHR_I (R435). Uniform shift right by an immediate. -/
  | gshrI (f : UImm)
  /-- GCMP (R434). Uniform compare into a q predicate. -/
  | gcmp (f : UForm)
  /-- GCMP_I (R435). Uniform compare with an immediate. -/
  | gcmpI (f : UImm)
  /-- GSEL (R434). Uniform select by predicate. -/
  | gsel (f : UForm)
  /-- GMOV (R434). Uniform move. -/
  | gmov (f : UForm)
  /-- GMOVI (R435). Uniform move of an immediate. -/
  | gmovi (f : UImm)
  /-- GLD (R437). Uniform load. -/
  | gld (f : UForm)
  /-- GLD_I (R437). Relaxed uniform load at an immediate offset. -/
  | gldI (f : UImm)
  /-- GST (R437). Uniform store. -/
  | gst (f : UForm)
  /-- GST_I (R437). Relaxed uniform store at an immediate offset. -/
  | gstI (f : UImm)
  /-- BRA (R438). Branch on a q predicate. -/
  | bra (f : BForm)
  /-- BRC (R439). Per-lane conditional branch that may split the fragment. -/
  | brc (f : BForm)
  /-- BRU (R438). Branch of the whole fragment when any running lane's predicate holds. -/
  | bru (f : BForm)
  /-- CALL (R440). Call that writes a per-lane link pair. -/
  | call (f : BForm)
  /-- RET (R441). Return to per-lane link targets, splitting by target. -/
  | ret (f : UForm)
  /-- JMPI (R441). Indirect jump, with an optional link. -/
  | jmpi (f : UForm)
  /-- EXIT (R445). Ends the running lanes, returns from a trap handler, or ends a rank program. -/
  | exit (f : UForm)
  /-- NOP (R443). No operation. -/
  | nop (f : UForm)
  /-- RCV (R443). Reconvergence point. -/
  | rcv (f : UForm)
  /-- YLD (R443). Yield point: sets BUDGET and stops the fragment when pre-emption is pending. -/
  | yld (f : UForm)
  /-- IDR (R444). Opens an idempotent region. -/
  | idr (f : UForm)
  /-- TRAP (R446). Raises TRAPI. -/
  | trap (f : UImm)
  /-- BRK (R446). Raises BRK, or halts the wave for the debugger. -/
  | brk (f : UImm)
  /-- BAR (R448). Team barrier. -/
  | bar (f : UForm)
  /-- CBAR (R448). Cluster barrier. -/
  | cbar (f : UForm)
  /-- FENCE (R451). Memory fence at a scope. -/
  | fence (f : UForm)
  /-- BIND (R452). Writes a region-binding entry. -/
  | bind (f : UForm)
  /-- UNBIND (R452). Clears a region-binding entry. -/
  | unbind (f : UForm)
  /-- SCOPESET (R453). Privileged write of a scope-table entry. -/
  | scopeset (f : UForm)
  /-- SCOPESYNC (R454). Waits for earlier scope updates to end. -/
  | scopesync (f : UForm)
  /-- EXPECT (R455). Adds to a task's COUNT. -/
  | expect (f : UForm)
  /-- MFS (R456). Reads a special register. -/
  | mfs (f : UForm)
  /-- MTS (R456). Writes a special register. -/
  | mts (f : UForm)
  /-- ROLE (R457). Reads a role binding table entry. -/
  | role (f : UForm)
  /-- ENQ (R458). Creates one team or cluster from a descriptor. -/
  | enq (f : UForm)
  /-- ENQG (R458). Creates a grid of n teams. -/
  | enqg (f : UForm)
  /-- SEGATT_LD (R460). Attaches a named segment, loading or moving it if needed. -/
  | segattLd (f : UForm)
  /-- SEGATT_NF (R460). Attaches a named segment without moving it. -/
  | segattNf (f : UForm)
  /-- SEGDET (R461). Detaches a segment handle. -/
  | segdet (f : UForm)
  /-- SEGPIN (R461). Pins or unpins a named segment. -/
  | segpin (f : UForm)
  /-- CPYGO (R471). Posts a copy job card to a copy channel. -/
  | cpygo (f : UForm)
  /-- CPYWT (R472). Waits for a copy channel count and reads DONE and FAILED. -/
  | cpywt (f : UForm)
  /-- TASKPOST (R474). Posts a task card and waits for the arm or the refusal. -/
  | taskpost (f : UForm)
  /-- TASKWT (R475). Waits for a task entry to become IDLE and reads its status. -/
  | taskwt (f : UForm)
  /-- MMA (R467). Posts a dense matrix multiply-accumulate. -/
  | mma (f : UForm)
  /-- MMAS (R467). Posts a 2:4 sparse matrix multiply-accumulate. -/
  | mmas (f : UForm)
  /-- MLUT (R467). Posts a table-lookup integer multiply. -/
  | mlut (f : UForm)
  /-- MZERO (R468). Posts a zeroing of a tile. -/
  | mzero (f : UForm)
  /-- MLD (R468). Posts a load of a tile from memory. -/
  | mld (f : UForm)
  /-- MST (R468). Posts a store of a tile to memory. -/
  | mst (f : UForm)
  /-- MCVT (R469). Posts a tile format conversion. -/
  | mcvt (f : UForm)
  /-- MWAIT (R470). Waits for the team's matrix requests and reads and clears %mhalt. -/
  | mwait (f : UForm)
  /-- RAYQ (R476). Posts a beam query to the Indigo engine. -/
  | rayq (f : UForm)
  /-- RAYWT (R477). Waits for a query count and reads its status. -/
  | raywt (f : UForm)
  /-- EMIT (R481). Hands a meshlet to the geometry front. -/
  | emit (f : UForm)
  /-- PAYW (R479). Takes a payload slot and creates mesh tickets. -/
  | payw (f : UForm)
  /-- PAYR (R480). Reads a word of the mesh team's payload slot. -/
  | payr (f : UForm)
  /-- ATLREQ (R482). Requests an atlas block for a key. -/
  | atlreq (f : UForm)
  /-- UNASSIGNED_ENCODING (R357). A fragment reaches a word whose major or sub-operation is unassigned, and it raises a precise ILLOP with cause 1 or 2. -/
  | unassignedEncoding (w e : Word)
  /-- COLD_START (R25). Module power is applied, or a warm start finds bad checksums, and the nine start steps run in order. -/
  | coldStart
  /-- WARM_START (R26). A reset requested by the host or the management plane runs the start steps while power stays applied. -/
  | warmStart
  /-- POWER_REMOVAL (R20). Module power is removed, and all state except the firmware flash is lost. -/
  | powerRemoval
  /-- PWR_CAP_WRITE (R21). A write to PWR_CAP merges the written bytes and range-checks the cap: a valid cap applies at the next refill period, and an invalid one is ignored and sets CAP_ERR. -/
  | pwrCapWrite
  /-- TOKEN_REFILL (R22). Once per microsecond the power controller measures P_other and adds the refill to the token pool. -/
  | tokenRefill
  /-- CLOCK_STEP (R24). Once per microsecond the arithmetic clock is lowered or raised by 250 MHz depending on CAP − P_other. -/
  | clockStep
  /-- GET_VERSION (R29). An SPDM GET_VERSION request arrives at the DOE mailbox and is answered. -/
  | getVersion
  /-- GET_CAPABILITIES (R29). An SPDM GET_CAPABILITIES request is answered. -/
  | getCapabilities
  /-- NEGOTIATE_ALGORITHMS (R29). An SPDM NEGOTIATE_ALGORITHMS request is answered. -/
  | negotiateAlgorithms
  /-- GET_DIGESTS (R29). An SPDM GET_DIGESTS request is answered. -/
  | getDigests
  /-- GET_CERTIFICATE (R29). An SPDM GET_CERTIFICATE request is answered. -/
  | getCertificate
  /-- CHALLENGE (R29). An SPDM CHALLENGE request is answered with the device identity key. -/
  | challenge
  /-- GET_MEASUREMENTS (R29). An SPDM GET_MEASUREMENTS request returns the firmware measurement or the list of retired units. -/
  | getMeasurements
  /-- UNSUPPORTED_SPDM_REQUEST (R29). Any other SPDM request returns ERROR with code UnsupportedRequest. -/
  | unsupportedSpdmRequest
  /-- ECC_ERROR (R33). ECC corrects or detects an error in an SRAM word, writes an error-log entry, and poisons the data if it is uncorrected. -/
  | eccError
  /-- ROW_TEST_RESULT (R34). The march test ends: a transient error frees the spare, and a lasting error keeps the spare and records it in flash. -/
  | rowTestResult
  /-- RETIREMENT_SAVE (R313). At its next yield point a team on a retiring unit is saved and rebound, or it keeps running when no room is found. -/
  | retirementSave
  /-- CONFIG_REQUEST (R40). A configuration request reaches function 1, and before the hand-off it completes with Configuration Request Retry Status. -/
  | configRequest
  /-- REGISTER_WRITE (R44). A write to a register that has no row of its own merges the written bytes, applies RW, W1C and WO semantics, and is ignored at unlisted offsets. -/
  | registerWrite
  /-- RESET_CTL_WARM (R25). Writing 1 to RESET_CTL.WARM ends every context without quiescence reports and requests a warm start. -/
  | resetCtlWarm
  /-- DEV_NUM_WRITE (R50). A write to DEV_NUM sets the device number and VALID, and every fabric port stays down while VALID is 0. -/
  | devNumWrite
  /-- FAB_PORT_STAT_READ (R44). A read of FAB_PORT_STAT returns the counters and clears FAILS, MISROUTE and RETRIES. -/
  | fabPortStatRead
  /-- ENTRY_LOW_WORD_WRITE (R44). A write of the low 64-bit word of a 128-bit management entry is held in the entry's staging half. -/
  | entryLowWordWrite
  /-- FAB_ROUTE_WRITE (R53). A write of the high word of a FAB_ROUTE entry makes the entry take effect whole, with the staged low word. -/
  | fabRouteWrite
  /-- FAB_WIN_WRITE (R54). A write of the high word of a FAB_WIN entry commits the window, which applies to accesses issued after the write. -/
  | fabWinWrite
  /-- FLIT_RECEIVE (R50). A 256-byte flit arrives on a fabric port: a flit for another device is dropped and counted in MISROUTE. -/
  | flitReceive
  /-- PORT_DOWN (R52). A fabric port leaves UP, and the path fails. -/
  | portDown
  /-- RETRAIN_TIMEOUT (R52). Retraining has lasted 8,192 I/O-die cycles, and the path fails. -/
  | retrainTimeout
  /-- ACK_TIMEOUT (R52). A flit has gone unacknowledged for 16,384 I/O-die cycles: the path fails and the port is taken down and retrained. -/
  | ackTimeout
  /-- STREAM_BREAK (R56). No path has been UP for 65,536 I/O-die cycles: pending loads return poison, stores are dropped, and a FABRICDOWN record is written. -/
  | streamBreak
  /-- FABRIC_OPERATION_ARRIVAL (R55). An operation arrives at the destination and is applied, discarded, held, or begins a new epoch, according to its epoch and number. -/
  | fabricOperationArrival
  /-- FABRIC_ACK (R55). An acknowledgement of a stream operation arrives at the source. -/
  | fabricAck
  /-- CLOSE_RECEIVE (R55). The source receives a close that names a stream and its epoch. -/
  | closeReceive
  /-- CLOSE_ANSWER_RECEIVE (R55). The destination receives the answer to a close and frees the stream entry. -/
  | closeAnswerReceive
  /-- RETRY_RESPONSE (R55). The source receives a retry response to an operation that opens a new stream. -/
  | retryResponse
  /-- RETRY_RESEND (R55). 1,024 I/O-die cycles after a retry response, the refused operation is sent again. -/
  | retryResend
  /-- FABRIC_RELEASE_SEND (R56). Once every earlier operation of its stream has been acknowledged, a release to a window is sent. -/
  | fabricReleaseSend
  /-- CXL_PORT_DOWN (R48). A CXL port goes down: its granules read as poison, writes to them are dropped, and an ERRLOG entry of KIND 6 is written. -/
  | cxlPortDown
  /-- CXL_POISON (R48). A CXL device reports poison, which is treated as data from a failed port. -/
  | cxlPoison
  /-- ATS_REQUEST (R60). A miss in the die or I/O-die translation cache sends an ATS Translation Request once the bounds on outstanding requests allow it. -/
  | atsRequest
  /-- TRANSLATION_COMPLETION (R61). A Translation Completion arrives: it is installed, or it raises a page request, leads to an untranslated access, or gives ACCESS. -/
  | translationCompletion
  /-- PAGE_REQUEST_ENQUEUE (R62). A waiting page request enters the device queue when an entry frees. -/
  | pageRequestEnqueue
  /-- PAGE_REQUEST_SEND (R42). A queued page request leaves the device queue for the host when the PRI allocation allows. -/
  | pageRequestSend
  /-- PAGE_RESPONSE (R64). A PRI Page Response arrives: Success requests fresh translations and replays, Invalid Request gives ACCESS, and Response Failure gives PRIFAIL. -/
  | pageResponse
  /-- ATS_INVALIDATION (R66). An ATS Invalidation Request arrives and is multicast over the acknowledgement tree, with its timer started. -/
  | atsInvalidation
  /-- INVALIDATION_ACK (R66). A leaf acknowledges once it has dropped the entries and drained the accesses that used them. -/
  | invalidationAck
  /-- INVALIDATION_TIMEOUT (R68). A die has not acknowledged within 65,536 I/O-die cycles and is fenced. -/
  | invalidationTimeout
  /-- CONTEXT_ENABLE (R75). Writing 1 to CTX_CTL.ENABLE while FREE checks the configuration, and then either activates the context or sets CFGERR. -/
  | contextEnable
  /-- CTX_TEARDOWN_WRITE (R96). Writing 1 to CTX_CTL.TEARDOWN starts teardown, as a TEARDOWN packet that passes its checks does. -/
  | ctxTeardownWrite
  /-- SUB_TAIL_WRITE (R78). A write to SUB_TAIL advances the host-ring count, or it is ignored and sets RINGERR. -/
  | subTailWrite
  /-- CTX_PREEMPT_REQ (R94). Writing 1 to CTX_PREEMPT.REQ requests pre-emption of every incomplete dispatched launch of the context. -/
  | ctxPreemptReq
  /-- PACKET_ARRIVAL (R81). Woad reads one packet from a ring or from the task scheduler, stamps it, checks it, runs the rank program, and queues it or fails it. -/
  | packetArrival
  /-- DRING_WAKE (R79). A write to the next device-ring slot's first granule wakes Woad's condition monitor. -/
  | dringWake
  /-- LAUNCH (R86). A LAUNCH packet is dispatched, and its seed is offered to the dies or becomes a waiting seed. -/
  | launch
  /-- BARRIER (R86). A BARRIER packet is dispatched and completes once every earlier packet of the context has completed. -/
  | barrier
  /-- SIGNAL (R86). A SIGNAL packet is dispatched and stores VALUE at ADDR with a release at the system scope. -/
  | signal
  /-- SIGNAL_STORE_DONE (R86). The SIGNAL store is performed or fails, and the packet completes with OK or FAULT. -/
  | signalStoreDone
  /-- SEGMENT_CREATE (R181). A SEGMENT create puts the name into the lowest RELEASED entry as DECLARED, or completes with SEGFAIL. -/
  | segmentCreate
  /-- SEGMENT_DESTROY (R181). A SEGMENT destroy sets DYING, and the segment is released once ATTACH and BUSY are 0. -/
  | segmentDestroy
  /-- SEGMENT_PIN (R181). A SEGMENT pin sets PIN on the live entry. -/
  | segmentPin
  /-- SEGMENT_UNPIN (R181). A SEGMENT unpin clears PIN on the live entry. -/
  | segmentUnpin
  /-- SEGMENT_INVALID_OP (R181). A SEGMENT packet with OP 0 or 5 to 15 completes at once with SEGFAIL. -/
  | segmentInvalidOp
  /-- SCOPE (R208). A SCOPE packet is dispatched and writes and multicasts a programmed scope-table entry. -/
  | scope
  /-- TEARDOWN (R96). A TEARDOWN packet takes effect on arrival, aborts queued and dispatched work, and kills the context's waves. -/
  | teardown
  /-- TEARDOWN_QUIESCENT (R96). Once every unit reports quiescence, keys are regenerated, translations are dropped, segments are released, the context becomes FREE and TDDONE is set. -/
  | teardownQuiescent
  /-- QUANTUM_EXPIRY (R89). A fall-back context has been busy for CTX_QUANTUM microseconds, and QUANTUM is set. -/
  | quantumExpiry
  /-- PREEMPT_ARRIVAL (R94). A multicast pre-emption request reaches a core and starts interval I for the victim's teams there. -/
  | preemptArrival
  /-- TICKET_CLAIM (R111). An Ochre agent with free capacity claims a ticket by atomic add and places the team, or puts it on the pending list. -/
  | ticketClaim
  /-- PENDING_RETRY (R112). A load-board entry gains resources, and the agent retries its pending tickets. -/
  | pendingRetry
  /-- SEED_REOFFER (R488). A load-board entry of a usable die gains room, and Woad offers waiting seeds again, beginning with that die. -/
  | seedReoffer
  /-- AFFINITY_TIMEOUT (R115). A team held for a home without room has waited 65,536 cycles: the segment is evicted, or the team is placed without affinity. -/
  | affinityTimeout
  /-- WAVE_ENTRY_GRANT (R125). A starting or resuming wave that was waiting for split-table entries receives them and may issue. -/
  | waveEntryGrant
  /-- RESULT_RETURN (R148). A variable-latency result returns, writes its lanes, clears scoreboards, and may end SWAIT. -/
  | resultReturn
  /-- MISS_SPLIT (R132). THRESH cycles after entering SWAIT, the complete quads of the fragment continue as a new fragment. -/
  | missSplit
  /-- FAULT_SPLIT (R133). THRESH cycles after entering XLATE, the finished quads of the fragment continue after the faulting load. -/
  | faultSplit
  /-- FUSE_TIMEOUT (R138). An RCV group's TIMER reaches 0, and the fragments that have arrived fuse and continue. -/
  | fuseTimeout
  /-- RECONVERGENCE_RELEASE (R139). Every live fragment is waiting, and the RCV group with the highest point is released. -/
  | reconvergenceRelease
  /-- FUSETO (R143). A forced-fuse wait's TIMER reaches 0, and a precise FUSETO is raised. -/
  | fuseto
  /-- SPLITWAIT_RETRY (R136). An entry or a serial frame frees, and the BRC in SPLITWAIT splits or takes the frame. -/
  | splitwaitRetry
  /-- POOL_EVICT (R152). A pool wave idle for more than 32 cycles leaves the active pool for the oldest ready wave outside it. -/
  | poolEvict
  /-- TEAM_SAVE (R158). Every live fragment of the team is at a stop point and every result has returned, and the agent begins writing the team image. -/
  | teamSave
  /-- TEAM_SAVE_DONE (R312). The team's image is written to the die's reserve, its storage is freed, and it becomes a resume ticket. -/
  | teamSaveDone
  /-- IDR_PREEMPT (R161). A privileged wave inside an idempotent region is pre-empted at an instruction boundary, with the masked registers recorded. -/
  | idrPreempt
  /-- COREMODE_CHANGE (R162). The management plane moves a core between service, start-up, self-test and recovery modes. -/
  | coremodeChange
  /-- HALT_WAVE (R316). DBG_CMD OP 1 halts the selected wave before its next issue. -/
  | haltWave
  /-- RESUME_WAVE (R316). DBG_CMD OP 2 clears the halt of the selected wave. -/
  | resumeWave
  /-- HALT_CONTEXT (R316). DBG_CMD OP 3 halts every wave of the context. -/
  | haltContext
  /-- RESUME_CONTEXT (R316). DBG_CMD OP 4 resumes every wave of the context. -/
  | resumeContext
  /-- DBG_READ (R316). DBG_CMD OP 5 copies the selected page of a wave, trap record or table entry into DBG_DATA. -/
  | dbgRead
  /-- DBG_WRITE (R316). DBG_CMD OP 6 copies DBG_DATA into the registers or predicates of a halted wave, or sets ERR. -/
  | dbgWrite
  /-- SEGDET_DRAIN_DONE (R187). The team's accesses to the segment have been drained, and the directory releases, lowers the nesting count and may withdraw the handle. -/
  | segdetDrainDone
  /-- SEGMENT_EVICT_DONE (R192). The image write ends: the segment becomes EVICTED and its storage is freed, or on ACCESS NOEVICT is set and a SLOWFAIL record is written. -/
  | segmentEvictDone
  /-- SEGMENT_RELOAD_DONE (R193). The reload ends: the segment becomes RESIDENT at its new home, or on ACCESS it stays EVICTED. -/
  | segmentReloadDone
  /-- SCOPE_UPDATE_ACK (R209). A leaf acknowledges a scope-table update, and the update ends when all leaves have acknowledged. -/
  | scopeUpdateAck
  /-- SCOPE_UPDATE_TIMEOUT (R209). A die has not acknowledged a scope update within 65,536 I/O-die cycles and is fenced. -/
  | scopeUpdateTimeout
  /-- BINDING_PROPAGATED (R215). Every core and engine holds the new region-binding entry, and BIND or UNBIND leaves SYNCWAIT. -/
  | bindingPropagated
  /-- RELEASE_DRAIN_DONE (R219). The writes covered by a release have been performed at the level's place, and the release's own write is performed. -/
  | releaseDrainDone
  /-- POST_ACCEPT (R463). An engine takes a post into its queue, the count is written, and the posting fragment leaves SYNCWAIT. -/
  | postAccept
  /-- COPY_JOB_START (R230). A channel starts the next queued job once R222's edges allow, and it reads the card. -/
  | copyJobStart
  /-- COPY_RECORD_DONE (R235). A transfer record's writes have been performed: OWN is cleared with STATUS, and the next record is read. -/
  | copyRecordDone
  /-- SLOW_PATH_JOB_END (R237). The slow path completes a job, or fails it with a SLOWFAIL record and FAULT. -/
  | slowPathJobEnd
  /-- TASK_ARM (R240). The I/O die receives a task job, checks the entry and the packet, and arms it or refuses it. -/
  | taskArm
  /-- TASK_RELEASE (R241). An ARMED entry with COUNT 0 whose job may begin becomes RELEASED, and its packet joins the task-scheduler source. -/
  | taskRelease
  /-- MATRIX_GRANT (R247). A free array unit or tile port grants the ready request of highest priority, and its tokens are taken. -/
  | matrixGrant
  /-- MATRIX_COMPLETE (R246). A granted matrix command ends, writes its destination or raises SPMETA, and the counter falls by 1. -/
  | matrixComplete
  /-- QUERY_START (R259). A query slot frees, and the queued query of highest priority starts. -/
  | queryStart
  /-- QUERY_RECORD (R271). The engine pops one stack record and enters a node or tests a child beam, pushing records or testing leaves. -/
  | queryRecord
  /-- TRIANGLE_SEND (R295). A triangle waiting at the source is sent when its destination's in-flight count falls. -/
  | triangleSend
  /-- TRIANGLE_ARRIVAL (R295). A routed triangle arrives at its owning die and is processed in number order for its pair. -/
  | triangleArrival
  /-- SW_WAVE_TIMEOUT (R297). 4,096 cycles after its first triangle, a partial software-path wave is formed. -/
  | swWaveTimeout
  /-- MESH_STARVATION (R288). A mesh ticket has waited 65,536 cycles, and the youngest team waiting at PAYW is saved. -/
  | meshStarvation
  /-- MONITOR_WAKE (R418). A write to a monitored granule makes WAITC lanes read again, or makes a swapped-out team ready. -/
  | monitorWake
  /-- WAITC_POLL (R418). Every 1,024 cycles, a WAITC lane without a monitor reads its location again. -/
  | waitcPoll
  /-- WAITC_SWAP_OUT (R419). A team whose fragments have all waited at WAITC for 65,536 cycles is saved with its monitors left armed. -/
  | waitcSwapOut
  /-- PORT_UP (R43). A fabric port finishes training or retraining and its UP bit becomes 1, so streams waiting for a path resend on it. -/
  | portUp
  /-- CACHE_LINE_EVICTION (R174). An L1 or L2 line is evicted of itself, written back if dirty and later filled again, which changes the value that the core sees. -/
  | cacheLineEviction
  /-- NON_RETURNING_OPERATION_PERFORMED (R91). A store, RED or ATOM without a return is performed at its place, and the launch's spawn-tree counter falls by 1. -/
  | nonReturningOperationPerformed
  /-- GDDR7_UNCORRECTED_ERROR (R36). An uncorrected error in GDDR 7 memory poisons the line, and ECCUE is raised at the instruction that consumes it. -/
  | gddr7UncorrectedError
  deriving DecidableEq, Repr

end Sys2Proof
end

