-- ==== Sys2Proof/WellFormed.lean ====
section
/-! DEFINITION. Which fields an instruction uses, and the checks of R357 in their order. -/

namespace Sys2Proof

/-- What the checks of R357 know of the wave: its vector registers and its lanes (R359, R122). -/
structure WaveShape where
  vregs : Nat
  lanes : Nat
  deriving DecidableEq, Repr

/-- The largest shape: 128 registers, 64 lanes. -/
def WaveShape.largest : WaveShape := { vregs := 128, lanes := 64 }

/-- Container bits of a page-0 format code (Table 13.1), 0 for a reserved code. -/
def fmtBits (c : Nat) : Nat :=
  match c with
  | 0 => 8 | 1 => 16 | 2 => 32 | 3 => 64 | 4 => 8 | 5 => 16 | 6 => 32 | 7 => 64
  | 8 => 4 | 9 => 4 | 10 => 64 | 11 => 32 | 12 => 16 | 13 => 16 | 14 => 8
  | 16 => 8 | 17 => 8 | 18 => 8 | 19 => 8 | 20 => 4 | 21 => 8
  | _ => 0

/-- What a register field of a lane instruction names (R355, R359, R405, R425, R430). -/
inductive LOpd where
  /-- reserved: must be 0 -/
  | none
  /-- one vector register -/
  | v
  /-- a register, or an even pair when FMT is a 64-bit format -/
  | vf
  /-- an even pair -/
  | v64
  /-- four registers, a multiple of 4 -/
  | v4
  /-- the register image of a memory access (R407) -/
  | img (x2 : Bool)
  /-- a predicate in bits 2:0 -/
  | p
  /-- a tile in bits 4:0 -/
  | tile
  /-- a stream register in bits 3:0 -/
  | str
  /-- a 64-bit base: vector pair or uniform pair (R405) -/
  | base
  /-- a 32-bit base: vector or uniform register (R412) -/
  | base32
  /-- a uniform register in bits 5:0 -/
  | g
  /-- an even uniform pair in bits 5:0 -/
  | g64
  /-- a field whose value the instruction's own rule restricts -/
  | vals (ok : Nat → Bool)

/-- The formats an instruction accepts in FMT (R319). -/
inductive FmtUse where
  | none
  | list (codes : List Nat)
  | page1
  /-- CVT and CVTSR: D in FMT, S in SRC3, page bits in SRC3[6:5] (R393) -/
  | cvt

/-- The fields a lane instruction with an optional E-mod word uses. -/
structure LUse where
  vd : LOpd := .none
  va : LOpd := .none
  vb : LOpd := .none
  c : LOpd := .none
  usrc : Bool := false
  fmts : FmtUse := .none
  rnd : Bool := false
  sat : Bool := false
  mods : Nat → Bool := fun m => m == 0
  bytes : Nat → Bool := fun b => b == 0
  width : Bool := false
  mx : Bool := false
  orders : Option (List Nat) := none

/-- The E-mod word that stands where none is given (R354): format, minimum width and order are the instruction's defaults. -/
def EMod.dflt (fmt byte : Nat) (src3 : Nat := 0) : EMod :=
  { gsense := false, guard := 0, src3 := BitVec.ofNat 7 src3, fmt := BitVec.ofNat 5 fmt, rnd := 0, sat := false,
    usrc := false, mod := 0, byte := BitVec.ofNat 8 byte }

/-- Vector register `r` with `k - 1` registers after it lies in the allocation (R359). -/
def WaveShape.hasRegs (sh : WaveShape) (r k : Nat) : Bool := r + k ≤ sh.vregs

/-- A field names what its kind requires; `bits` is the width of the format, `u` is USRC (R356). -/
def LOpd.ok (sh : WaveShape) (o : LOpd) (bits : Nat) (u : Bool) (n : Nat) : Bool :=
  let ok (even : Nat) : Bool :=
    if u then n < 64 && n % even == 0 else n % even == 0 && sh.hasRegs n even
  match o with
  | .none => n == 0
  | .v => ok 1
  | .vf => if bits == 64 then ok 2 else ok 1
  | .v64 => ok 2
  | .v4 => n % 4 == 0 && sh.hasRegs n 4
  | .img x2 => if bits == 64 then (if x2 then (if u then n < 64 && n % 4 == 0 else n % 4 == 0 && sh.hasRegs n 4) else ok 2) else ok 1
  | .p => n < 8
  | .tile => n < 32
  | .str => n < 16
  | .base => n % 2 == 0 && (n ≥ 64 || sh.hasRegs n 2)
  | .base32 => n ≥ 64 || sh.hasRegs n 1
  | .g => n < 64
  | .g64 => n < 64 && n % 2 == 0
  | .vals f => f n

/-- A page-1 code is reserved when its precision is 0 (R318). -/
def page1Ok (c : Nat) : Bool := c % 8 != 0
/-- The formats CVT takes as source: integer, IEEE, binary8 or e8m0 (R393). -/
def cvtSrcOk (page : Bool) (c : Nat) : Bool := if page then page1Ok c else c ≤ 14
/-- The formats CVT takes as destination: integer, IEEE or binary8 (R393). -/
def cvtDstOk (page : Bool) (c : Nat) : Bool := if page then page1Ok c else c ≤ 13

/-- Cause 5: a reserved minimum-width code, or an order the instruction does not accept (R141, R199, R329). -/
def widthOrOrderBad (sh : WaveShape) (width mx : Bool) (orders : Option (List Nat)) (byte : BitVec 8) : Bool :=
  (width && (byte.toNat % 8 ≥ 6)) || (mx && (byte.toNat % 8 == 0 || sh.lanes == 4)) ||
    (match orders with
     | none => false
     | some os => !(os.contains (byte.toNat / 32)))

/-- Formats in FMT are ones the instruction accepts. -/
def FmtUse.ok (u : FmtUse) (e : EMod) : Bool :=
  match u with
  | .none => e.fmt == 0
  | .list cs => cs.contains e.fmt.toNat
  | .page1 => page1Ok e.fmt.toNat
  | .cvt => cvtDstOk (e.src3.getLsbD 6) e.fmt.toNat && cvtSrcOk (e.src3.getLsbD 5) (e.src3.toNat % 32)

/-- The width in bits of the operands FMT governs. -/
def FmtUse.bits (u : FmtUse) (e : EMod) : Nat :=
  match u with
  | .none => 32
  | .list _ => fmtBits e.fmt.toNat
  | .page1 => 8
  | .cvt => if e.src3.getLsbD 6 then 8 else fmtBits e.fmt.toNat

/-- The checks of R357 after the opcode maps, for a lane instruction with an optional E-mod word: the cause of the
first that fails. `d` holds the defaults of R354. -/
def checkL (sh : WaveShape) (f : LForm) (d : EMod) (u : LUse) : Option Nat :=
  let e := f.ext.getD d
  let bits := u.fmts.bits e
  let srcBits := match u.fmts with
    | .cvt => if e.src3.getLsbD 5 then 8 else fmtBits (e.src3.toNat % 32)
    | _ => bits
  if e.rnd == 7 then some 4
  else if widthOrOrderBad sh u.width u.mx u.orders e.byte then some 5
  else if !(u.vd.ok sh bits false f.vd.toNat) || !(u.va.ok sh srcBits false f.va.toNat) || !(u.vb.ok sh bits e.usrc f.vb.toNat)
      || (f.ext.isSome && (!(u.fmts.ok e)))
      || (match u.fmts with | .cvt => false | _ => !(u.c.ok sh bits false e.src3.toNat))
      || (e.usrc && !u.usrc) || (e.rnd != 0 && !u.rnd) || (e.sat && !u.sat)
      || !(u.mods e.mod.toNat) || !(u.bytes e.byte.toNat)
      then some 3
  else none

/-- The checks for a lane form marked (I): its operand fields only. -/
def checkI (sh : WaveShape) (f : LImm) (vd va vb : LOpd) : Option Nat :=
  if vd.ok sh 32 false f.vd.toNat && va.ok sh 32 false f.va.toNat && vb.ok sh 32 false f.vb.toNat then none else some 3

/-- A field names a predicate. -/
def LOpd.isPred : LOpd → Bool
  | .p => true
  | _ => false

/-- The checks for a lane form marked (F) (R354, R391); a compare, whose destination is a predicate, neither rounds nor saturates, so that RND
and SAT are reserved (R355). -/
def checkF (sh : WaveShape) (f : LFlt) (vd va vb : LOpd) : Option Nat :=
  if f.f.rnd == 7 then some 4
  else if vd.ok sh 32 false f.vd.toNat && va.ok sh 32 false f.va.toNat && vb.ok sh 32 false f.vb.toNat && f.f.rsv == 0
      && (!vd.isPred || (f.f.rnd == 0 && !f.f.sat))
  then none else some 3

/-- What a field of a uniform instruction names. -/
inductive UOpd where
  | none
  | g
  /-- a register, or an even pair when FMT is a 64-bit format -/
  | gf
  | g64
  | vals (ok : Nat → Bool)

/-- A uniform field names what its kind requires. -/
def UOpd.ok (o : UOpd) (bits n : Nat) : Bool :=
  match o with
  | .none => n == 0
  | .g => n < 64
  | .gf => n < 64 && (bits != 64 || n % 2 == 0)
  | .g64 => n < 64 && n % 2 == 0
  | .vals f => f n

/-- The fields a uniform instruction with an optional E-mod word uses. USRC is reserved throughout (R432). -/
structure UUse where
  gd : UOpd := .none
  ga : UOpd := .none
  gb : UOpd := .none
  c : UOpd := .none
  fmts : List Nat := []
  rnd : Bool := false
  mods : Nat → Bool := fun m => m == 0
  bytes : Nat → Bool := fun b => b == 0
  orders : Option (List Nat) := none

/-- The checks of R357 after the opcode maps, for a uniform instruction. -/
def checkU (f : UForm) (d : EMod) (u : UUse) : Option Nat :=
  let e := f.ext.getD d
  let bits := if u.fmts.isEmpty then 32 else fmtBits e.fmt.toNat
  if e.rnd == 7 then some 4
  else if widthOrOrderBad .largest false false u.orders e.byte then some 5
  else if !(u.gd.ok bits f.gd.toNat) || !(u.ga.ok bits f.ga.toNat) || !(u.gb.ok bits f.gb.toNat) || !(u.c.ok bits e.src3.toNat)
      || (if u.fmts.isEmpty then e.fmt != 0 else !(u.fmts.contains e.fmt.toNat))
      || e.usrc || (e.rnd != 0 && !u.rnd) || (e.sat && !u.rnd) || !(u.mods e.mod.toNat) || !(u.bytes e.byte.toNat)
      then some 3
  else none

/-- The checks for a uniform form marked (I) (R435). -/
def checkUI (f : UImm) (gd ga gb : UOpd) : Option Nat :=
  if gd.ok 32 f.gd.toNat && ga.ok 32 f.ga.toNat && gb.ok 32 f.gb.toNat then none else some 3

/-- The four integer formats of Table 15.1 (i32, n32, i64, n64). -/
def intFmts : FmtUse := .list [2, 6, 3, 7]
/-- The scalar float formats of Table 15.3 (fp32, fp16, bf16). -/
def fltFmts : FmtUse := .list [11, 12, 13]
/-- The formats of a memory access (R407). -/
def memFmts : List Nat := [0, 1, 2, 3, 4, 5, 6, 7, 10, 11, 12, 13]
/-- The MX element formats (Table 13.5). -/
def mxFmts : List Nat := [16, 17, 18, 19, 20, 21]
/-- A predicate or code below `n`, in the low bits of a field. -/
def below (n : Nat) : Nat → Bool := fun m => m < n
/-- Only the bits of `m` may be set. -/
def within (m : Nat) : Nat → Bool := fun b => b &&& m == b

/-- Three-operand integer form. -/
def useInt3 (sat : Bool) : LUse := { vd := .vf, va := .vf, vb := .vf, usrc := true, fmts := intFmts, sat := sat }
/-- Address-form instruction (Table 16.1, Table 16.2). -/
def useAddr (e : EMod) (vd : LOpd) (fmts : FmtUse) (mods : Nat → Bool) (orders : Option (List Nat)) (x2 : Bool) : LUse :=
  let idx := e.src3.toNat / 32
  { vd := vd, va := .base, vb := if idx == 0 then .none else if idx == 3 then .v64 else .v,
    c := .vals fun s => x2 || s / 16 % 2 == 0, usrc := idx != 0, fmts := fmts, mods := mods,
    bytes := fun b => orders.isSome || b == 0, orders := orders }
/-- X2 is legal only with a 64-bit format (R405). -/
def x2Legal (e : EMod) : Bool := fmtBits e.fmt.toNat == 64
/-- X2 of an address form: SRC3 bit 4 (Table 16.1). -/
def EMod.x2 (e : EMod) : Bool := e.src3.getLsbD 4

/-- A special-register number that Table 14.5 lists and MFS may name (R362, R363). -/
def srnReadable (n : Nat) : Bool :=
  (0x010 ≤ n && n ≤ 0x016) || (0x018 ≤ n && n ≤ 0x01A) || (0x020 ≤ n && n ≤ 0x022) || n == 0x028 || n == 0x029
    || (0x030 ≤ n && n ≤ 0x032) || n == 0x040 || (0x100 ≤ n && n < 0x120)
/-- A special-register number that some wave may write (R362, R363). -/
def srnWritable (n : Nat) : Bool :=
  (0x018 ≤ n && n ≤ 0x01A) || (0x020 ≤ n && n ≤ 0x022) || n == 0x040 || (0x100 ≤ n && n < 0x120)
/-- The special-register number split over GA and GB (R456). -/
def UForm.srn (f : UForm) : Nat := f.ga.toNat * 64 + f.gb.toNat

/-- Default extension of an instruction whose BYTE holds a minimum width: the whole wave (R354). -/
def dfltWidth (fmt : Nat) : EMod := EMod.dflt fmt 5

/-- The defaults of R354 for an instruction that takes an E-mod word. -/
def Instr.dflt : Instr → EMod
  | .iadd _ | .isub _ | .imul _ | .imulh _ | .imad _ | .imin _ | .imax _ | .iabs _ | .and _ | .or _ | .xor _ | .lop3 _
  | .shl _ | .shr _ | .sar _ | .rot _ | .bfx _ | .bfi _ | .popc _ | .clz _ | .brev _ | .icmp _ | .sel _ | .mov _ => .dflt 2 0
  | .fadd _ | .fmul _ | .ffma _ | .fmin _ | .fmax _ | .fcmp _ | .frnd _ | .frcp _ | .frsq _ | .fsqrt _ | .fexp2 _
  | .flog2 _ | .fsin _ | .fcos _ | .ftanh _ => .dflt 11 0
  | .hfma2 _ => .dflt 12 0
  | .vdot4 _ => .dflt 4 0
  | .vdot8 _ => .dflt 0 0
  | .mxdot _ | .qnt _ => dfltWidth 16
  | .cvt _ | .cvtsr _ => .dflt 11 0 2
  | .shfl _ | .vote _ | .ballot _ | .qswz _ | .deriv _ | .tfeed _ | .tdrain _ => dfltWidth 0
  | .redux _ | .scan _ => dfltWidth 2
  | .ld _ | .st _ | .lds _ | .sts _ | .ldf _ | .stf _ | .pref _ | .atom _ | .atcas _ | .red _ | .waitc _
  | .sopen _ | .isopen _ => .dflt 6 0
  | .gadd _ | .gsub _ | .gmul _ | .gand _ | .gor _ | .gxor _ | .gshl _ | .gshr _ | .gcmp _ | .gsel _ | .gmov _ => .dflt 2 0
  | .gld _ | .gst _ => .dflt 6 0
  | .yld _ => .dflt 0 255
  | .bar _ => .dflt 0 0x60
  | .cbar _ => .dflt 0 0x61
  | .fence _ => .dflt 0 0x84
  | .mlut _ => .dflt 0 4
  | .mld _ | .mst _ | .mwait _ | .cpygo _ | .cpywt _ | .taskpost _ | .taskwt _ | .rayq _ | .raywt _ => .dflt 0 2
  | _ => .dflt 0 0

/-- The extension of a lane instruction, with the defaults of R354 where none is given. -/
def Instr.extL (i : Instr) (f : LForm) : EMod := f.ext.getD i.dflt
/-- The extension of a uniform instruction, with the defaults of R354 where none is given. -/
def Instr.extU (i : Instr) (f : UForm) : EMod := f.ext.getD i.dflt

/-- Which fields REDUX and SCAN use (R400): SAT with .add, RND with fp32 .add. -/
def useReduce (e : EMod) (bytes : Nat → Bool) : LUse :=
  let fp := e.fmt == 11
  { vd := .v, va := .v, fmts := .list [2, 6, 11], sat := e.mod == 0, rnd := fp && e.mod == 0,
    mods := fun m => m < 6 && !(fp && m ≥ 3), bytes := bytes, width := true }

/-- How an instruction uses its fields. -/
inductive Uses where
  | lane (f : LForm) (u : LUse)
  | imm (f : LImm) (vd va vb : LOpd)
  | flt (f : LFlt) (vd va vb : LOpd)
  | uni (f : UForm) (u : UUse)
  | uimm (f : UImm) (gd ga gb : UOpd)
  /-- branches, unassigned encodings and events -/
  | other

/-- The fields each instruction uses, by the tables of files 15 to 18. -/
def Instr.uses (i : Instr) : Uses :=
  let L (f : LForm) (u : LUse) := Uses.lane f u
  let U (f : UForm) (u : UUse) := Uses.uni f u
  let I (f : LImm) (vd va vb : LOpd) := Uses.imm f vd va vb
  let F (f : LFlt) (vd va vb : LOpd) := Uses.flt f vd va vb
  let UI (f : UImm) (gd ga gb : UOpd) := Uses.uimm f gd ga gb
  match i with
  | .iadd f | .isub f | .imul f => L f (useInt3 true)
  | .imulh f | .imin f | .imax f | .and f | .or f | .xor f | .shl f | .shr f | .sar f | .bfx f => L f (useInt3 false)
  | .iaddc f => L f { vd := .v, va := .v, vb := .v, c := .p, usrc := true }
  | .imad f => L f { useInt3 true with c := .vf }
  | .iabs f => L f { vd := .vf, va := .vf, fmts := .list [2, 3], sat := true }
  | .lop3 f => L f { useInt3 false with c := .vf, bytes := fun _ => true }
  | .rot f => L f { useInt3 false with mods := below 2 }
  | .bfi f => L f { useInt3 false with c := .vf }
  | .popc f | .clz f => L f { vd := .v, va := .vf, fmts := intFmts }
  | .brev f => L f { vd := .vf, va := .vf, fmts := intFmts }
  | .prmt f => L f { vd := .v, va := .v, vb := .v, c := .v, usrc := true }
  | .icmp f => L f { useInt3 false with vd := .p, mods := below 6 }
  | .sel f => L f { useInt3 false with c := .p }
  | .mov f => L f { vd := .vf, vb := .vf, usrc := true, fmts := intFmts }
  | .movSpecial f => L f { vd := .v, vb := .vals (below 2) }
  | .iaddI f | .imulI f | .andI f | .orI f | .xorI f => I f .v .v .none
  | .icmpI f => I f .p .v (.vals fun n => n < 16 && n % 8 < 6)
  | .iminI f | .imaxI f => I f .v .v (.vals fun n => n == 0 || n == 8)
  | .movi f => I f .v .none .none
  | .fadd f | .fmul f => L f { vd := .v, va := .v, vb := .v, usrc := true, fmts := fltFmts, rnd := true, sat := true }
  | .ffma f => L f { vd := .v, va := .v, vb := .v, c := .v, usrc := true, fmts := fltFmts, rnd := true, sat := true }
  | .fmin f | .fmax f => L f { vd := .v, va := .v, vb := .v, usrc := true, fmts := fltFmts }
  | .fcmp f => L f { vd := .p, va := .v, vb := .v, usrc := true, fmts := fltFmts, mods := fun _ => true }
  | .frnd f => L f { vd := .v, va := .v, fmts := fltFmts, rnd := true }
  | .frcp f | .frsq f | .fsqrt f | .fexp2 f | .flog2 f | .fsin f | .fcos f | .ftanh f =>
    L f { vd := .v, va := .v, fmts := fltFmts, rnd := true, sat := true }
  | .dadd f | .dmul f => L f { vd := .v64, va := .v64, vb := .v64, usrc := true, rnd := true, sat := true }
  | .dfma f => L f { vd := .v64, va := .v64, vb := .v64, c := .v64, usrc := true, rnd := true, sat := true }
  | .hfma2 f => L f { vd := .v, va := .v, vb := .v, c := .v, usrc := true, fmts := .list [12, 13], rnd := true, sat := true }
  | .faddF f | .fmulF f | .ffmaF f | .hfma2F f => F f .v .v .none
  | .fcmpF f => F f .p .v (.vals (below 8))
  | .daddF f => F f .v64 .v64 .none
  | .vdot4 f => L f { vd := .v, va := .v, vb := .v, c := .v, usrc := true, fmts := .page1, rnd := true, sat := true }
  | .vdot8 f =>
    let e := i.extL f
    let o : LOpd := if e.fmt == 0 || e.fmt == 4 then .v64 else .v
    L f { vd := .v, va := o, vb := o, c := .v, usrc := true, fmts := .list [0, 4, 8, 9], sat := true, mods := below 2 }
  | .mxdot f => L f { vd := .v, va := .v, vb := .v, c := .v, fmts := .list mxFmts, rnd := true, sat := true,
                      bytes := fun b => b / 8 % 2 == 0, width := true, mx := true }
  | .cvt f => L f { vd := .vf, va := .vf, fmts := .cvt, rnd := true, sat := true }
  | .cvtsr f => L f { vd := .vf, va := .vf, vb := .v, usrc := true, fmts := .cvt, sat := true }
  | .pack f =>
    let e := i.extL f
    L f { vd := .v, va := .v, vb := .v, usrc := true, mods := below 3, bytes := below (2 ^ e.mod.toNat) }
  | .unpk f =>
    let e := i.extL f
    L f { vd := .v, va := .v, mods := fun m => m % 4 < 3, bytes := below (2 * 2 ^ (e.mod.toNat % 4)) }
  | .qnt f => L f { vd := .v, va := .v4, c := .v, fmts := .list mxFmts, rnd := true,
                    bytes := fun b => b / 8 % 2 == 0 && b < 64, width := true, mx := true }
  | .shfl f =>
    let e := i.extL f
    let imm := e.mod.getLsbD 2
    let fill := e.mod.toNat % 4 == 1 || e.mod.toNat % 4 == 2
    L f { vd := .v, va := .v, vb := if imm then .none else .v, c := if fill then .v else .none, usrc := !imm,
          mods := fun _ => true, bytes := fun b => imm || b < 8, width := true }
  | .vote f => L f { vd := .p, va := .p, mods := below 3, bytes := below 8, width := true }
  | .ballot f => L f { vd := .v64, va := .p, bytes := below 8, width := true }
  | .redux f => L f (useReduce (i.extL f) (below 8))
  | .scan f => L f (useReduce (i.extL f) (below 16))
  | .qswz f => L f { vd := .v, va := .v, mods := below 4,
                     bytes := fun b => b < 32 && ((i.extL f).mod == 3 || b < 8), width := true }
  | .deriv f => L f { vd := .v, va := .v, rnd := true, mods := below 4, bytes := below 8, width := true }
  | .ld f =>
    let e := i.extL f
    L f (useAddr e (.img e.x2) (.list memFmts) (fun _ => true) (some [0, 1, 4]) (x2Legal e))
  | .st f =>
    let e := i.extL f
    L f (useAddr e (.img e.x2) (.list memFmts) (below 4) (some [0, 2, 4]) (x2Legal e))
  | .ldf f =>
    let e := i.extL f
    L f (useAddr e (.img e.x2) (.list memFmts) (fun _ => true) (some [0, 1, 4]) (x2Legal e))
  | .stf f =>
    let e := i.extL f
    L f (useAddr e (.img e.x2) (.list memFmts) (below 4) (some [0, 2, 4]) (x2Legal e))
  | .sfill f => L f (useAddr (i.extL f) .v .none (below 4) none false)
  | .pref f =>
    let e := i.extL f
    L f (useAddr e .none (.list memFmts) (below 3) none (x2Legal e))
  | .lds f | .sts f =>
    let e := i.extL f
    let ix := e.mod.getLsbD 2
    L f { vd := .img e.x2, va := .base32, vb := if ix then .v else .none,
          c := .vals fun s => s / 32 < 3 && (x2Legal e || s / 16 % 2 == 0),
          usrc := ix, fmts := .list memFmts, mods := fun _ => true }
  | .atom f =>
    let e := i.extL f
    L f { vd := .vf, va := .base, vb := .vf, usrc := true, fmts := .list [6, 2, 7, 3, 11],
          c := .vals fun s => s < 7 && (e.fmt != 11 || s == 0), mods := below 4,
          bytes := fun _ => true, orders := some [0, 1, 2, 3, 4] }
  | .atcas f =>
    let e := i.extL f
    let x2 := e.mod.getLsbD 2
    L f { vd := .img x2, va := .base, vb := .img x2, c := .img x2, usrc := true, fmts := .list [6, 2, 7, 3],
          mods := fun m => m < 4 || x2Legal e, bytes := fun _ => true, orders := some [0, 1, 2, 3, 4] }
  | .red f =>
    let e := i.extL f
    L f { va := .base, vb := .vf, usrc := true, fmts := .list [6, 2, 7, 3, 11],
          c := .vals fun s => s < 6 && (e.fmt != 11 || s == 0), mods := below 4,
          bytes := fun _ => true, orders := some [0, 2] }
  | .waitc f => L f { vd := .vf, va := .base, vb := .vf, usrc := true, fmts := .list [6, 2, 7, 3],
                      c := .vals (below 6), mods := below 4, bytes := fun _ => true, orders := some [0, 1] }
  | .tex f | .tld f => L f { vd := .v4, va := .v64, vb := .g64, mods := fun _ => true }
  | .imgst f => L f { vd := .v4, va := .v64, vb := .g64, mods := below 4 }
  | .sopen f => L f { vd := .str, va := .base, vb := .v, usrc := true, fmts := .list memFmts, mods := below 4 }
  | .isopen f => L f { vd := .str, va := .base, vb := if (i.extL f).usrc then .g64 else .v64, c := .v, usrc := true,
                       fmts := .list memFmts, mods := below 4 }
  | .sclose f => L f { vd := .str }
  | .sadv f =>
    let by_ := (i.extL f).mod.getLsbD 2
    L f { vd := .str, vb := if by_ then .v else .none, usrc := by_, mods := within 4 }
  | .stend f => L f { vd := .p, va := .str }
  | .srd f => L f { vd := .v, va := .str, mods := within 5 }
  | .swr f => L f { va := .str, vb := .v, usrc := true, mods := within 5 }
  | .tfeed f =>
    let x4 := (i.extL f).mod.getLsbD 2
    L f { vd := .tile, va := if x4 then .v4 else .v, vb := .g, mods := within 4, bytes := below 8, width := true }
  | .tdrain f =>
    let x4 := (i.extL f).mod.getLsbD 2
    L f { vd := if x4 then .v4 else .v, va := .tile, vb := .g, mods := within 4, bytes := below 8, width := true }
  | .gadd f | .gsub f | .gand f | .gor f | .gxor f => U f { gd := .gf, ga := .gf, gb := .gf, fmts := [2, 6, 3, 7] }
  | .gmul f => U f { gd := .gf, ga := .gf, gb := .gf, fmts := [2, 6] }
  | .gshl f => U f { gd := .gf, ga := .gf, gb := .gf, fmts := [2, 6, 3, 7] }
  | .gshr f => U f { gd := .gf, ga := .gf, gb := .gf, fmts := [2, 6, 3, 7], mods := below 2 }
  | .gcmp f => U f { gd := .vals (below 8), ga := .gf, gb := .gf, fmts := [2, 6, 3, 7], mods := below 6 }
  | .gsel f => U f { gd := .gf, ga := .gf, gb := .gf, c := .vals (below 8), fmts := [2, 6, 3, 7] }
  | .gmov f => U f { gd := .gf, gb := .gf, fmts := [2, 6, 3, 7] }
  | .gaddI f | .gsubI f | .gmulI f | .gandI f | .gorI f | .gxorI f | .gshlI f => UI f .g .g .none
  | .gshrI f => UI f .g .g (.vals (below 2))
  | .gcmpI f => UI f (.vals (below 8)) .g (.vals fun n => n < 16 && n % 8 < 6)
  | .gmovi f => UI f .g .none .none
  | .gld f => U f { gd := .gf, ga := .g64, gb := .g, fmts := [6, 0, 4, 1, 5, 2, 3, 7], mods := below 4,
                    bytes := fun _ => true, orders := some [0, 1, 4] }
  | .gst f => U f { gd := .gf, ga := .g64, gb := .g, fmts := [6, 0, 4, 1, 5, 2, 3, 7], mods := below 4,
                    bytes := fun _ => true, orders := some [0, 2, 4] }
  | .gldI f | .gstI f => UI f .g .g64 .none
  | .bra _ | .brc _ | .bru _ | .call _ => .other
  | .ret f | .exit f | .nop f => U f {}
  | .jmpi f => U f { ga := .g64, mods := below 2 }
  | .rcv f => U f { ga := .vals (below 16) }
  | .yld f => U f { bytes := fun _ => true }
  | .idr f => U f { ga := .g64 }
  | .trap f | .brk f => UI f .none .none .none
  | .bar f | .cbar f => U f { ga := .vals (below 4), bytes := fun _ => true, orders := some [0, 3] }
  | .fence f => U f { bytes := fun _ => true, orders := some [1, 2, 3, 4] }
  | .bind f => U f { gd := .g, ga := .g64, gb := .g64, c := .g64, bytes := below 32 }
  | .unbind f => U f { gd := .g }
  | .scopeset f => U f { ga := .g64, gb := .g }
  | .scopesync f => U f {}
  | .expect f => U f { ga := .g, gb := .g }
  | .mfs f => U f { gd := .g, ga := .vals (below 64), gb := .vals fun _ => srnReadable f.srn, c := if f.srn == 0x040 then .g else .none }
  | .mts f => U f { gd := .g, ga := .vals (below 64), gb := .vals fun _ => srnWritable f.srn, c := if f.srn == 0x040 then .g else .none }
  | .role f => U f { gd := .g, ga := .vals (below 32) }
  | .enq f => U f { ga := .g64 }
  | .enqg f => U f { ga := .g64, gb := .g }
  | .segattLd f | .segattNf f => U f { gd := .g, ga := .g64 }
  | .segdet f => U f { ga := .g }
  | .segpin f => U f { ga := .g64, mods := below 2 }
  | .cpygo f => U f { gd := .g, ga := .g64, mods := below 2, bytes := below 32 }
  | .cpywt f => U f { gd := .g64, ga := .g, mods := fun _ => true, bytes := below 32 }
  | .taskpost f => U f { gd := .g, ga := .g64, bytes := below 32 }
  | .taskwt f => U f { gd := .g, ga := .g, mods := within 4, bytes := below 32 }
  | .mma f => U f { gd := .vals (below 32), ga := .vals (below 32), gb := .vals (below 32), mods := below 4 }
  | .mmas f => U f { gd := .vals (below 32), ga := .vals (below 32), gb := .vals (below 32), c := .vals (below 32), mods := below 4 }
  | .mlut f => U f { gd := .vals (below 32), ga := .vals (below 32), gb := .vals (below 32), mods := below 2, bytes := below 8 }
  | .mzero f => U f { gd := .vals (below 32) }
  | .mld f | .mst f => U f { gd := .vals (below 32), ga := .g64, gb := .g, mods := within 2, bytes := below 32 }
  | .mcvt f => U f { gd := .vals (below 32), ga := .vals (below 32), rnd := true, mods := within 6 }
  | .mwait f => U f { gd := .g, bytes := below 32 }
  | .rayq f => U f { gd := .g, ga := .g64, gb := .g64, c := if (i.extU f).mod.getLsbD 0 then .g64 else .none,
                     mods := below 2, bytes := below 32 }
  | .raywt f => U f { gd := .g, ga := .g, mods := within 4, bytes := below 32 }
  | .emit f => U f { gd := .g, ga := .g64, gb := .g }
  | .payw f => U f { gd := .g, ga := .g64, gb := .g64, c := .g64 }
  | .payr f => U f { gd := .g, ga := .g }
  | .atlreq f => U f { gd := .g, ga := .g64, gb := .g64 }
  | _ => .other

/-- The cause of the first check of R357 that an instruction fails in a wave of shape `sh`; `none` when it may issue.
Unassigned encodings raise their own cause when they issue; events pass no decode check. -/
def Instr.illegal (sh : WaveShape) (i : Instr) : Option Nat :=
  match i.uses with
  | .lane f u => checkL sh f i.dflt u
  | .imm f vd va vb => checkI sh f vd va vb
  | .flt f vd va vb => checkF sh f vd va vb
  | .uni f u => checkU f i.dflt u
  | .uimm f gd ga gb => checkUI f gd ga gb
  | .other => none

/-- An instruction passes every check of R357 in a wave of shape `sh`. -/
def Instr.WellFormed (sh : WaveShape) (i : Instr) : Bool := (i.illegal sh).isNone

end Sys2Proof
end

