-- ==== Sys2Proof/Decode.lean ====
section
/-! DEFINITION. From words to instructions and back: the opcode maps of Tables 14.6 and 14.7, the word layouts of
R349 to R354. Decoding is total on any bytes; what it refuses it refuses by name. -/

namespace Sys2Proof

/-- Why bytes are no instruction of a wave. -/
inductive DecodeError where
  /-- the bytes end before the instruction does -/
  | truncated
  /-- ILLOP with cause 3: a reserved field, a refused format, a register outside the allocation, or a wrong X (R357) -/
  | reservedField
  /-- ILLOP with cause 4: rounding code 0b111 (R330, R357) -/
  | roundingCode
  /-- ILLOP with cause 5: a reserved minimum-width or order code (R141, R198, R357) -/
  | widthOrOrderCode
  deriving DecidableEq, Repr

/-- The ILLOP cause a refusal stands for (Table 12.3). -/
def DecodeError.cause : DecodeError → Nat
  | .truncated => 3
  | .reservedField => 3
  | .roundingCode => 4
  | .widthOrOrderCode => 5

/-- The refusal with a given ILLOP cause. -/
def DecodeError.ofCause (c : Nat) : DecodeError :=
  if c == 4 then .roundingCode else if c == 5 then .widthOrOrderCode else .reservedField

/-- What an entry of an opcode map makes of its word: with an optional E-mod word, an immediate (I) or a float
immediate (F) (R354). -/
inductive LaneRow where
  | mod (mk : LForm → Instr)
  | imm (mk : LImm → Instr)
  | flt (mk : LFlt → Instr)

/-- As LaneRow, for the uniform set. -/
inductive UniRow where
  | mod (mk : UForm → Instr)
  | imm (mk : UImm → Instr)

/-- The lane opcode map (Table 14.6), by major and sub-operation. -/
def laneMap (major sub : Nat) : Option LaneRow :=
  match major, sub with
  | 0x00, 0 => some (.mod Instr.iadd)
  | 0x00, 1 => some (.imm Instr.iaddI)
  | 0x00, 2 => some (.mod Instr.iaddc)
  | 0x00, 3 => some (.mod Instr.isub)
  | 0x01, 0 => some (.mod Instr.imul)
  | 0x01, 1 => some (.mod Instr.imulh)
  | 0x01, 2 => some (.mod Instr.imad)
  | 0x02, 0 => some (.mod Instr.imin)
  | 0x02, 1 => some (.mod Instr.imax)
  | 0x02, 2 => some (.mod Instr.iabs)
  | 0x03, 0 => some (.mod Instr.and)
  | 0x03, 1 => some (.mod Instr.or)
  | 0x03, 2 => some (.mod Instr.xor)
  | 0x03, 3 => some (.mod Instr.lop3)
  | 0x04, 0 => some (.mod Instr.shl)
  | 0x04, 1 => some (.mod Instr.shr)
  | 0x04, 2 => some (.mod Instr.sar)
  | 0x04, 3 => some (.mod Instr.rot)
  | 0x05, 0 => some (.mod Instr.bfx)
  | 0x05, 1 => some (.mod Instr.bfi)
  | 0x05, 2 => some (.mod Instr.popc)
  | 0x05, 3 => some (.mod Instr.clz)
  | 0x06, 0 => some (.mod Instr.brev)
  | 0x06, 1 => some (.mod Instr.prmt)
  | 0x07, 0 => some (.mod Instr.icmp)
  | 0x07, 1 => some (.mod Instr.sel)
  | 0x08, 0 => some (.mod Instr.mov)
  | 0x08, 1 => some (.mod Instr.movSpecial)
  | 0x08, 2 => some (.imm Instr.movi)
  | 0x09, 0 => some (.imm Instr.imulI)
  | 0x09, 1 => some (.imm Instr.andI)
  | 0x09, 2 => some (.imm Instr.orI)
  | 0x09, 3 => some (.imm Instr.xorI)
  | 0x0A, 0 => some (.imm Instr.icmpI)
  | 0x0A, 1 => some (.imm Instr.iminI)
  | 0x0A, 2 => some (.imm Instr.imaxI)
  | 0x10, 0 => some (.mod Instr.fadd)
  | 0x10, 1 => some (.flt Instr.faddF)
  | 0x10, 2 => some (.mod Instr.fmul)
  | 0x10, 3 => some (.flt Instr.fmulF)
  | 0x11, 0 => some (.mod Instr.ffma)
  | 0x11, 1 => some (.flt Instr.ffmaF)
  | 0x11, 2 => some (.mod Instr.fmin)
  | 0x11, 3 => some (.mod Instr.fmax)
  | 0x12, 0 => some (.mod Instr.fcmp)
  | 0x12, 1 => some (.flt Instr.fcmpF)
  | 0x12, 2 => some (.mod Instr.frnd)
  | 0x13, 0 => some (.mod Instr.frcp)
  | 0x13, 1 => some (.mod Instr.frsq)
  | 0x13, 2 => some (.mod Instr.fsqrt)
  | 0x14, 0 => some (.mod Instr.fexp2)
  | 0x14, 1 => some (.mod Instr.flog2)
  | 0x14, 2 => some (.mod Instr.fsin)
  | 0x14, 3 => some (.mod Instr.fcos)
  | 0x15, 0 => some (.mod Instr.ftanh)
  | 0x16, 0 => some (.mod Instr.dadd)
  | 0x16, 1 => some (.mod Instr.dmul)
  | 0x16, 2 => some (.mod Instr.dfma)
  | 0x16, 3 => some (.flt Instr.daddF)
  | 0x17, 0 => some (.mod Instr.hfma2)
  | 0x17, 1 => some (.flt Instr.hfma2F)
  | 0x20, 0 => some (.mod Instr.vdot4)
  | 0x20, 1 => some (.mod Instr.vdot8)
  | 0x20, 2 => some (.mod Instr.mxdot)
  | 0x21, 0 => some (.mod Instr.cvt)
  | 0x21, 1 => some (.mod Instr.cvtsr)
  | 0x22, 0 => some (.mod Instr.pack)
  | 0x22, 1 => some (.mod Instr.unpk)
  | 0x22, 2 => some (.mod Instr.qnt)
  | 0x28, 0 => some (.mod Instr.shfl)
  | 0x28, 1 => some (.mod Instr.vote)
  | 0x28, 2 => some (.mod Instr.ballot)
  | 0x29, 0 => some (.mod Instr.redux)
  | 0x29, 1 => some (.mod Instr.scan)
  | 0x2A, 0 => some (.mod Instr.qswz)
  | 0x2A, 1 => some (.mod Instr.deriv)
  | 0x2C, 0 => some (.mod Instr.ld)
  | 0x2C, 1 => some (.mod Instr.st)
  | 0x2D, 0 => some (.mod Instr.lds)
  | 0x2D, 1 => some (.mod Instr.sts)
  | 0x2E, 0 => some (.mod Instr.ldf)
  | 0x2E, 1 => some (.mod Instr.stf)
  | 0x2E, 2 => some (.mod Instr.sfill)
  | 0x2F, 0 => some (.mod Instr.atom)
  | 0x2F, 1 => some (.mod Instr.atcas)
  | 0x2F, 2 => some (.mod Instr.red)
  | 0x30, 0 => some (.mod Instr.waitc)
  | 0x30, 1 => some (.mod Instr.pref)
  | 0x31, 0 => some (.mod Instr.tex)
  | 0x31, 1 => some (.mod Instr.tld)
  | 0x31, 2 => some (.mod Instr.imgst)
  | 0x38, 0 => some (.mod Instr.sopen)
  | 0x38, 1 => some (.mod Instr.isopen)
  | 0x38, 2 => some (.mod Instr.sclose)
  | 0x39, 0 => some (.mod Instr.sadv)
  | 0x39, 1 => some (.mod Instr.stend)
  | 0x3A, 0 => some (.mod Instr.srd)
  | 0x3A, 1 => some (.mod Instr.swr)
  | 0x3C, 0 => some (.mod Instr.tfeed)
  | 0x3C, 1 => some (.mod Instr.tdrain)
  | _, _ => none

/-- The uniform opcode map (Table 14.7), U-form majors, by major and sub-operation. -/
def uniMap (major sub : Nat) : Option UniRow :=
  match major, sub with
  | 0x00, 0 => some (.mod Instr.gadd)
  | 0x00, 1 => some (.imm Instr.gaddI)
  | 0x00, 2 => some (.mod Instr.gsub)
  | 0x00, 3 => some (.imm Instr.gsubI)
  | 0x01, 0 => some (.mod Instr.gmul)
  | 0x01, 1 => some (.imm Instr.gmulI)
  | 0x02, 0 => some (.mod Instr.gand)
  | 0x02, 1 => some (.imm Instr.gandI)
  | 0x02, 2 => some (.mod Instr.gor)
  | 0x02, 3 => some (.imm Instr.gorI)
  | 0x03, 0 => some (.mod Instr.gxor)
  | 0x03, 1 => some (.imm Instr.gxorI)
  | 0x04, 0 => some (.mod Instr.gshl)
  | 0x04, 1 => some (.imm Instr.gshlI)
  | 0x04, 2 => some (.mod Instr.gshr)
  | 0x04, 3 => some (.imm Instr.gshrI)
  | 0x05, 0 => some (.mod Instr.gcmp)
  | 0x05, 1 => some (.imm Instr.gcmpI)
  | 0x05, 2 => some (.mod Instr.gsel)
  | 0x06, 0 => some (.mod Instr.gmov)
  | 0x06, 1 => some (.imm Instr.gmovi)
  | 0x07, 0 => some (.mod Instr.gld)
  | 0x07, 1 => some (.imm Instr.gldI)
  | 0x07, 2 => some (.mod Instr.gst)
  | 0x07, 3 => some (.imm Instr.gstI)
  | 0x14, 0 => some (.mod Instr.ret)
  | 0x14, 1 => some (.mod Instr.jmpi)
  | 0x14, 2 => some (.mod Instr.exit)
  | 0x14, 3 => some (.mod Instr.nop)
  | 0x15, 0 => some (.mod Instr.rcv)
  | 0x15, 1 => some (.mod Instr.yld)
  | 0x15, 2 => some (.mod Instr.idr)
  | 0x16, 0 => some (.imm Instr.trap)
  | 0x16, 1 => some (.imm Instr.brk)
  | 0x18, 0 => some (.mod Instr.bar)
  | 0x18, 1 => some (.mod Instr.cbar)
  | 0x19, 0 => some (.mod Instr.fence)
  | 0x1A, 0 => some (.mod Instr.bind)
  | 0x1A, 1 => some (.mod Instr.unbind)
  | 0x1B, 0 => some (.mod Instr.scopeset)
  | 0x1B, 1 => some (.mod Instr.scopesync)
  | 0x1C, 0 => some (.mod Instr.expect)
  | 0x20, 0 => some (.mod Instr.mfs)
  | 0x20, 1 => some (.mod Instr.mts)
  | 0x21, 0 => some (.mod Instr.role)
  | 0x28, 0 => some (.mod Instr.enq)
  | 0x28, 1 => some (.mod Instr.enqg)
  | 0x29, 0 => some (.mod Instr.segattLd)
  | 0x29, 1 => some (.mod Instr.segattNf)
  | 0x29, 2 => some (.mod Instr.segdet)
  | 0x29, 3 => some (.mod Instr.segpin)
  | 0x30, 0 => some (.mod Instr.cpygo)
  | 0x30, 1 => some (.mod Instr.cpywt)
  | 0x31, 0 => some (.mod Instr.taskpost)
  | 0x31, 1 => some (.mod Instr.taskwt)
  | 0x32, 0 => some (.mod Instr.mma)
  | 0x32, 1 => some (.mod Instr.mmas)
  | 0x32, 2 => some (.mod Instr.mlut)
  | 0x33, 0 => some (.mod Instr.mzero)
  | 0x33, 1 => some (.mod Instr.mld)
  | 0x33, 2 => some (.mod Instr.mst)
  | 0x33, 3 => some (.mod Instr.mcvt)
  | 0x34, 0 => some (.mod Instr.mwait)
  | 0x35, 0 => some (.mod Instr.rayq)
  | 0x35, 1 => some (.mod Instr.raywt)
  | 0x3C, 0 => some (.mod Instr.emit)
  | 0x3C, 1 => some (.mod Instr.payw)
  | 0x3C, 2 => some (.mod Instr.payr)
  | 0x3D, 0 => some (.mod Instr.atlreq)
  | _, _ => none

/-- Fields of an E-mod word (Table 14.3). -/
def decodeEMod (e : Word) : EMod :=
  { gsense := e.getLsbD 31, guard := e.extractLsb' 28 3, src3 := e.extractLsb' 21 7, fmt := e.extractLsb' 16 5,
    rnd := e.extractLsb' 13 3, sat := e.getLsbD 12, usrc := e.getLsbD 11, mod := e.extractLsb' 8 3, byte := e.extractLsb' 0 8 }

/-- Fields of an E-imm word in its float reading (Table 14.4). -/
def decodeEFlt (e : Word) : EFlt :=
  { gsense := e.getLsbD 31, guard := e.extractLsb' 28 3, rsv := e.extractLsb' 20 8, sat := e.getLsbD 19,
    rnd := e.extractLsb' 16 3, imm16 := e.extractLsb' 0 16 }

/-- The major opcode, bits 28:23 (R350, R351). -/
def wordMajor (w : Word) : Nat := (w.extractLsb' 23 6).toNat
/-- Bit 29, X: an extension word follows (R349). -/
def wordX (w : Word) : Bool := w.getLsbD 29
/-- Bit 31: the uniform set (R349). -/
def wordUni (w : Word) : Bool := w.getLsbD 31
/-- Bit 30, S: the switch marker (R146). -/
def wordS (w : Word) : Bool := w.getLsbD 30
/-- Bytes of the instruction whose word is `w`: 8 when X is 1, else 4 (R349). -/
def wordLen (w : Word) : Nat := if wordX w then 8 else 4

/-- A lane word and its extension word (R350, R353, R354). -/
def decodeLane (w e : Word) : Except DecodeError Instr :=
  let vd := w.extractLsb' 16 7
  let va := w.extractLsb' 9 7
  let vb := w.extractLsb' 2 7
  match laneMap (wordMajor w) (w.extractLsb' 0 2).toNat with
  | none => .ok (.unassignedEncoding w (if wordX w then e else 0))
  | some (.mod mk) => .ok (mk { sw := wordS w, vd := vd, va := va, vb := vb, ext := if wordX w then some (decodeEMod e) else none })
  | some (.imm mk) => if wordX w then .ok (mk { sw := wordS w, vd := vd, va := va, vb := vb, imm := e }) else .error .reservedField
  | some (.flt mk) =>
    if wordX w then .ok (mk { sw := wordS w, vd := vd, va := va, vb := vb, f := decodeEFlt e }) else .error .reservedField

/-- The UB-form majors 0x10 to 0x13 (R352). -/
def branchOf (major : Nat) : Option (BForm → Instr) :=
  match major with
  | 0x10 => some .bra
  | 0x11 => some .brc
  | 0x12 => some .bru
  | 0x13 => some .call
  | _ => none

/-- A uniform word and its extension word (R351, R352, R354). -/
def decodeUniform (w e : Word) : Except DecodeError Instr :=
  match branchOf (wordMajor w) with
  | some mk =>
    if wordX w then .error .reservedField
    else .ok (mk { sw := wordS w, sense := w.getLsbD 22, pred := w.extractLsb' 19 3, off := w.extractLsb' 0 19 })
  | none =>
    let gd := w.extractLsb' 17 6
    let ga := w.extractLsb' 11 6
    let gb := w.extractLsb' 5 6
    match uniMap (wordMajor w) (w.extractLsb' 0 5).toNat with
    | none => .ok (.unassignedEncoding w (if wordX w then e else 0))
    | some (.mod mk) => .ok (mk { sw := wordS w, gd := gd, ga := ga, gb := gb, ext := if wordX w then some (decodeEMod e) else none })
    | some (.imm mk) => if wordX w then .ok (mk { sw := wordS w, gd := gd, ga := ga, gb := gb, imm := e }) else .error .reservedField

/-- The instruction in an instruction word and the word after it, before the checks of fields. -/
def decodeFields (w e : Word) : Except DecodeError Instr := if wordUni w then decodeUniform w e else decodeLane w e

/-- The instruction in an instruction word and the word after it, for a wave of shape `sh`: the checks of R357. -/
def decodeWords (sh : WaveShape) (w e : Word) : Except DecodeError Instr :=
  match decodeFields w e with
  | .error r => .error r
  | .ok i =>
    match i.illegal sh with
    | none => .ok i
    | some c => .error (.ofCause c)

/-- A little-endian word from the first four bytes (R7). -/
def takeWord : List Byte → Option (Word × List Byte)
  | b0 :: b1 :: b2 :: b3 :: t => some (b3 ++ b2 ++ b1 ++ b0, t)
  | _ => none

/-- Decodes the instruction at the head of a byte list, with the bytes after it. Total on any bytes. -/
def decode (sh : WaveShape) (bs : List Byte) : Except DecodeError (Instr × List Byte) :=
  match takeWord bs with
  | none => .error .truncated
  | some (w, rest) =>
    if wordX w then
      match takeWord rest with
      | none => .error .truncated
      | some (e, rest') => (decodeWords sh w e).map fun i => (i, rest')
    else (decodeWords sh w 0).map fun i => (i, rest)

/-- The four bytes of a word, least significant first (R7). -/
def wordBytes (w : Word) : List Byte := [w.extractLsb' 0 8, w.extractLsb' 8 8, w.extractLsb' 16 8, w.extractLsb' 24 8]

/-- The instruction the decoder reads from an instruction whose bits are `w`, numbered as the opcode table numbers
them; bits the table does not give (the extension word) are 0. -/
def decodeTableWord (nbits w : Nat) : Option Instr :=
  let n := w % 2 ^ nbits
  let bytes := wordBytes (BitVec.ofNat 32 n) ++ wordBytes (BitVec.ofNat 32 (n / 2 ^ 32))
  match decode .largest bytes with
  | .ok (i, _) => some i
  | .error _ => none

/-! ## The encoder -/

/-- One bit as a word of one bit. -/
def bit1 (b : Bool) : BitVec 1 := if b then 1 else 0

/-- The E-mod word with the given fields (Table 14.3). -/
def encodeEMod (e : EMod) : Word :=
  bit1 e.gsense ++ e.guard ++ e.src3 ++ e.fmt ++ e.rnd ++ bit1 e.sat ++ bit1 e.usrc ++ e.mod ++ e.byte

/-- The E-imm word with the given float fields (Table 14.4). -/
def encodeEFlt (e : EFlt) : Word := bit1 e.gsense ++ e.guard ++ e.rsv ++ bit1 e.sat ++ e.rnd ++ e.imm16

/-- An L-form word (Table 14.1). -/
def encodeLWord (major sub : Nat) (sw x : Bool) (vd va vb : BitVec 7) : Word :=
  (0 : BitVec 1) ++ bit1 sw ++ bit1 x ++ BitVec.ofNat 6 major ++ vd ++ va ++ vb ++ BitVec.ofNat 2 sub

/-- A U-form word (Table 14.2). -/
def encodeUWord (major sub : Nat) (sw x : Bool) (gd ga gb : BitVec 6) : Word :=
  (1 : BitVec 1) ++ bit1 sw ++ bit1 x ++ BitVec.ofNat 6 major ++ gd ++ ga ++ gb ++ BitVec.ofNat 5 sub

/-- An L-form instruction with an optional E-mod word. -/
def encL (major sub : Nat) (f : LForm) : Word × Option Word :=
  (encodeLWord major sub f.sw f.ext.isSome f.vd f.va f.vb, f.ext.map encodeEMod)
/-- A lane (I) form. -/
def encLI (major sub : Nat) (f : LImm) : Word × Option Word := (encodeLWord major sub f.sw true f.vd f.va f.vb, some f.imm)
/-- A lane (F) form. -/
def encLF (major sub : Nat) (f : LFlt) : Word × Option Word :=
  (encodeLWord major sub f.sw true f.vd f.va f.vb, some (encodeEFlt f.f))
/-- A U-form instruction with an optional E-mod word. -/
def encU (major sub : Nat) (f : UForm) : Word × Option Word :=
  (encodeUWord major sub f.sw f.ext.isSome f.gd f.ga f.gb, f.ext.map encodeEMod)
/-- A uniform (I) form. -/
def encUI (major sub : Nat) (f : UImm) : Word × Option Word := (encodeUWord major sub f.sw true f.gd f.ga f.gb, some f.imm)
/-- A UB-form instruction (R352). -/
def encB (major : Nat) (f : BForm) : Word × Option Word :=
  ((1 : BitVec 1) ++ bit1 f.sw ++ (0 : BitVec 1) ++ BitVec.ofNat 6 major ++ bit1 f.sense ++ f.pred ++ f.off, none)

/-- The words of an instruction: its instruction word and its extension word, if it has one. Events have no words. -/
def encode (i : Instr) : Option (Word × Option Word) :=
  match i with
  | .iadd f => some (encL 0x00 0 f)
  | .iaddI f => some (encLI 0x00 1 f)
  | .iaddc f => some (encL 0x00 2 f)
  | .isub f => some (encL 0x00 3 f)
  | .imul f => some (encL 0x01 0 f)
  | .imulh f => some (encL 0x01 1 f)
  | .imad f => some (encL 0x01 2 f)
  | .imin f => some (encL 0x02 0 f)
  | .imax f => some (encL 0x02 1 f)
  | .iabs f => some (encL 0x02 2 f)
  | .and f => some (encL 0x03 0 f)
  | .or f => some (encL 0x03 1 f)
  | .xor f => some (encL 0x03 2 f)
  | .lop3 f => some (encL 0x03 3 f)
  | .shl f => some (encL 0x04 0 f)
  | .shr f => some (encL 0x04 1 f)
  | .sar f => some (encL 0x04 2 f)
  | .rot f => some (encL 0x04 3 f)
  | .bfx f => some (encL 0x05 0 f)
  | .bfi f => some (encL 0x05 1 f)
  | .popc f => some (encL 0x05 2 f)
  | .clz f => some (encL 0x05 3 f)
  | .brev f => some (encL 0x06 0 f)
  | .prmt f => some (encL 0x06 1 f)
  | .icmp f => some (encL 0x07 0 f)
  | .sel f => some (encL 0x07 1 f)
  | .mov f => some (encL 0x08 0 f)
  | .movSpecial f => some (encL 0x08 1 f)
  | .movi f => some (encLI 0x08 2 f)
  | .imulI f => some (encLI 0x09 0 f)
  | .andI f => some (encLI 0x09 1 f)
  | .orI f => some (encLI 0x09 2 f)
  | .xorI f => some (encLI 0x09 3 f)
  | .icmpI f => some (encLI 0x0A 0 f)
  | .iminI f => some (encLI 0x0A 1 f)
  | .imaxI f => some (encLI 0x0A 2 f)
  | .fadd f => some (encL 0x10 0 f)
  | .faddF f => some (encLF 0x10 1 f)
  | .fmul f => some (encL 0x10 2 f)
  | .fmulF f => some (encLF 0x10 3 f)
  | .ffma f => some (encL 0x11 0 f)
  | .ffmaF f => some (encLF 0x11 1 f)
  | .fmin f => some (encL 0x11 2 f)
  | .fmax f => some (encL 0x11 3 f)
  | .fcmp f => some (encL 0x12 0 f)
  | .fcmpF f => some (encLF 0x12 1 f)
  | .frnd f => some (encL 0x12 2 f)
  | .frcp f => some (encL 0x13 0 f)
  | .frsq f => some (encL 0x13 1 f)
  | .fsqrt f => some (encL 0x13 2 f)
  | .fexp2 f => some (encL 0x14 0 f)
  | .flog2 f => some (encL 0x14 1 f)
  | .fsin f => some (encL 0x14 2 f)
  | .fcos f => some (encL 0x14 3 f)
  | .ftanh f => some (encL 0x15 0 f)
  | .dadd f => some (encL 0x16 0 f)
  | .dmul f => some (encL 0x16 1 f)
  | .dfma f => some (encL 0x16 2 f)
  | .daddF f => some (encLF 0x16 3 f)
  | .hfma2 f => some (encL 0x17 0 f)
  | .hfma2F f => some (encLF 0x17 1 f)
  | .vdot4 f => some (encL 0x20 0 f)
  | .vdot8 f => some (encL 0x20 1 f)
  | .mxdot f => some (encL 0x20 2 f)
  | .cvt f => some (encL 0x21 0 f)
  | .cvtsr f => some (encL 0x21 1 f)
  | .pack f => some (encL 0x22 0 f)
  | .unpk f => some (encL 0x22 1 f)
  | .qnt f => some (encL 0x22 2 f)
  | .shfl f => some (encL 0x28 0 f)
  | .vote f => some (encL 0x28 1 f)
  | .ballot f => some (encL 0x28 2 f)
  | .redux f => some (encL 0x29 0 f)
  | .scan f => some (encL 0x29 1 f)
  | .qswz f => some (encL 0x2A 0 f)
  | .deriv f => some (encL 0x2A 1 f)
  | .ld f => some (encL 0x2C 0 f)
  | .st f => some (encL 0x2C 1 f)
  | .lds f => some (encL 0x2D 0 f)
  | .sts f => some (encL 0x2D 1 f)
  | .ldf f => some (encL 0x2E 0 f)
  | .stf f => some (encL 0x2E 1 f)
  | .sfill f => some (encL 0x2E 2 f)
  | .atom f => some (encL 0x2F 0 f)
  | .atcas f => some (encL 0x2F 1 f)
  | .red f => some (encL 0x2F 2 f)
  | .waitc f => some (encL 0x30 0 f)
  | .pref f => some (encL 0x30 1 f)
  | .tex f => some (encL 0x31 0 f)
  | .tld f => some (encL 0x31 1 f)
  | .imgst f => some (encL 0x31 2 f)
  | .sopen f => some (encL 0x38 0 f)
  | .isopen f => some (encL 0x38 1 f)
  | .sclose f => some (encL 0x38 2 f)
  | .sadv f => some (encL 0x39 0 f)
  | .stend f => some (encL 0x39 1 f)
  | .srd f => some (encL 0x3A 0 f)
  | .swr f => some (encL 0x3A 1 f)
  | .tfeed f => some (encL 0x3C 0 f)
  | .tdrain f => some (encL 0x3C 1 f)
  | .gadd f => some (encU 0x00 0 f)
  | .gaddI f => some (encUI 0x00 1 f)
  | .gsub f => some (encU 0x00 2 f)
  | .gsubI f => some (encUI 0x00 3 f)
  | .gmul f => some (encU 0x01 0 f)
  | .gmulI f => some (encUI 0x01 1 f)
  | .gand f => some (encU 0x02 0 f)
  | .gandI f => some (encUI 0x02 1 f)
  | .gor f => some (encU 0x02 2 f)
  | .gorI f => some (encUI 0x02 3 f)
  | .gxor f => some (encU 0x03 0 f)
  | .gxorI f => some (encUI 0x03 1 f)
  | .gshl f => some (encU 0x04 0 f)
  | .gshlI f => some (encUI 0x04 1 f)
  | .gshr f => some (encU 0x04 2 f)
  | .gshrI f => some (encUI 0x04 3 f)
  | .gcmp f => some (encU 0x05 0 f)
  | .gcmpI f => some (encUI 0x05 1 f)
  | .gsel f => some (encU 0x05 2 f)
  | .gmov f => some (encU 0x06 0 f)
  | .gmovi f => some (encUI 0x06 1 f)
  | .gld f => some (encU 0x07 0 f)
  | .gldI f => some (encUI 0x07 1 f)
  | .gst f => some (encU 0x07 2 f)
  | .gstI f => some (encUI 0x07 3 f)
  | .ret f => some (encU 0x14 0 f)
  | .jmpi f => some (encU 0x14 1 f)
  | .exit f => some (encU 0x14 2 f)
  | .nop f => some (encU 0x14 3 f)
  | .rcv f => some (encU 0x15 0 f)
  | .yld f => some (encU 0x15 1 f)
  | .idr f => some (encU 0x15 2 f)
  | .trap f => some (encUI 0x16 0 f)
  | .brk f => some (encUI 0x16 1 f)
  | .bar f => some (encU 0x18 0 f)
  | .cbar f => some (encU 0x18 1 f)
  | .fence f => some (encU 0x19 0 f)
  | .bind f => some (encU 0x1A 0 f)
  | .unbind f => some (encU 0x1A 1 f)
  | .scopeset f => some (encU 0x1B 0 f)
  | .scopesync f => some (encU 0x1B 1 f)
  | .expect f => some (encU 0x1C 0 f)
  | .mfs f => some (encU 0x20 0 f)
  | .mts f => some (encU 0x20 1 f)
  | .role f => some (encU 0x21 0 f)
  | .enq f => some (encU 0x28 0 f)
  | .enqg f => some (encU 0x28 1 f)
  | .segattLd f => some (encU 0x29 0 f)
  | .segattNf f => some (encU 0x29 1 f)
  | .segdet f => some (encU 0x29 2 f)
  | .segpin f => some (encU 0x29 3 f)
  | .cpygo f => some (encU 0x30 0 f)
  | .cpywt f => some (encU 0x30 1 f)
  | .taskpost f => some (encU 0x31 0 f)
  | .taskwt f => some (encU 0x31 1 f)
  | .mma f => some (encU 0x32 0 f)
  | .mmas f => some (encU 0x32 1 f)
  | .mlut f => some (encU 0x32 2 f)
  | .mzero f => some (encU 0x33 0 f)
  | .mld f => some (encU 0x33 1 f)
  | .mst f => some (encU 0x33 2 f)
  | .mcvt f => some (encU 0x33 3 f)
  | .mwait f => some (encU 0x34 0 f)
  | .rayq f => some (encU 0x35 0 f)
  | .raywt f => some (encU 0x35 1 f)
  | .emit f => some (encU 0x3C 0 f)
  | .payw f => some (encU 0x3C 1 f)
  | .payr f => some (encU 0x3C 2 f)
  | .atlreq f => some (encU 0x3D 0 f)
  | .bra f => some (encB 0x10 f)
  | .brc f => some (encB 0x11 f)
  | .bru f => some (encB 0x12 f)
  | .call f => some (encB 0x13 f)
  | .coldStart => none
  | .warmStart => none
  | .powerRemoval => none
  | .pwrCapWrite => none
  | .tokenRefill => none
  | .clockStep => none
  | .getVersion => none
  | .getCapabilities => none
  | .negotiateAlgorithms => none
  | .getDigests => none
  | .getCertificate => none
  | .challenge => none
  | .getMeasurements => none
  | .unsupportedSpdmRequest => none
  | .eccError => none
  | .rowTestResult => none
  | .retirementSave => none
  | .configRequest => none
  | .registerWrite => none
  | .resetCtlWarm => none
  | .devNumWrite => none
  | .fabPortStatRead => none
  | .entryLowWordWrite => none
  | .fabRouteWrite => none
  | .fabWinWrite => none
  | .flitReceive => none
  | .portDown => none
  | .retrainTimeout => none
  | .ackTimeout => none
  | .streamBreak => none
  | .fabricOperationArrival => none
  | .fabricAck => none
  | .closeReceive => none
  | .closeAnswerReceive => none
  | .retryResponse => none
  | .retryResend => none
  | .fabricReleaseSend => none
  | .cxlPortDown => none
  | .cxlPoison => none
  | .atsRequest => none
  | .translationCompletion => none
  | .pageRequestEnqueue => none
  | .pageRequestSend => none
  | .pageResponse => none
  | .atsInvalidation => none
  | .invalidationAck => none
  | .invalidationTimeout => none
  | .contextEnable => none
  | .ctxTeardownWrite => none
  | .subTailWrite => none
  | .ctxPreemptReq => none
  | .packetArrival => none
  | .dringWake => none
  | .launch => none
  | .barrier => none
  | .signal => none
  | .signalStoreDone => none
  | .segmentCreate => none
  | .segmentDestroy => none
  | .segmentPin => none
  | .segmentUnpin => none
  | .segmentInvalidOp => none
  | .scope => none
  | .teardown => none
  | .teardownQuiescent => none
  | .quantumExpiry => none
  | .preemptArrival => none
  | .ticketClaim => none
  | .pendingRetry => none
  | .seedReoffer => none
  | .affinityTimeout => none
  | .waveEntryGrant => none
  | .resultReturn => none
  | .missSplit => none
  | .faultSplit => none
  | .fuseTimeout => none
  | .reconvergenceRelease => none
  | .fuseto => none
  | .splitwaitRetry => none
  | .poolEvict => none
  | .teamSave => none
  | .teamSaveDone => none
  | .idrPreempt => none
  | .coremodeChange => none
  | .haltWave => none
  | .resumeWave => none
  | .haltContext => none
  | .resumeContext => none
  | .dbgRead => none
  | .dbgWrite => none
  | .segdetDrainDone => none
  | .segmentEvictDone => none
  | .segmentReloadDone => none
  | .scopeUpdateAck => none
  | .scopeUpdateTimeout => none
  | .bindingPropagated => none
  | .releaseDrainDone => none
  | .postAccept => none
  | .copyJobStart => none
  | .copyRecordDone => none
  | .slowPathJobEnd => none
  | .taskArm => none
  | .taskRelease => none
  | .matrixGrant => none
  | .matrixComplete => none
  | .queryStart => none
  | .queryRecord => none
  | .triangleSend => none
  | .triangleArrival => none
  | .swWaveTimeout => none
  | .meshStarvation => none
  | .monitorWake => none
  | .waitcPoll => none
  | .waitcSwapOut => none
  | .portUp => none
  | .cacheLineEviction => none
  | .nonReturningOperationPerformed => none
  | .gddr7UncorrectedError => none
  | .unassignedEncoding w e => some (w, if w.getLsbD 29 then some e else none)

/-- The bytes of an instruction as memory holds them. -/
def encodeBytes (i : Instr) : List Byte :=
  match encode i with
  | none => []
  | some (w, none) => wordBytes w
  | some (w, some e) => wordBytes w ++ wordBytes e

end Sys2Proof
end

