-- ==== Sys2Proof/Machine/State.lean ====
section
/-! DEFINITION. The state of the module as plain data: every register, table and queue the manual names, one record per
unit, and State.reset. A table entry that is not listed holds the default of its record, which is its reset value. -/

namespace Sys2Proof
namespace Machine

/-! ## Stops -/

/-- Why the machine stops. -/
inductive Fault where
  /-- An instruction is executed while no fragment issues it: only a caller outside `step` can do so. Safe: the part
  has no such case. -/
  | noIssuer
  deriving DecidableEq, Repr

/-- What the model refuses. -/
inductive Refusal where
  /-- An arm of Dispatch without a meaning. Safe. -/
  | notModelled (mnemonic : String)
  deriving DecidableEq, Repr

/-! ## Memory (R7, R28 to R36, R175) -/

/-- Memory: a canonical list of location and byte, with what ECC and the key tags say of single bytes.
Locations: device physical address p is p; host address a is 2^64 + a; on-chip storage as Ops lays it out. -/
structure Mem where
  /-- strictly rising locations, no byte equal to 0, which is what an unlisted location reads as -/
  cells : List Host.Cell := []
  /-- the key under which a 16-byte block of device memory, by location div 16, was written last (R30); none: never written -/
  tags : Tbl Nat := []
  /-- poisoned locations (R36) -/
  poison : Tbl Unit := []
  /-- 16-byte granules, by location div 16, whose full-empty bit is 0 (R175) -/
  empties : Tbl Unit := []
  deriving DecidableEq, Repr, Inhabited

/-- A cache line (R31, R174): 64 bytes with dirty and poison marks per byte, under one key tag. -/
structure Line where
  key : Nat := 0
  data : List Byte := []
  dirty : Mask := 0
  poison : Mask := 0
  deriving DecidableEq, Repr, Inhabited

/-- A line of an LLC slice (R31): its key tag, and whether the device memory behind it is older. Its bytes are those `Mem` holds:
the slice is the one place through which the device memory of its die is reached (R18). -/
structure LlcLine where
  key : Nat := 0
  dirty : Bool := false
  deriving DecidableEq, Repr, Inhabited

/-- A translation (R59). `vpage` and `tpage` are addresses, `size` the logarithm of the page size. -/
structure Xlat where
  pasid : BitVec 20 := 0
  vpage : Addr := 0
  size : Nat := 12
  tpage : Addr := 0
  r : Bool := false
  w : Bool := false
  u : Bool := false
  deriving DecidableEq, Repr, Inhabited

/-! ## Scopes and bindings (Tables 8.2, 8.3) -/

/-- A scope-table entry (Table 8.2). -/
structure ScopeEntry where
  cores : BitVec 320 := 0
  gen : BitVec 8 := 0
  l2mask : BitVec 8 := 0
  llc : Bool := false
  hostfab : Bool := false
  valid : Bool := false
  deriving DecidableEq, Repr, Inhabited

/-- An update of a scope entry (R209): the given contents, the dies that have not acknowledged it, and the SCOPE packet
that completes at its end. -/
structure ScopeUpd where
  id : Nat := 0
  entry : Nat := 0
  set : ScopeEntry := {}
  inval : Bool := false
  leaves : List Nat := []
  packet : Option Nat := none
  deriving DecidableEq, Repr, Inhabited

/-- What an instruction captures of a scope entry when it issues (R209): the entry, its set and GEN. -/
structure Capture where
  index : Nat := 0
  set : ScopeEntry := {}
  deriving DecidableEq, Repr, Inhabited

/-- A region-binding entry (Table 8.3). -/
structure Binding where
  base : Addr := 0
  sync : Addr := 0
  len : Nat := 0
  scope : BitVec 5 := 0
  valid : Bool := false
  deriving DecidableEq, Repr, Inhabited

/-! ## Waves and fragments (06, 12) -/

/-- Fragment states (Table 6.2). -/
inductive FragSt where
  | free | run | swait | xlate | rcvwait | ffwait | splitwait | trap | ystop | syncwait
  deriving DecidableEq, Repr, Inhabited

/-- What a fragment in SYNCWAIT waits for (R145). -/
inductive WaitKind where
  | none | barrier | waitc | fullEmpty | fence | binding | scopeUpdate | scopeSync | segment | drain | post | task
  | matrix | copy | ray | payload | emit | reply | taskDone
  deriving DecidableEq, Repr, Inhabited

/-- A wait with what was captured when the instruction issued; `ready` once the event it waits for has come. -/
structure Wait where
  kind : WaitKind := .none
  n : Nat := 0
  m : Nat := 0
  lanes : Mask := 0
  cap : Capture := {}
  /-- granules of the blocked lanes (R177), or locations of monitors -/
  gran : Tbl Nat := []
  ready : Bool := false
  ok : Bool := false
  deriving DecidableEq, Repr, Inhabited

/-- A serial frame (Table 6.5). -/
structure Frame where
  dpc : Addr := 0
  dmask : Mask := 0
  arrived : Mask := 0
  join : Addr := 0
  joinset : Bool := false
  deriving DecidableEq, Repr, Inhabited

/-- A trap record (Table 12.2). -/
structure TrapRec where
  code : Nat := 0
  cause : Nat := 0
  action : BitVec 2 := 3
  unif : Bool := false
  xw : Bool := false
  instr : Word := 0
  extw : Word := 0
  lanes : Mask := 0
  addr : Addr := 0
  opA : Word := 0
  opB : Word := 0
  opC : Word := 0
  newpc : BitVec 62 := 0
  saveg : List Word := []
  info : BitVec 96 := 0
  pend : Mask := 0
  frag : BitVec 256 := 0
  /-- snapshot items: entry image and fragment number, oldest first (R305) -/
  snaps : List (BitVec 256 × Nat) := []
  deriving DecidableEq, Repr, Inhabited

/-- What an instruction under way has read at its issue: the wave's registers (R406, R410), its scope entry (R209), and the region
bindings of its context, each with its own scope (R215, R216). -/
structure Issued where
  v : Tbl Word := []
  p : Tbl Mask := []
  g : Tbl Word := []
  q : BitVec 8 := 0
  cap : Capture := {}
  binds : List (Binding × ScopeEntry) := []
  deriving DecidableEq, Repr, Inhabited

/-- A fragment entry (Table 6.1) with what the sequencer holds beside it. -/
structure Frag where
  pc : Addr := 0
  mask : Mask := 0
  unfin : Mask := 0
  slot : Nat := 0
  st : FragSt := .free
  point : Nat := 0
  timer : Nat := 0
  budget : Nat := 0
  frames : List Frame := []
  rounds : Nat := 0
  prgi : Nat := 0
  /-- outstanding variable-latency results (R146), by id -/
  board : List Nat := []
  trap : Option TrapRec := none
  wait : Wait := {}
  /-- the words of an instruction that is under way while the fragment waits -/
  words : Option (Word × Option Word) := none
  /-- TIMER has just reached 0 (R138, R143) -/
  due : Bool := false
  /-- core cycles since SWAIT or XLATE was entered, and whether the split was considered (R132, R133) -/
  since : Nat := 0
  considered : Bool := false
  /-- lanes that a replay or retry acts on (R63, R306); none: every running lane -/
  only : Option Mask := none
  /-- a parked access holds a group index (R62) -/
  grouped : Bool := false
  /-- translation answers that were not installed, each for this fragment's access alone (R61): page and answer -/
  answers : List (Nat × AtsReply) := []
  /-- the pages that a parked access has requested, and whether for writing (R62, R159) -/
  pages : List Nat := []
  pagesWr : Bool := false
  /-- what an instruction under way has read at its issue -/
  issued : Option Issued := none
  /-- the image descriptor that the instruction under way has read (R420) -/
  desc : Option (List Byte) := none
  /-- an uncorrected error has struck the entry (R36) -/
  bad : Bool := false
  deriving DecidableEq, Repr, Inhabited

/-- An outstanding variable-latency result (R147): the values by register key, for lanes not yet returned. A lane
result's key is register × 64 + lane; a uniform one's is the register number. -/
structure Pending where
  id : Nat := 0
  uniform : Bool := false
  lanes : Mask := 0
  vals : Tbl Word := []
  /-- the load carries .se (R411) -/
  eligible : Bool := false
  deriving DecidableEq, Repr, Inhabited

/-- A stream register of one lane (Table 16.6). -/
structure Strm where
  isOpen : Bool := false
  indirect : Bool := false
  fmt : Nat := 0
  pol : BitVec 2 := 0
  a : Addr := 0
  b : Addr := 0
  bound : Word := 0
  pos : Word := 0
  deriving DecidableEq, Repr, Inhabited

/-- An idempotent region (R161): its entry address and the registers the IDR recorded. -/
structure Region where
  entry : Addr := 0
  mask : BitVec 64 := 0
  saved : Tbl Word := []
  deriving DecidableEq, Repr, Inhabited

/-- A wave in its slot (R122 to R129, R359 to R362). -/
structure Wave where
  team : Nat := 0
  idx : Nat := 0
  lanes : Nat := 4
  vregs : Nat := 8
  pipe : Nat := 0
  /-- start order on the core (R126) -/
  age : Nat := 0
  priv : Bool := false
  /-- vector registers, by register × 64 + lane; an unlisted register holds 0 -/
  v : Tbl Word := []
  /-- p1 to p7, by number, one bit a lane -/
  p : Tbl Mask := []
  g : Tbl Word := []
  q : BitVec 8 := 0
  som : Bool := false
  fuseTo : Nat := 0
  fpmode : Word := 0
  fpflags : Word := 0
  cyclehi : Word := 0
  exited : Mask := 0
  /-- acquire records (R211), by scope entry -/
  acq : Tbl (BitVec 8) := []
  /-- stream registers, by number × 64 + lane -/
  streams : Tbl Strm := []
  pend : List Pending := []
  region : Option Region := none
  /-- halted by a debugger (R316); it counts as halted once every result has returned -/
  haltReq : Bool := false
  /-- instructions retired since the team's last barrier (R153) -/
  retired : Nat := 0
  /-- consecutive cycles in the pool without an issue, and whether an instruction has issued in this one (R152) -/
  idle : Nat := 0
  issued : Bool := false
  /-- the wave's fragments, oldest first (R126) -/
  order : List Nat := []
  /-- fragments still to be given an entry (R125) -/
  owed : List Frag := []
  /-- registers written while a result for them was outstanding (R148): vector registers by register × 64 + lane, uniform ones -/
  lateV : Tbl Unit := []
  lateG : Tbl Unit := []
  /-- vector registers an uncorrected error has poisoned (R36), by register × 64 + lane -/
  badV : Tbl Unit := []
  /-- uniform registers an uncorrected error has poisoned -/
  badG : Tbl Unit := []
  /-- poisoned predicates, by number; the uniform predicates; stream registers, by number × 64 + lane -/
  badP : Tbl Unit := []
  badQ : Bool := false
  badS : Tbl Unit := []
  deriving DecidableEq, Repr, Inhabited

/-- A non-returning memory operation on its way (R91, R314). -/
inductive PostOp where
  /-- bytes to store, by location -/
  | store (w : Tbl Byte)
  /-- a reduction: location, bytes, operation, float, signed, and the lanes' operands in lane order -/
  | red (loc size op : Nat) (fp sgn flush nancan : Bool) (operands : List Nat)
  /-- a full-empty store -/
  | storeFe (w : Tbl Byte)
  deriving DecidableEq, Repr

/-- Where an access is performed (Table 7.3). -/
inductive Place where
  | l1 (core : Nat)
  | l2 (die : Nat) (retain : Bool)
  | home
  | scratch
  deriving DecidableEq, Repr

/-- A posted operation of a wave. -/
structure Post where
  id : Nat
  slot : Nat
  team : Nat
  launch : Nat
  ctx : Nat
  place : Place
  op : PostOp
  addr : Addr
  /-- a release: its capture, until its drain is done (R219) -/
  rel : Option Capture
  /-- the bindings to a release's sync object as held at its issue, each with its own scope as captured there (R215, R216) -/
  binds : List (Binding × ScopeEntry) := []
  deriving DecidableEq, Repr

/-- Where a party stands (R195): a lane at its core, an engine job at its die, Woad, the host and peers outside. -/
inductive Party where
  | core (n : Nat)
  | die (d : Nat)
  | outside
  deriving DecidableEq, Repr

/-- A release whose write, or a later read-modify-write of its release sequence, a location holds at a place (R213): its party and captured
set, the bindings to the location as held at its issue (none: they are not the module's), and, of a job's completion, the job's write
footprint (R221). -/
structure RelRec where
  loc : Nat
  place : Place
  party : Party
  set : ScopeEntry
  binds : Option (List (Binding × ScopeEntry)) := none
  foot : List (Addr × Nat) := []
  deriving DecidableEq, Repr

/-- A vector pipe (R152, Table 13.9). -/
structure Pipe where
  sr : Word := 0x2545F491
  pool : List Nat := []
  deriving DecidableEq, Repr, Inhabited

/-- A core. -/
structure Core where
  mode : CoreMode := .startUp
  missThresh : Nat := 256
  cycle : Nat := 0
  waves : Tbl Wave := []
  frags : Tbl Frag := []
  /-- slots of waves that wait for fragment entries, oldest first (R125) -/
  entryWaiters : List Nat := []
  /-- entries that have freed while such a wave waited, and are reserved (R125) -/
  resv : List Nat := []
  pipes : Tbl Pipe := []
  l1 : Tbl Line := []
  icache : Tbl Line := []
  tc : List Xlat := []
  /-- lines and entries in disabled ways (R35) -/
  l1Off : Nat := 0
  icacheOff : Nat := 0
  tcOff : Nat := 0
  posts : List Post := []
  /-- copies of the scope and binding tables, by context × 256 + entry (R209, R215) -/
  scopes : Tbl ScopeEntry := []
  binds : Tbl Binding := []
  retired : Bool := false
  /-- the core is emptied for a self-test (R162): it takes no new team -/
  draining : Bool := false
  nextAge : Nat := 0
  deriving DecidableEq, Repr, Inhabited

/-! ## Teams, launches and placement (04, 05) -/

/-- A team descriptor (Table 5.1). -/
structure Desc where
  entry : Addr := 0
  arg : Addr := 0
  affname : Addr := 0
  waves : Nat := 1
  width : Nat := 0
  vregs : Nat := 1
  teamscr : Nat := 0
  crows : Nat := 1
  ccols : Nat := 1
  cshare : Nat := 0
  mtiles : Nat := 0
  fuseTo : Nat := 0
  deriving DecidableEq, Repr, Inhabited

/-- What a ticket's waves start with beside ARG (R90, R280, R289, R297, R459). -/
inductive StartKind where
  | seed (ref : Word)
  | team
  | query (first : Nat) (result : Addr) (lanes : Mask) (v : Tbl Word)
  | mesh (slot : Nat)
  | raster (vbuf : Addr) (pitch tx ty : Nat) (lanes : Mask) (v : Tbl Word)
  deriving DecidableEq, Repr

/-- A ticket: one team or one cluster of a grid (R110). -/
structure Ticket where
  launch : Nat
  grid : Nat
  first : Nat
  desc : Desc
  kind : StartKind
  kills : Nat := 0
  /-- it is placed as if AFFNAME were 0: it has waited too long for its segment's home (R115) -/
  loose : Bool := false
  deriving DecidableEq, Repr

/-- An entry of a die's launch list (R110): tickets `next` to `bound` - 1 are unclaimed. -/
structure LEntry where
  launch : Nat
  grid : Nat
  desc : Desc
  kind : StartKind
  next : Nat
  bound : Nat
  kills : Nat := 0
  /-- the die of the issuer of an ENQ, while the ticket is held (R110) -/
  issuer : Option Nat := none
  deriving DecidableEq, Repr

/-- A wave as it is saved (Tables 12.4, 12.5): the wave with its fragments, oldest first. -/
structure SavedWave where
  wave : Wave
  frags : List Frag
  deriving DecidableEq, Repr

/-- Where a team is in its life. -/
inductive TeamSt where
  | resident | saved | ended
  deriving DecidableEq, Repr, Inhabited

/-- An attachment (R186): handle, name, nesting count. -/
structure Attach where
  handle : Nat
  name : Addr
  nest : Nat
  deriving DecidableEq, Repr

/-- A team (R117, R186, R242, R258, R281, R310). -/
structure Team where
  st : TeamSt := .resident
  launch : Nat := 0
  ctx : Nat := 0
  grid : Nat := 0
  number : Nat := 0
  core : Nat := 0
  role : Nat := 0
  /-- the cluster: the key of its first member; a team outside a cluster is its own -/
  cluster : Nat := 0
  desc : Desc := {}
  kind : StartKind := .team
  kills : Nat := 0
  /-- role binding table (R117): unit numbers of the valid entries -/
  roles : Tbl Nat := []
  attach : List Attach := []
  /-- shape registers and INV states (R243, R258) -/
  shapes : Tbl Word := []
  inv : Tbl Nat := []
  mhalt : Nat := 0
  /-- counts of the team's queries and the last statuses, newest first (R281, R477) -/
  qPosted : Nat := 0
  qDone : Nat := 0
  qEnded : List (Nat × Nat) := []
  /-- mesh team: die, slot and index (R289) -/
  mesh : Option (Nat × Nat × Nat) := none
  /-- wave slots by wave index, of live waves -/
  slots : Tbl Nat := []
  /-- pipes of the waves, by wave index (R107) -/
  pipes : List Nat := []
  preempt : Bool := false
  /-- its image is being written (R312) -/
  saving : Bool := false
  swapOut : Bool := false
  storage : Bool := true
  /-- posted jobs that hold an address of the team's storage (R170) -/
  owed : Nat := 0
  saved : List SavedWave := []
  /-- bytes of the image in the reserve (0: none), the die that holds it, and where in its reserve (R309) -/
  image : Nat := 0
  imageDie : Nat := 0
  imageAt : Nat := 0
  /-- saved on-chip storage: the cells and empty granules of the team's locations (R171) -/
  savedCells : List Host.Cell := []
  savedEmpties : List Nat := []
  savedPoison : List Nat := []
  /-- SEGMISS to raise at the first instruction after a resume (R189): cause and name -/
  segmiss : Option (Nat × Addr) := none
  /-- attachments still to be made before the first instruction after a resume (R189) -/
  reattach : List Attach := []
  deriving DecidableEq, Repr, Inhabited

/-- Completion statuses (R88). -/
inductive Status where
  | ok | badpkt | badafter | fault | killed | aborted | segfail
  deriving DecidableEq, Repr, Inhabited

/-- A dispatched LAUNCH (R90 to R94). -/
structure Launch where
  ctx : Nat := 0
  ref : Word := 0
  launchid : Addr := 0
  doneaddr : Addr := 0
  stamp : Nat := 0
  /-- dispatch order -/
  order : Nat := 0
  counter : Nat := 1
  status : Status := .ok
  lanepriv : Nat := 0
  dlceil : Nat := 0
  idemp : Bool := false
  grids : Nat := 1
  /-- an unresolved pre-emption request, and teams saved or not saved for it (R94) -/
  request : Bool := false
  /-- cores that the request has not reached -/
  reqCores : List Nat := []
  savedTeams : Nat := 0
  /-- the launch of the waiting seed for which Woad has made the request (R94, R491) -/
  forSeed : Option Nat := none
  complete : Bool := false
  deriving DecidableEq, Repr, Inhabited

/-! ## Engines (09, 10, 11) -/

/-- A job's footprint: base, length and whether the region may be written (R226). -/
structure Region6 where
  base : Addr
  len : Nat
  write : Bool
  deriving DecidableEq, Repr

/-- A copy or task job (R220 to R241), in the order of its die's scheduler. -/
structure Job where
  id : Nat
  ctx : Nat
  launch : Nat
  team : Nat
  task : Bool
  card : Addr
  cap : Capture
  chan : Nat := 0
  /-- number of the job on its channel and context (R231) -/
  number : Nat := 0
  /-- the handles that the team of the post held (R167) -/
  held : List Nat := []
  regions : List Region6 := []
  dectask : Option Nat := none
  tasknum : Nat := 0
  /-- next record, records done and whether the job has begun, faulted to the slow path, or waits for a page response -/
  recA : Addr := 0
  count : Nat := 0
  /-- element or row at which the current record goes on, and elements written and skipped so far -/
  pos : Nat := 0
  outN : Nat := 0
  skipped : Bool := false
  /-- what the bytes that the record at hand has overwritten held before, by address, where its source and destination overlap -/
  orig : Tbl Byte := []
  running : Bool := false
  begun : Bool := false
  slow : Bool := false
  parked : Bool := false
  rounds : Nat := 0
  ended : Bool := false
  /-- the card's bytes, once they have been read, and those of the record at hand -/
  cardBytes : List Byte := []
  recBytes : List Byte := []
  /-- the fragment that waits for the post to be answered (TASKPOST) -/
  poster : Option (Nat × Nat) := none
  answer : Option Nat := none
  deriving DecidableEq, Repr

/-- A channel's counts for one context (R231). -/
structure Chan where
  posted : Word := 0
  done : Word := 0
  failed : Bool := false
  deriving DecidableEq, Repr, Inhabited

/-- A task entry (R238). -/
inductive TaskSt where
  | idle | armed | released
  deriving DecidableEq, Repr, Inhabited

structure Task where
  count : Nat := 0
  packet : List Byte := []
  st : TaskSt := .idle
  status : Nat := 0
  /-- stamp of the released packet once Woad has read it -/
  stamp : Option Nat := none
  /-- die and id of the task job that armed it -/
  die : Nat := 0
  job : Nat := 0
  deriving DecidableEq, Repr, Inhabited

/-- Matrix commands (Table 9.5). -/
inductive MOp where
  | mma | mmas | mlut | mcvt | mzero | mld | mst
  deriving DecidableEq, Repr

/-- A matrix request (R245, R467). -/
structure MReq where
  id : Nat
  team : Nat
  launch : Nat
  ctx : Nat
  op : MOp
  d : Nat := 0
  a : Nat := 0
  b : Nat := 0
  sTile : Nat := 0
  acc : Bool := false
  page1 : Bool := false
  page1d : Bool := false
  bits : Nat := 4
  rnd : Nat := 0
  sat : Bool := false
  addr : Addr := 0
  stride : Nat := 0
  cap : Capture := {}
  reads : List Nat := []
  writes : List Nat := []
  cycles : Nat := 0
  flush : Bool := false
  nancan : Bool := false
  /-- first row not done (R254) -/
  row : Nat := 0
  /-- it has left the table at its grant, and waits again for the tile port after a page fault -/
  granted : Bool := false
  parked : Bool := false
  rounds : Nat := 0
  /-- shape register values when the request was posted (R466), by tile -/
  shapes : Tbl Word := []
  /-- the handles that the team of the post held (R167) -/
  held : List Nat := []
  deriving DecidableEq, Repr

/-- A record of an Indigo stack (R274). -/
structure TravRec where
  test : Bool
  node : Addr
  k : Nat
  x0 : Nat
  y0 : Nat
  wl : Nat
  hl : Nat
  deriving DecidableEq, Repr

/-- A hit, with its exact parameter as a quotient. -/
structure Hit where
  tnum : Nat
  tden : Nat
  t : Word
  prim : Word
  u : Word
  v : Word
  tri : Addr
  deriving DecidableEq, Repr

/-- An Indigo query (R259 to R284). -/
structure Query where
  id : Nat
  team : Nat
  launch : Nat
  ctx : Nat
  recA : Addr
  result : Addr
  spawn : Addr
  cap : Capture
  number : Nat
  /-- the handles that the team of the post held (R167) -/
  held : List Nat := []
  started : Bool := false
  /-- the 64 bytes of the record and the 32 of the descriptor, once read -/
  recBytes : List Byte := []
  spawnBytes : List Byte := []
  /-- the stack, newest record first, and the blocks spilled -/
  stack : List TravRec := []
  blocks : Nat := 0
  pages : List Nat := []
  spillBase : Addr := 0
  spillPages : Nat := 0
  /-- distinct hits by ray, in the order they are found -/
  hits : Tbl (List Hit) := []
  splits : Nat := 0
  enters : Nat := 0
  spills : Nat := 0
  /-- it has ended with this status and address; its results are still to be written: all of them, or the summary alone, or
  nothing -/
  ending : Bool := false
  status : Nat := 0
  addr : Addr := 0
  slotsToo : Bool := true
  summary : Bool := true
  /-- what of that is written: nothing, the slots, or the summary too -/
  wrote : Nat := 0
  parked : Bool := false
  rounds : Nat := 0
  deriving DecidableEq, Repr

/-- A quartet (R14, R242, R245, R259). -/
structure Quartet where
  table : List MReq := []
  array : Option MReq := none
  port : Option MReq := none
  sr : Word := 0x2545F491
  queue : List Query := []
  slots : Tbl Query := []
  mRetired : Bool := false
  iRetired : Bool := false
  deriving DecidableEq, Repr, Inhabited

/-- A pipeline descriptor (Table 11.1) with the address that names the draw. -/
structure PipeDesc where
  addr : Addr := 0
  mesh : Desc := {}
  sw : Option Desc := none
  vbuf : Addr := 0
  width : Nat := 1
  height : Nat := 1
  pitch : Nat := 1
  thresh : Nat := 0
  cull : Nat := 0
  deriving DecidableEq, Repr, Inhabited

/-- A payload slot (R286, R289). -/
structure PaySlot where
  held : Bool := false
  launch : Nat := 0
  ctx : Nat := 0
  desc : PipeDesc := {}
  size : Nat := 0
  meshes : Nat := 0
  exited : Nat := 0
  /-- triangles emitted and not yet processed -/
  tris : Nat := 0
  /-- the PAYW that still copies its payload: team, core and fragment entry -/
  taker : Option (Nat × Nat × Nat) := none
  deriving DecidableEq, Repr, Inhabited

/-- A triangle on its way (R291, R295): clip-space vertices (x, y, z, w of each) and its number. -/
structure Tri where
  src : Nat
  dst : Nat
  slot : Nat
  launch : Nat
  desc : PipeDesc
  number : Word
  verts : List Word
  /-- owned regions of the destination die, as tx and ty, with the pair's sequence number -/
  regions : List (Nat × Nat × Nat)
  clipped : Bool
  soft : Bool
  sent : Bool
  deriving DecidableEq, Repr

/-- Software-path triangles being packed for one region (R297). -/
structure SwPack where
  launch : Nat
  ctx : Nat
  src : Nat
  slot : Nat
  desc : PipeDesc
  tx : Nat
  ty : Nat
  tris : List (List Word)
  deriving DecidableEq, Repr

/-- A monitor (R418): a granule and the fragment, or the saved team, it wakes. -/
structure Monitor where
  id : Nat
  place : Place
  granule : Nat
  core : Nat
  entry : Nat
  team : Nat
  saved : Bool := false
  fired : Bool := false
  deriving DecidableEq, Repr

/-- Whose access waits for a translation (R60), or a page-request group stands for (R62). -/
inductive Client where
  | frag (core entry : Nat)
  | job (die id : Nat)
  | matrix (quartet id : Nat)
  | query (quartet slot : Nat)
  | pixel (die id : Nat)
  | seg (ctx handle : Nat)
  /-- the error record of a context that is next (R99), a write of Woad, the read of a device ring (R79) -/
  | err (ctx : Nat)
  | write (id : Nat)
  | dring (ctx : Nat)
  /-- an operation that arrived on a stream (R54) -/
  | dst (peer : BitVec 22) (pasid : BitVec 20)
  /-- whoever it stood for has gone: a response is discarded (R64) -/
  | gone
  deriving DecidableEq, Repr

/-- A translation answer that was not installed (R61): it serves the access of one client alone. -/
structure Answer where
  client : Client
  pasid : BitVec 20
  page : Nat
  reply : AtsReply
  deriving DecidableEq, Repr

/-- An outstanding ATS request of a leaf (R60), with those that wait and whether each writes. -/
structure AtsReq where
  pasid : BitVec 20
  page : Nat
  write : Bool
  sent : Bool := false
  /-- an access asks anew: the completion is not used (R64) -/
  stale : Bool := false
  /-- the invalidations that have reached the leaf since the request was sent: base and logarithm of the size (R67) -/
  invals : List (Nat × Nat) := []
  waiters : List (Client × Bool) := []
  deriving DecidableEq, Repr

/-- The maximum of one pixel that waits for a page response or for its turn (R296). -/
structure PixWrite where
  id : Nat
  launch : Nat
  ctx : Nat
  addr : Addr
  word : BitVec 64
  parked : Bool := false
  rounds : Nat := 0
  deriving DecidableEq, Repr

/-- A compute die (R13, R16, R105, R110, R230, R286). -/
structure Die where
  fenced : Bool := false
  list : List LEntry := []
  pending : List Ticket := []
  resume : List Nat := []
  /-- mesh tickets without room, in the order of their slots (R288, R495) -/
  meshPending : List LEntry := []
  tc : List Xlat := []
  ats : List AtsReq := []
  /-- translations that have served the die and are held no longer: their lines may still be cached (R219) -/
  past : List Xlat := []
  /-- answers for accesses of engines that were not installed (R61) -/
  answers : List Answer := []
  l2 : Tbl Line := []
  /-- the memory-side LLC slice (R18), by line number of device memory -/
  llc : Tbl LlcLine := []
  /-- lines and entries in disabled ways (R35) -/
  l2Off : Nat := 0
  llcOff : Nat := 0
  tcOff : Nat := 0
  monitors : List Monitor := []
  /-- jobs of the die's copy channels and task scheduler, in post order (R222) -/
  jobs : List Job := []
  /-- channel counts by channel × 64 + context -/
  chans : Tbl Chan := []
  bankRetired : BitVec 16 := 0
  chanRetired : BitVec 16 := 0
  /-- die-scratchpad bytes in use by segments, per bank -/
  bankUsed : Nat := 0
  slots : Tbl PaySlot := []
  /-- triangles of this source front, in emission order -/
  tris : List Tri := []
  /-- next sequence number to give, by (destination region), and next to process, by source × 2^20 + region -/
  seqOut : Tbl Nat := []
  seqIn : Tbl Nat := []
  packs : List SwPack := []
  /-- grids of software-path teams by draw: grid number and teams formed (R297) -/
  swGrids : Tbl (Nat × Nat) := []
  pixels : List PixWrite := []
  deriving DecidableEq, Repr, Inhabited

/-- A load-board entry (Table 5.2). -/
structure Board where
  retired : Bool := false
  waves : Nat := 191
  scr : Nat := 1536
  tiles : Nat := 32
  quads : List Nat := [768, 768, 768, 768]
  blocks : List Nat := [4096, 4096, 4096, 4096]
  deriving DecidableEq, Repr, Inhabited

/-! ## Contexts and Woad (04, 07) -/

/-- Context states (R72). -/
inductive CtxSt where
  | free | active | tearing
  deriving DecidableEq, Repr, Inhabited

/-- Segment states (Table 7.5). -/
inductive SegSt where
  | released | declared | resident | evicted
  deriving DecidableEq, Repr, Inhabited

/-- A directory entry (Table 7.5), with the packet whose destroy waits and where an eviction or reload is bound. -/
structure Seg where
  name : Addr := 0
  size : Nat := 0
  detstamp : BitVec 64 := 0
  home : Nat := 0
  hcols : Nat := 0
  hrows : Nat := 0
  level : Nat := 0
  st : SegSt := .released
  pin : Bool := false
  dying : Bool := false
  busy : Bool := false
  noevict : Bool := false
  /-- a unit that holds it is retired: it is to be evicted (R35) -/
  leaving : Bool := false
  attach : Nat := 0
  syncseq : Word := 0
  /-- the destroy packet that completes at RELEASED: its stamp -/
  destroyer : Option Nat := none
  /-- a reload is in progress toward this home: home, columns, rows -/
  reload : Option (Nat × Nat × Nat) := none
  /-- team, core and fragment entry of the SEGATT that the reload is for; entry 512 is the agent's re-attach (R189) -/
  asker : Option (Nat × Nat × Nat) := none
  parked : Bool := false
  rounds : Nat := 0
  deriving DecidableEq, Repr, Inhabited

/-- Debug block (Table 12.7). -/
structure Dbg where
  obj : Nat := 0
  core : Nat := 0
  slot : Nat := 0
  index : Nat := 0
  page : Nat := 0
  err : Bool := false
  attach : Bool := false
  /-- DBG_DATA: 1,024 bytes; an empty list stands for zeros -/
  data : List Byte := []
  deriving DecidableEq, Repr, Inhabited

/-- Per-source completion tracking (R76, R87). -/
structure Source where
  read : Nat := 0
  /-- numbers read and not complete -/
  open_ : List Nat := []
  deriving DecidableEq, Repr, Inhabited

/-- An error record (Table 4.4) that waits to be written. -/
structure ErrRec where
  kind : Nat
  unit : Nat := 0
  ref : Word := 0xFFFFFFFF
  launchid : Addr := 0
  addr : Addr := 0
  detail : Nat := 0
  deriving DecidableEq, Repr

/-- A write of Woad that waits (R88, R99): completion record or SIGNAL store; the error records wait in order. -/
structure WoadWrite where
  id : Nat := 0
  ctx : Nat
  addr : Addr
  data : List Byte
  /-- the SIGNAL packet whose store this is -/
  signal : Option Nat := none
  /-- it goes to a peer through this window (R54) -/
  peer : Option (BitVec 128) := none
  sent : Bool := false
  parked : Bool := false
  rounds : Nat := 0
  deriving DecidableEq, Repr

/-- A context (Tables 4.1, 7.5, 8.2, 8.3; R238, R274). -/
structure Ctx where
  st : CtxSt := .free
  cfgerr : Nat := 0
  ringerr : Bool := false
  errlost : Bool := false
  fb : Bool := false
  prio : BitVec 8 := 0
  pasid : BitVec 20 := 0
  quota : BitVec 13 := 64
  legmask : BitVec 16 := 0
  acc : BitVec 2 := 0
  minmax : BitVec 2 := 0
  nancan : Bool := false
  flush : Bool := false
  trappc : BitVec 62 := 0
  segback : BitVec 52 := 0
  errbase : BitVec 52 := 0
  dring : BitVec 52 := 0
  dringLog : BitVec 4 := 0
  spillBase : BitVec 52 := 0
  spillPages : BitVec 12 := 0
  pending : Bool := false
  irq : BitVec 5 := 0
  irqen : BitVec 5 := 0
  quantum : Word := 0
  fbdies : BitVec 8 := 0xFF
  rankprog : Tbl Word := []
  subTail : Word := 0
  subHead : Word := 0
  dringHead : Word := 0
  errCount : Word := 0
  /-- host-ring bytes written in the window, by offset from 0x8000 -/
  ring : List Host.Cell := []
  dringStopped : Bool := false
  sources : Tbl Source := []
  scopes : Tbl ScopeEntry := []
  binds : Tbl Binding := []
  segs : Tbl Seg := []
  tasks : Tbl Task := []
  /-- released tasks whose packet Woad has not read, oldest first (R241) -/
  taskQ : List Nat := []
  /-- dies recorded for a draw, by launch: descriptor address and list (R293) -/
  draws : List (Nat × Addr × List Nat) := []
  dbg : Dbg := {}
  /-- fabric windows (Table 2.5), 16 entries, with a staged low word -/
  wins : Tbl (BitVec 128) := []
  winStage : Tbl (BitVec 64) := []
  /-- ports whose failure this context has met (R48) -/
  cxlSeen : BitVec 20 := 0
  /-- Response Failure: no page request until teardown (R64) -/
  priFail : Bool := false
  busySince : Option Nat := none
  errWait : List ErrRec := []
  errParked : Bool := false
  errRounds : Nat := 0
  /-- the read of the device ring waits for a page response (R79), and its rounds -/
  dringParked : Bool := false
  dringRounds : Nat := 0
  /-- scope updates (R209), the first of them under way -/
  scopeUpd : List ScopeUpd := []
  /-- binding updates under way (R215): number × 256 + index, contents -/
  bindUpd : List (Nat × Binding) := []
  /-- the monitor of the device ring has fired, or the ring has not been looked at since (R79) -/
  dringLook : Bool := false
  deriving DecidableEq, Repr, Inhabited

/-- Packet kinds (Table 4.2). -/
inductive PktKind where
  | launch | barrier | signal | segment | scope | teardown
  deriving DecidableEq, Repr

/-- A packet from its arrival to its completion (R76 to R86). -/
structure Packet where
  ctx : Nat
  src : Nat
  num : Nat
  stamp : Nat
  rank : Word := 0
  kind : PktKind
  bytes : List Byte
  dispatched : Bool := false
  deriving DecidableEq, Repr

/-- Woad (R77, R84, R94, R110). -/
structure Woad where
  packets : List Packet := []
  nextStamp : Nat := 0
  dispatched : Nat := 0
  rr : Nat := 0
  seedPtr : Nat := 7
  /-- launches whose seed waits (R94), oldest first, with the seed's ticket -/
  seeds : List Ticket := []
  /-- tickets held while no die is usable (R110) -/
  held : List LEntry := []
  /-- 64-bit counter of directory operations (R179) -/
  dirOps : BitVec 64 := 0
  writes : List WoadWrite := []
  deriving DecidableEq, Repr, Inhabited

/-! ## Host link, fabric, management (01, 02, 03) -/

/-- A parked access with its page requests (R62). -/
structure Group where
  pasid : BitVec 20
  /-- none while the access waits for an index -/
  index : Option Nat
  client : Client
  pages : List Nat
  write : Bool
  launch : Nat := 0
  deriving DecidableEq, Repr

/-- One PRI page request. -/
structure PageReq where
  pasid : BitVec 20
  index : Nat
  page : Nat
  write : Bool
  last : Bool
  deriving DecidableEq, Repr

/-- An outstanding invalidation (R66): the leaves still to acknowledge; 0 to 7 dies, 8 fabric, 9 front end. -/
structure Inval where
  itag : Nat
  pasid : Option (BitVec 20)
  base : Nat
  size : Nat
  leaves : List Nat
  deriving DecidableEq, Repr

/-- What the module sends on its links. -/
inductive Msg where
  | msix (fn vector : Nat)
  /-- an SPDM answer: the request's number in the order of R29, what R29 states of it, and the rest -/
  | spdm (request : Nat) (stated rest : List Byte)
  | spdmUnsupported
  | cfgCompletion (fn reg : Nat) (status : Nat)
  | atsRequest (leaf : Nat) (pasid : BitVec 20) (page : Nat) (write : Bool)
  | pageRequest (r : PageReq)
  | stopMarker (pasid : BitVec 20)
  | invalCompletion (itag : Nat)
  | flit (port : Nat) (linkSeq : BitVec 64) (header : BitVec 128) (op : FabOp)
  | ack (a : FabAck)
  | close (st : StreamId) (epoch : BitVec 8)
  | closeAnswer (st : StreamId) (epoch : BitVec 8)
  | retry (st : StreamId) (num : Word)
  | resend (port : Nat)
  | readData (v : Nat)
  | unsupported
  deriving DecidableEq, Repr

/-- The host link (R39 to R43, R58 to R67). -/
structure Link where
  bar2 : Addr := 0
  priAlloc : Nat := 0
  priOut : Nat := 0
  /-- device page-request queue, 4,096 entries, and the requests that wait behind it (R42, R62) -/
  prq : List PageReq := []
  prqWait : List PageReq := []
  groups : List Group := []
  /-- I/O-die translation cache and its requests -/
  tc : List Xlat := []
  ats : List AtsReq := []
  /-- answers for accesses of the I/O die that were not installed (R61) -/
  answers : List Answer := []
  invals : List Inval := []
  sent : List Msg := []
  deriving DecidableEq, Repr, Inhabited

/-- A fabric load or atomic that an access has sent and what came back (R54): nothing yet, refused, or the data with
their poison mark. `key` names the access among its client's. -/
structure FabReply where
  client : Client
  key : Nat
  got : Bool := false
  refused : Bool := false
  poisoned : Bool := false
  data : List Byte := []
  deriving DecidableEq, Repr

/-- An operation at its source (R55, R56). -/
structure SentOp where
  op : FabOp
  port : Nat
  sent : Bool
  /-- who waits for a load or atomic; the launch of a posted store, whose counter it holds -/
  waiter : Option (Client × Nat)
  launch : Option Nat
  ctx : Nat
  /-- the destination has refused it with a retry response (R55) -/
  refused : Bool := false
  deriving DecidableEq, Repr

/-- A source stream (R55). -/
structure SrcStream where
  id : StreamId
  epoch : BitVec 8 := 0
  next : Word := 0
  ops : List SentOp := []
  /-- the destination closes this epoch -/
  closing : Bool := false
  /-- the next operation begins a new epoch -/
  fresh : Bool := false
  deriving DecidableEq, Repr

/-- A destination stream (R55): the current epoch, once one has begun, and the number applied last in it. -/
structure DstStream where
  id : StreamId
  begun : Bool := false
  epoch : BitVec 8 := 0
  last : Word := 0
  held : List FabOp := []
  /-- what was answered to the operations of the epoch -/
  acks : List FabAck := []
  closing : Bool := false
  /-- the fabric's clock when an operation arrived last -/
  age : Nat := 0
  /-- the next operation waits for a page response, and its rounds (R64) -/
  parked : Bool := false
  rounds : Nat := 0
  deriving DecidableEq, Repr

/-- The fabric unit. -/
structure Fabric where
  src : List SrcStream := []
  dst : List DstStream := []
  replies : List FabReply := []
  clock : Nat := 0
  deriving DecidableEq, Repr, Inhabited

/-- A fabric port (Table 2.3). -/
structure FabPort where
  up : Bool := false
  retrain : Bool := false
  fails : Nat := 0
  misroute : Nat := 0
  retries : Nat := 0
  /-- link sequence number of the next flit sent (R49) -/
  linkSeq : BitVec 64 := 0
  /-- retries of the current flit in a row (R51) -/
  run : Nat := 0
  deriving DecidableEq, Repr, Inhabited

/-- A CXL port (Table 2.3). -/
structure CxlPort where
  up : Bool := false
  mem : Bool := false
  set : Nat := 0
  capacity : Nat := 0
  deriving DecidableEq, Repr, Inhabited

/-- An error-log entry (Table 2.4). -/
structure LogEntry where
  time : Nat := 0
  unit : Nat := 0
  array : Nat := 0
  row : Nat := 0
  kind : Nat := 0
  deriving DecidableEq, Repr, Inhabited

/-- An interleave set of the second tier (R46): first granule address, its ports and capacity in bytes. -/
structure CxlSet where
  base : Nat
  ports : List Nat
  bytes : Nat
  deriving DecidableEq, Repr

/-- The management plane, with the flash (R20 to R36). -/
structure Mgmt where
  power : Bool := true
  cap : BitVec 16 := 0x2EE0
  capErr : Bool := false
  capNext : BitVec 16 := 0x2EE0
  pool : Nat := 0
  refill : Nat := 0
  /-- P_other of the last period, in W; OTHER_W is half of it -/
  otherW : Nat := 0
  clkStep : Nat := 0
  lastServed : Nat := 79
  authFail : Bool := false
  ready : Bool := false
  step : Nat := 1
  warm : Bool := false
  degraded : Bool := false
  fenced : BitVec 8 := 0
  devNum : BitVec 22 := 0
  devValid : Bool := false
  authKept : Option (BitVec 384 × Bool) := none
  measurement : BitVec 384 := 0
  errCount : Nat := 0
  errlog : Tbl LogEntry := []
  routes : Tbl (BitVec 128) := []
  routeStage : Tbl (BitVec 64) := []
  fabPorts : Tbl FabPort := []
  cxlPorts : Tbl CxlPort := []
  cxlSets : List CxlSet := []
  /-- lines of the second tier for which a device has reported poison, with their port (R48) -/
  cxlBad : Tbl Nat := []
  /-- key generation by slot (64 is the firmware key) (R30) -/
  keyGen : Tbl Nat := []
  uptime : Nat := 0
  /-- rows that a spare stands in for, true where lasting; rows under test; times of transient errors (R34) -/
  spares : List (RowId × Bool) := []
  tests : List RowId := []
  transients : List (RowId × Nat) := []
  /-- I/O-die rows that stay in use with a lasting error (R35) -/
  badRows : List RowId := []
  /-- flash -/
  images : List Byte := []
  retiredUnits : List Nat := []
  flashLog : Tbl LogEntry := []
  interleave : List (List Nat) := []
  deriving DecidableEq, Repr, Inhabited

/-! ## The module -/

/-- What happens next. -/
inductive Turn where
  /-- an event with its input -/
  | event (i : Instr) (inp : Input)
  /-- a fragment of a core issues or goes on waiting -/
  | issue (core entry : Nat)
  /-- a core cycle in which the core issues nothing -/
  | tick (core : Nat)
  /-- the host writes a byte of its own memory -/
  | hostStore (addr : Addr) (v : Byte)
  deriving DecidableEq, Repr

/-- The state of the module. -/
structure State where
  mgmt : Mgmt := {}
  link : Link := {}
  fab : Fabric := {}
  mem : Mem := {}
  /-- the releases that sync objects hold (R213) -/
  rels : List RelRec := []
  dies : Tbl Die := []
  board : Tbl Board := []
  cores : Tbl Core := []
  quartets : Tbl Quartet := []
  ctxs : Tbl Ctx := []
  woad : Woad := {}
  teams : Tbl Team := []
  launches : Tbl Launch := []
  nextTeam : Nat := 0
  nextId : Nat := 0
  /-- the moves chosen from outside, first to come first -/
  agenda : List Turn := []
  /-- the input of the event at hand -/
  inp : Input := {}
  /-- core and fragment entry that issue the instruction at hand -/
  cur : Option (Nat × Nat) := none
  /-- counters that the free values and the choice of moves are applied to: the model's own -/
  free : Nat := 0
  choice : Nat := 0
  /-- the moves that are possible, in the order in which they have become so, and how often another has gone before the first of them
  (R155): the model's own -/
  moves : List Turn := []
  skips : Nat := 0
  deriving DecidableEq, Repr, Inhabited

/-- The module as power is applied, before start step 1 ends: every field at its reset value (Tables 1.3, 1.4, 2.3, 2.4,
2.5, 4.1, 5.2, 6.3, 7.5, 8.2, 8.3; the values the manual does not give are those of log entry 3). -/
def State.reset : State := {}

end Machine
end Sys2Proof
end

