-- ==== Sys2Proof/Machine/Ops.lean ====
section
/-! DEFINITION. The named operations over the state: readers and writers of each unit, memory with its caches and
translation, scopes, records, counters, and taking a trap and returning from one. -/

namespace Sys2Proof
namespace Machine

/-! ## Readers and writers of the units -/

/-- Core n. -/
def State.core (s : State) (n : Nat) : Core := s.cores.getD n {}
/-- Writes core n. -/
def State.setCore (s : State) (n : Nat) (c : Core) : State := { s with cores := s.cores.set n c }
/-- Changes core n. -/
def State.updCore (s : State) (n : Nat) (f : Core → Core) : State := s.setCore n (f (s.core n))
/-- Die d. -/
def State.die (s : State) (d : Nat) : Die := s.dies.getD d {}
/-- Writes die d. -/
def State.setDie (s : State) (d : Nat) (x : Die) : State := { s with dies := s.dies.set d x }
/-- Changes die d. -/
def State.updDie (s : State) (d : Nat) (f : Die → Die) : State := s.setDie d (f (s.die d))
/-- Quartet q. -/
def State.quartet (s : State) (q : Nat) : Quartet := s.quartets.getD q {}
/-- Changes quartet q. -/
def State.updQuartet (s : State) (q : Nat) (f : Quartet → Quartet) : State :=
  { s with quartets := s.quartets.set q (f (s.quartet q)) }
/-- Context c. -/
def State.ctx (s : State) (c : Nat) : Ctx := s.ctxs.getD c {}
/-- Changes context c. -/
def State.updCtx (s : State) (c : Nat) (f : Ctx → Ctx) : State := { s with ctxs := s.ctxs.set c (f (s.ctx c)) }
/-- A context is being torn down: what its engines have begun stops at the next record or pass boundary (R96). -/
def State.tearing (s : State) (c : Nat) : Bool := (s.ctx c).st == .tearing
/-- Team t. A number that no team has stands for the firmware of a core, which acts under key slot 64 (R30, R100) and whose
operations no launch counts. -/
def State.team (s : State) (t : Nat) : Team := s.teams.getD t { st := .ended, launch := 2 ^ 40, ctx := 64 }
/-- A number that no team has: it owns no window. -/
def noTeam : Nat := 2 ^ 40
/-- Changes team t. -/
def State.updTeam (s : State) (t : Nat) (f : Team → Team) : State := { s with teams := s.teams.set t (f (s.team t)) }
/-- Launch l. -/
def State.launch (s : State) (l : Nat) : Launch := s.launches.getD l { complete := true }
/-- Changes launch l. -/
def State.updLaunch (s : State) (l : Nat) (f : Launch → Launch) : State :=
  { s with launches := s.launches.set l (f (s.launch l)) }
/-- Board entry of core n (Table 5.2). -/
def State.boardOf (s : State) (n : Nat) : Board := s.board.getD n {}
/-- Changes the board entry of core n. -/
def State.updBoard (s : State) (n : Nat) (f : Board → Board) : State := { s with board := s.board.set n (f (s.boardOf n)) }
/-- Changes every core. -/
def State.mapCores (s : State) (f : Core → Core) : State := { s with cores := s.cores.map fun (n, c) => (n, f c) }
/-- Changes every die. -/
def State.mapDies (s : State) (f : Die → Die) : State := { s with dies := s.dies.map fun (n, d) => (n, f d) }
/-- Changes every quartet. -/
def State.mapQuartets (s : State) (f : Quartet → Quartet) : State := { s with quartets := s.quartets.map fun (n, q) => (n, f q) }
/-- Changes the management plane. -/
def State.updMgmt (s : State) (f : Mgmt → Mgmt) : State := { s with mgmt := f s.mgmt }
/-- Changes the host link. -/
def State.updLink (s : State) (f : Link → Link) : State := { s with link := f s.link }
/-- Changes Woad. -/
def State.updWoad (s : State) (f : Woad → Woad) : State := { s with woad := f s.woad }
/-- A fresh number for a result, an operation or a job. -/
def State.fresh (s : State) : Nat × State := (s.nextId, { s with nextId := s.nextId + 1 })
/-- Puts turns at the head of the agenda. -/
def State.push (s : State) (ts : List Turn) : State := { s with agenda := ts ++ s.agenda }
/-- Sends a message. -/
def State.send (s : State) (m : Msg) : State := s.updLink fun l => { l with sent := l.sent ++ [m] }

/-- Wave in slot of a core. -/
def Core.wave (c : Core) (slot : Nat) : Wave := c.waves.getD slot {}
/-- Changes a wave. -/
def Core.updWave (c : Core) (slot : Nat) (f : Wave → Wave) : Core := { c with waves := c.waves.set slot (f (c.wave slot)) }
/-- Fragment entry (R125). -/
def Core.frag (c : Core) (e : Nat) : Frag := c.frags.getD e {}
/-- Changes a fragment entry. -/
def Core.updFrag (c : Core) (e : Nat) (f : Frag → Frag) : Core := { c with frags := c.frags.set e (f (c.frag e)) }
/-- Entries that the waves waiting for some still need (R125). -/
def Core.entriesOwed (c : Core) : Nat := (c.entryWaiters.map fun k => (c.wave k).owed.length).sum
/-- Frees a fragment entry; one that frees while a wave waits for entries is reserved for it (R125). -/
def Core.freeFrag (c : Core) (e : Nat) : Core :=
  { c with frags := c.frags.erase e,
           resv := if e ≤ 510 && c.resv.length < c.entriesOwed && !c.resv.contains e then c.resv ++ [e] else c.resv }
/-- Vector pipe p of a core. -/
def Core.pipe (c : Core) (p : Nat) : Pipe := c.pipes.getD p {}

/-- Who issues: the core, fragment entry and wave slot, with the team, launch, context and die (R195). -/
structure Who where
  core : Nat
  entry : Nat
  slot : Nat
  team : Nat
  launch : Nat
  ctx : Nat
  die : Nat
  deriving DecidableEq, Repr, Inhabited

/-- Die of a core (R13). -/
def dieOf (core : Nat) : Nat := core / 40
/-- Quartet of a core (R14). -/
def quartetOf (core : Nat) : Nat := (core / 40) * 10 + ((core % 40) / 10 / 2) * 5 + (core % 10) / 2
/-- The cores of a quartet in ascending order (R14). -/
def quartetCores (q : Nat) : List Nat :=
  let d := q / 10
  let a := (q % 10) / 5
  let b := (q % 10) % 5
  let at_ (i j : Nat) := d * 40 + (2 * a + i) * 10 + 2 * b + j
  [at_ 0 0, at_ 0 1, at_ 1 0, at_ 1 1]

/-- The issuer at a core and entry. -/
def State.whoAt (s : State) (core entry : Nat) : Who :=
  let c := s.core core
  let slot := (c.frag entry).slot
  let t := (c.wave slot).team
  let tm := s.team t
  { core := core, entry := entry, slot := slot, team := t, launch := tm.launch, ctx := tm.ctx, die := dieOf core }


/-- The issuing fragment. -/
def State.frag (s : State) (w : Who) : Frag := (s.core w.core).frag w.entry
/-- The issuing wave. -/
def State.wave (s : State) (w : Who) : Wave := (s.core w.core).wave w.slot
/-- Changes the issuing fragment. -/
def State.updFrag (s : State) (w : Who) (f : Frag → Frag) : State := s.updCore w.core fun c => c.updFrag w.entry f
/-- Changes the issuing wave. -/
def State.updWave (s : State) (w : Who) (f : Wave → Wave) : State := s.updCore w.core fun c => c.updWave w.slot f

/-! ## Registers (R359, R360) -/

/-- Vector register i of lane l. -/
def Wave.vreg (w : Wave) (l i : Nat) : Word := w.v.getD (i * 64 + l) 0
/-- A result for a register is outstanding: a lane result under register × 64 + lane, a uniform one under the register. -/
def Wave.owes (w : Wave) (uniform : Bool) (k : Nat) : Bool :=
  w.pend.any fun p => p.uniform == uniform && (uniform || p.lanes.getLsbD (k % 64)) && (p.vals.get? k).isSome
/-- Writes vector register i of lane l; a write while a result for it is outstanding is noted (R148). -/
def Wave.setV (w : Wave) (l i : Nat) (x : Word) : Wave :=
  { w with v := w.v.put (i * 64 + l) x 0, badV := w.badV.erase (i * 64 + l),
           lateV := if w.owes false (i * 64 + l) then w.lateV.set (i * 64 + l) () else w.lateV }
/-- Vector pair (R320): the even register holds the low half. -/
def Wave.v64 (w : Wave) (l i : Nat) : BitVec 64 := w.vreg l (i + 1) ++ w.vreg l i
/-- Uniform register i. -/
def Wave.greg (w : Wave) (i : Nat) : Word := w.g.getD i 0
/-- Writes uniform register i. -/
def Wave.setG (w : Wave) (i : Nat) (x : Word) : Wave :=
  { w with g := w.g.put i x 0, badG := w.badG.erase i, lateG := if w.owes true i then w.lateG.set i () else w.lateG }
/-- Uniform pair at even i. -/
def Wave.g64 (w : Wave) (i : Nat) : BitVec 64 := w.greg (i + 1) ++ w.greg i
/-- Writes the uniform pair at even i. -/
def Wave.setG64 (w : Wave) (i : Nat) (x : BitVec 64) : Wave :=
  (w.setG i (x.extractLsb' 0 32)).setG (i + 1) (x.extractLsb' 32 32)
/-- Predicate pi of every lane: p0 reads as 1. -/
def Wave.preds (w : Wave) (i : Nat) : Mask := if i == 0 then BitVec.allOnes 64 else w.p.getD i 0
/-- Predicate pi of lane l. -/
def Wave.pred (w : Wave) (l i : Nat) : Bool := (w.preds i).getLsbD l
/-- Writes predicate pi of the lanes of `m`: a write to p0 is ignored. -/
def Wave.setPreds (w : Wave) (i : Nat) (m v : Mask) : Wave :=
  if i == 0 then w else { w with p := w.p.put i ((w.p.getD i 0 &&& ~~~m) ||| (v &&& m)) 0, badP := if m == 0 then w.badP else w.badP.erase i }
/-- Uniform predicate qi: q0 reads as 1. -/
def Wave.qpred (w : Wave) (i : Nat) : Bool := i == 0 || w.q.getLsbD i
/-- Writes uniform predicate qi: a write to q0 is ignored. -/
def Wave.setQ (w : Wave) (i : Nat) (b : Bool) : Wave :=
  if i == 0 then w else
    { w with q := (w.q &&& ~~~ BitVec.ofNat 8 (2 ^ i)) ||| (if b then BitVec.ofNat 8 (2 ^ i) else 0), badQ := false }

/-- The live lanes of a wave: those of its width that have not exited. -/
def Wave.live (w : Wave) : Mask := fullMask w.lanes &&& ~~~ w.exited

/-! ## Records, interrupts and completions (R43, R88, R97) -/

/-- A management event (R43). -/
def State.mgmtEvent (s : State) : State :=
  let s := s.send (.msix 0 0)
  if s.mgmt.ready then s.send (.msix 1 0) else s

/-- Sets a bit of CTX_IRQ, which raises vector 1 + c when it becomes 1 and is enabled (Table 4.1). -/
def State.irq (s : State) (c bit : Nat) : State :=
  let x := s.ctx c
  let s' := s.updCtx c fun x => { x with irq := x.irq ||| BitVec.ofNat 5 (2 ^ bit) }
  if !x.irq.getLsbD bit && x.irqen.getLsbD bit then s'.send (.msix 1 (1 + c)) else s'

/-- Writes an error-log entry (Table 2.4) and its copy in flash, and signals it (R20, R33, R43). -/
def State.logError (s : State) (unit array row kind : Nat) : State :=
  let e : LogEntry := { time := s.mgmt.uptime, unit := unit, array := array, row := row, kind := kind }
  (s.updMgmt fun m =>
    let log := m.errlog.set (m.errCount % 256) e
    { m with errlog := log, flashLog := log, errCount := (m.errCount + 1) % 65536 }).mgmtEvent

/-! ## Memory cells (R7) -/

/-- What an unlisted location reads as: 0. Zero is R169's value for storage that is allocated; for RAM that nothing has
written the manual gives none. DESIGN CHOICE, log entry 2. -/
def Mem.dflt : Byte := 0

/-- The byte of a list of cells at a location. -/
def cellGet : List Host.Cell → Nat → Byte
  | [], _ => Mem.dflt
  | (b, v) :: t, a => if b = a then v else cellGet t a

/-- Lists a byte at its place in the order, in place of one listed there. -/
def cellSet : List Host.Cell → Nat → Byte → List Host.Cell
  | [], a, v => [(a, v)]
  | (b, w) :: t, a, v => if b = a then (a, v) :: t else if a < b then (a, v) :: (b, w) :: t else (b, w) :: cellSet t a v

/-- Removes what is listed at a location. -/
def cellErase : List Host.Cell → Nat → List Host.Cell
  | [], _ => []
  | (b, w) :: t, a => if b = a then cellErase t a else (b, w) :: cellErase t a

/-- Writes a byte, keeping the canonical form: rising locations, no byte equal to the default. -/
def cellPut (m : List Host.Cell) (a : Nat) (v : Byte) : List Host.Cell := if v = Mem.dflt then cellErase m a else cellSet m a v

/-- The canonical form: locations above `lo` strictly rising, no byte equal to the default. -/
def cellsWfFrom : Option Nat → List Host.Cell → Bool
  | _, [] => true
  | lo, (b, v) :: t => (match lo with | none => true | some l => decide (l < b)) && decide (v ≠ Mem.dflt) && cellsWfFrom (some b) t

/-- The canonical form of memory holds. -/
def Mem.wf (m : Mem) : Bool := cellsWfFrom none m.cells

/-- The stored byte at a location. -/
def Mem.get (m : Mem) (a : Nat) : Byte := cellGet m.cells a
/-- Stores a byte and marks it good. -/
def Mem.put (m : Mem) (a : Nat) (v : Byte) : Mem := { m with cells := cellPut m.cells a v, poison := m.poison.erase a }

/-! ## Locations -/

/-- Location of host address a. -/
def hostLoc (a : Nat) : Nat := 2 ^ 64 + a
/-- A location is a device physical address. -/
def isDev (loc : Nat) : Bool := loc < 2 ^ 64
/-- A location is in on-chip storage. -/
def isChip (loc : Nat) : Bool := 2 ^ 80 ≤ loc
/-- Base of a team's storage. -/
def teamLoc (t : Nat) : Nat := 2 ^ 80 + t * 2 ^ 44
/-- Byte `o` of team scratch. -/
def scratchLoc (t o : Nat) : Nat := teamLoc t + o
/-- Byte `o` of the slice of a lane of a wave of the team. -/
def laneLoc (t widx lane o : Nat) : Nat := teamLoc t + 2 ^ 40 + ((widx * 64 + lane) * 1024 + o)
/-- Byte `o` of the cluster-shared partition of a member. -/
def shareLoc (t o : Nat) : Nat := teamLoc t + 2 * 2 ^ 40 + o
/-- Byte `o` of tile n of a team. -/
def tileLoc (t n o : Nat) : Nat := teamLoc t + 3 * 2 ^ 40 + n * 65536 + o
/-- Byte `o` of a segment of a context. -/
def segLoc (c h o : Nat) : Nat := 2 ^ 100 + (c * 1024 + h) * 2 ^ 32 + o
/-- Byte `o` of a payload slot of a die. -/
def payLoc (d slot o : Nat) : Nat := 2 ^ 104 + (d * 4 + slot) * 2 ^ 16 + o

/-- Removes every trace of the locations lo to hi - 1: they read as zero, good and full (R169). -/
def Mem.clear (m : Mem) (lo hi : Nat) : Mem :=
  { m with cells := m.cells.filter fun (a, _) => a < lo || hi ≤ a,
           poison := m.poison.filter fun (a, _) => a < lo || hi ≤ a,
           empties := m.empties.filter fun (a, _) => a * 16 + 15 < lo || hi ≤ a * 16 }

/-- The home die of a device physical address (R18, R47). -/
def homeDie (p : Nat) : Nat := if p < Config.firstTier then p / Config.dieRange else p / 256 % 8

/-- The CXL port that holds a second-tier address (R46). -/
def portOf : List CxlSet → Nat → Option Nat
  | [], _ => none
  | st :: t, p =>
    if st.base ≤ p && p < st.base + st.bytes then st.ports[(p - st.base) / 256 % st.ports.length]? else portOf t p

/-- The CXL port that fails for a device address (R48): it is down, or a device has reported poison for the line. -/
def State.deadPort (s : State) (p : Nat) : Option Nat :=
  if p < Config.secondTier then none else
    match portOf s.mgmt.cxlSets p with
    | none => none
    | some k =>
      if (s.mgmt.cxlPorts.getD k {}).up && (s.mgmt.cxlBad.get? (p / Config.lineBytes)).isNone then none else some k

/-- A device address lies in a die's save reserve (R309). -/
def inReserve (p : Nat) : Bool := p < Config.firstTier && Config.dieRange - Config.reserveBytes ≤ p % Config.dieRange

/-- End of the populated second-tier range (R46). -/
def State.secondEnd (s : State) : Nat :=
  min (s.mgmt.cxlSets.foldl (fun e st => max e (st.base + st.bytes)) Config.secondTier) (Config.secondTierEnd + 1)

/-- The key tag of a slot now: slot 64 is the firmware key (R30). -/
def State.tagOf (s : State) (slot : Nat) : Nat := s.mgmt.keyGen.getD slot 0 * 65 + slot

/-- Reads a byte at its home: the byte under the reader's key, and whether it is poisoned (R31, R36, R48, R68). -/
def State.homeRead (s : State) (tag loc : Nat) : Byte × Bool :=
  if !isDev loc then (s.mem.get loc, (s.mem.poison.get? loc).isSome)
  else if (s.die (homeDie loc)).fenced || (s.deadPort loc).isSome then (0, true)
  else
    match s.mem.tags.get? (loc / 16) with
    | none => (s.mem.get loc, (s.mem.poison.get? loc).isSome)
    | some t => (if t == tag then s.mem.get loc else Config.staleByte loc t tag, (s.mem.poison.get? loc).isSome)

/-- A write performed at a granule's place fires the monitors of a die that are armed there (R418). -/
def State.fire (s : State) (d : Nat) (p : Place) (loc : Nat) : State :=
  if (s.die d).monitors.any fun m => m.place == p && m.granule == loc / 16 && !m.fired then
    s.updDie d fun x => { x with monitors := x.monitors.map fun m =>
      if m.place == p && m.granule == loc / 16 then { m with fired := true } else m }
  else s

/-- A full table takes one more entry: the key of the one that goes, by a free value (R16, R174). -/
def State.victimIn {α : Type} (s : State) (t : Tbl α) (cap : Nat) : Option Nat × State :=
  if t.length < cap then (none, s) else (t.keys[Config.victim s.free % t.length]?, { s with free := s.free + 1 })

/-- A request for line n reaches a die's LLC slice under a key (R31): a line under another key is written back and invalidated, and the
line is filled under the requester's. Writing back moves no byte here, since `Mem` holds what the slice holds. -/
def State.llcUse (s : State) (d tag n : Nat) (wr : Bool) : State :=
  match (s.die d).llc.get? n with
  | some ln =>
    let new : LlcLine := { key := tag, dirty := wr || (ln.key == tag && ln.dirty) }
    if new == ln then s else s.updDie d fun x => { x with llc := x.llc.set n new }
  | none =>
    let (v, s) := s.victimIn (s.die d).llc (Config.llcLines - (s.die d).llcOff)
    s.updDie d fun x => { x with llc := (match v with | some k => x.llc.erase k | none => x.llc).set n { key := tag, dirty := wr } }

/-- A read of a location under a key reaches its home: the LLC slice of device memory (R31), or a failed port, for which a context's first
touch adds its CXLDOWN record to those that wait to be written (R48). -/
def State.touch (s : State) (tag loc : Nat) : State :=
  match s.deadPort loc with
  | none =>
    if isDev loc && !(s.die (homeDie loc)).fenced then s.llcUse (homeDie loc) tag (loc / Config.lineBytes) false else s
  | some k =>
    let c := tag % 65
    if 64 ≤ c || (s.ctx c).cxlSeen.getLsbD k then s
    else s.updCtx c fun x => { x with cxlSeen := x.cxlSeen ||| BitVec.ofNat 20 (2 ^ k), errWait := x.errWait ++ [{ kind := 4, detail := k }] }

/-- A block of device memory comes under a key: what it held under another is, from then on, what that decrypts to under this one
(R28, R30). -/
def Mem.rekey (m : Mem) (tag blk : Nat) : Mem :=
  match m.tags.get? blk with
  | none => { m with tags := m.tags.set blk tag }
  | some t =>
    if t == tag then m
    else { m with cells := (List.range 16).foldl (fun c i => cellPut c (blk * 16 + i) (Config.staleByte (blk * 16 + i) t tag)) m.cells,
                  tags := m.tags.set blk tag }

/-- Writes a byte at its home, dropped where the home is fenced or its port failed. -/
def State.homeWrite (s : State) (tag loc : Nat) (b : Byte) (bad : Bool := false) : State :=
  if isDev loc && ((s.die (homeDie loc)).fenced || (s.deadPort loc).isSome) then s.touch tag loc
  else
    let m := (if isDev loc then s.mem.rekey tag (loc / 16) else s.mem).put loc b
    let s := { s with mem := if bad then { m with poison := m.poison.set loc () } else m }
    if isDev loc then (s.llcUse (homeDie loc) tag (loc / Config.lineBytes) true).fire (homeDie loc) .home loc else s

/-! ## Caches (R31, R172, R174) -/

/-- Byte `i` of a line. -/
def Line.byte (ln : Line) (i : Nat) : Byte := ln.data.getD i 0

/-- A line read at the home. -/
def State.homeLine (s : State) (tag n : Nat) : Line :=
  let bs := (List.range Config.lineBytes).map fun i => s.homeRead tag (n * Config.lineBytes + i)
  { key := tag, data := bs.map Prod.fst, dirty := 0, poison := maskOf fun i => (bs.getD i (0, false)).2 }

/-- Writes the dirty bytes of a line back to the home under the line's own key. -/
def State.writeBackHome (s : State) (n : Nat) (ln : Line) : State :=
  (lanesOf ln.dirty).foldl
    (fun s i => s.homeWrite ln.key (n * Config.lineBytes + i) (ln.byte i) (ln.poison.getLsbD i)) s

/-- Drops an L2 line, writing it back first where it is dirty. -/
def State.dropL2 (s : State) (d n : Nat) : State :=
  match (s.die d).l2.get? n with
  | none => s
  | some ln => (s.writeBackHome n ln).updDie d fun x => { x with l2 := x.l2.erase n }

/-- Room for one more line in a die's L2 (Table 1.1). -/
def State.l2Room (s : State) (d : Nat) : State :=
  match s.victimIn (s.die d).l2 (Config.l2Lines - (s.die d).l2Off) with
  | (some k, s) => s.dropL2 d k
  | (none, s) => s

/-- Fills line n of a die's L2 from the home under a key. -/
def State.l2Fill (s : State) (d tag n : Nat) : Line × State :=
  let s := (s.l2Room d).touch tag (n * Config.lineBytes)
  let f := s.homeLine tag n
  (f, s.updDie d fun x => { x with l2 := x.l2.set n f })

/-- Line n of a die's L2 under a key, filling it where it is absent and clearing away another key's line (R31). -/
def State.l2Line (s : State) (d tag n : Nat) : Line × State :=
  match (s.die d).l2.get? n with
  | some ln => if ln.key == tag then (ln, s) else (s.dropL2 d n).l2Fill d tag n
  | none => s.l2Fill d tag n

/-- Overwrites byte i of a line. -/
def Line.putByte (ln : Line) (i : Nat) (b : Byte) (bad : Bool) : Line :=
  { ln with data := ln.data.set i b, dirty := ln.dirty ||| laneBit i,
            poison := if bad then ln.poison ||| laneBit i else ln.poison &&& ~~~ laneBit i }

/-- Overwrites byte i of a line that is written through: the home has the byte too (R172). -/
def Line.passByte (ln : Line) (i : Nat) (b : Byte) (bad : Bool) : Line :=
  { ln.putByte i b bad with dirty := ln.dirty &&& ~~~ laneBit i }

/-- Writes a byte into a die's L2. -/
def State.l2Write (s : State) (d tag loc : Nat) (b : Byte) (bad : Bool := false) : State :=
  let n := loc / Config.lineBytes
  let (ln, s) := s.l2Line d tag n
  (s.updDie d fun x => { x with l2 := x.l2.set n (ln.putByte (loc % Config.lineBytes) b bad) }).fire d (.l2 d true) loc

/-- Writes the dirty bytes of an L1 line to the die's L2. -/
def State.writeBackL2 (s : State) (d n : Nat) (ln : Line) : State :=
  (lanesOf ln.dirty).foldl
    (fun s i => s.l2Write d ln.key (n * Config.lineBytes + i) (ln.byte i) (ln.poison.getLsbD i)) s

/-- Drops an L1 line, writing it back first where it is dirty: to the home when `far`, else to the L2 (R219). -/
def State.dropL1 (s : State) (c n : Nat) (far : Bool) : State :=
  match (s.core c).l1.get? n with
  | none => s
  | some ln =>
    let s := if ln.dirty == 0 then s else
      if far then
        let s := s.writeBackL2 (dieOf c) n ln
        match (s.die (dieOf c)).l2.get? n with
        | none => s
        | some l2 => (s.writeBackHome n l2).updDie (dieOf c) fun x => { x with l2 := x.l2.set n { l2 with dirty := 0 } }
      else s.writeBackL2 (dieOf c) n ln
    s.updCore c fun x => { x with l1 := x.l1.erase n }

/-- Room for one more line in a core's L1 (Table 1.1). -/
def State.l1Room (s : State) (c : Nat) : State :=
  match s.victimIn (s.core c).l1 (Config.l1Lines - (s.core c).l1Off) with
  | (some k, s) => s.dropL1 c k false
  | (none, s) => s

/-- Fills line n of a core's L1 from the L2 under a key. -/
def State.l1Fill (s : State) (c tag n : Nat) : Line × State :=
  let (ln, s) := (s.l1Room c).l2Line (dieOf c) tag n
  let f := { ln with dirty := 0 }
  (f, s.updCore c fun x => { x with l1 := x.l1.set n f })

/-- Line n of a core's L1 under a key (R31). -/
def State.l1Line (s : State) (c tag n : Nat) : Line × State :=
  match (s.core c).l1.get? n with
  | some ln => if ln.key == tag then (ln, s) else (s.dropL1 c n false).l1Fill c tag n
  | none => s.l1Fill c tag n

/-- Fills line n of a core's instruction cache under a key, in the place of a line it drops where the cache is full. -/
def State.iFill (s : State) (c tag n : Nat) : Line × State :=
  let (v, s) := s.victimIn (s.core c).icache (Config.icacheLines - (s.core c).icacheOff)
  let (f, s) := s.l2Line (dieOf c) tag n
  let f := { f with dirty := 0 }
  (f, s.updCore c fun x => { x with icache := (match v with | some k => x.icache.erase k | none => x.icache).set n f })

/-- Line n of a core's instruction cache. -/
def State.iLine (s : State) (c tag n : Nat) : Line × State :=
  match (s.core c).icache.get? n with
  | some ln => if ln.key == tag then (ln, s) else s.iFill c tag n
  | none => s.iFill c tag n

/-- Reads one byte at a place (Table 7.3). -/
def State.readByte (s : State) (p : Place) (tag loc : Nat) : (Byte × Bool) × State :=
  let n := loc / Config.lineBytes
  let i := loc % Config.lineBytes
  match p with
  | .l1 c => let (ln, s) := s.l1Line c tag n; ((ln.byte i, ln.poison.getLsbD i), s)
  | .l2 d true => let (ln, s) := s.l2Line d tag n; ((ln.byte i, ln.poison.getLsbD i), s)
  | .l2 d false =>
    match (s.die d).l2.get? n with
    | some ln =>
      if ln.key == tag then ((ln.byte i, ln.poison.getLsbD i), s)
      else let s := s.dropL2 d n; (s.homeRead tag loc, s.touch tag loc)
    | none => (s.homeRead tag loc, s.touch tag loc)
  | .home | .scratch => (s.homeRead tag loc, s.touch tag loc)

/-- Two places are one (R172): a die's L2 slice is one place, whether or not it keeps the line. -/
def Place.same : Place → Place → Bool
  | .l2 d _, .l2 e _ => d == e
  | p, q => p == q

/-- A write to a location at a place ends the release sequences that it held there (R213). -/
def State.cutRels (s : State) (p : Place) (loc : Nat) : State :=
  if s.rels.isEmpty then s else { s with rels := s.rels.filter fun r => !(r.loc == loc && r.place.same p) }

/-- Writes one byte at a place. -/
def State.writeByte (s : State) (p : Place) (tag loc : Nat) (b : Byte) (bad : Bool := false) : State :=
  let s := s.cutRels p loc
  let n := loc / Config.lineBytes
  let i := loc % Config.lineBytes
  match p with
  | .l1 c =>
    let (ln, s) := s.l1Line c tag n
    s.updCore c fun x => { x with l1 := x.l1.set n (ln.putByte i b bad) }
  | .l2 d true => s.l2Write d tag loc b bad
  | .l2 d false =>
    let s := match (s.die d).l2.get? n with
      | some ln =>
        if ln.key == tag then (s.updDie d fun x => { x with l2 := x.l2.set n (ln.passByte i b bad) }).fire d (.l2 d true) loc
        else s.dropL2 d n
      | none => s
    s.homeWrite tag loc b bad
  | .home | .scratch => s.homeWrite tag loc b bad

/-- Reads the bytes at a list of locations. -/
def State.readBytes (s : State) (p : Place) (tag : Nat) : List Nat → List (Byte × Bool) × State
  | [] => ([], s)
  | a :: t =>
    let (x, s1) := s.readByte p tag a
    let (xs, s2) := State.readBytes s1 p tag t
    (x :: xs, s2)

/-- Writes bytes at locations. -/
def State.writeBytes (s : State) (p : Place) (tag : Nat) (w : List (Nat × Byte)) : State :=
  w.foldl (fun s (a, b) => s.writeByte p tag a b) s

/-- Bytes as a number, least significant first (R7). -/
def leNat : List Byte → Nat
  | [] => 0
  | b :: t => b.toNat + 256 * leNat t
/-- The low n bytes of a number, least significant first (R7). -/
def natBytes : Nat → Nat → List Byte
  | 0, _ => []
  | n + 1, x => BitVec.ofNat 8 x :: natBytes n (x / 256)

/-- Cleans an L1 line in place: its dirty bytes go to the L2. -/
def State.cleanL1 (s : State) (c n : Nat) : State :=
  match (s.core c).l1.get? n with
  | none => s
  | some ln =>
    if ln.dirty == 0 then s else
      (s.writeBackL2 (dieOf c) n ln).updCore c fun x => { x with l1 := x.l1.set n { ln with dirty := 0 } }

/-- Cleans an L2 line in place: its dirty bytes go to the home. -/
def State.cleanL2 (s : State) (d n : Nat) : State :=
  match (s.die d).l2.get? n with
  | none => s
  | some ln =>
    if ln.dirty == 0 then s else
      (s.writeBackHome n ln).updDie d fun x => { x with l2 := x.l2.set n { ln with dirty := 0 } }

/-- Lines that overlap the locations lo to hi - 1. -/
def lineIn (lo hi n : Nat) : Bool := n * Config.lineBytes < hi && lo < (n + 1) * Config.lineBytes

/-- The lines of a core's L1, and for level 3 or 4 of its die's L2, that meet `p` are written back (R219). -/
def State.cleanCore (s : State) (c level : Nat) (p : Nat → Bool) : State :=
  let s := ((s.core c).l1.keys.filter p).foldl (fun s n => s.cleanL1 c n) s
  if level ≥ 3 then ((s.die (dieOf c)).l2.keys.filter p).foldl (fun s n => s.cleanL2 (dieOf c) n) s else s

/-- Every line of a core's L1, and for level 3 or 4 of its die's L2, that meets `p` is dropped (R219). -/
def State.acquireDrop (s : State) (c level : Nat) (p : Nat → Bool) : State :=
  let s := ((s.core c).l1.keys.filter p).foldl (fun s n => s.dropL1 c n (level ≥ 3)) s
  if level ≥ 3 then ((s.die (dieOf c)).l2.keys.filter p).foldl (fun s n => s.dropL2 (dieOf c) n) s else s

/-! ## Scopes (R205 to R211) -/

/-- The cores of a die as a set. -/
def dieCores (d : Nat) : BitVec 320 := BitVec.ofNat 320 ((2 ^ 40 - 1) * 2 ^ (d * 40))
/-- A captured set contains a party, by its place (R195). -/
def ScopeEntry.holds (e : ScopeEntry) : Party → Bool
  | .core n => e.cores.getLsbD n
  | .die d => e.l2mask.getLsbD d
  | .outside => e.hostfab

/-- The live members of a team's cluster, by team key. -/
def State.members (s : State) (t : Nat) : List Nat :=
  (s.teams.filter fun (_, x) => x.st == .resident && x.cluster == (s.team t).cluster).map Prod.fst

/-- The member cores of a team's cluster: those its role entries of members name, which stay bound when a member exits (R117, R171). -/
def State.memberCores (s : State) (t : Nat) : List Nat :=
  let tm := s.team t
  (tm.roles.filter fun (r, _) => r < tm.desc.crows * tm.desc.ccols).map Prod.snd

/-- Entries 0 to 4, resolved for a wave's party (R206). -/
def State.fixedScope (s : State) (w : Who) (e : Nat) : ScopeEntry :=
  match e with
  | 0 => { cores := BitVec.ofNat 320 (2 ^ w.core), valid := true }
  | 1 =>
    { cores := (s.memberCores w.team).foldl (fun m n => m ||| BitVec.ofNat 320 (2 ^ n)) (BitVec.ofNat 320 (2 ^ w.core)),
      l2mask := BitVec.ofNat 8 (2 ^ w.die), valid := true }
  | 2 => { cores := dieCores w.die, l2mask := BitVec.ofNat 8 (2 ^ w.die), valid := true }
  | 3 => { cores := BitVec.allOnes 320, l2mask := BitVec.allOnes 8, llc := true, valid := true }
  | _ => { cores := BitVec.allOnes 320, l2mask := BitVec.allOnes 8, llc := true, hostfab := true, valid := true }

/-- The set and GEN that an instruction captures from its core's copy (R209). -/
def State.capture (s : State) (w : Who) (e : Nat) : Capture :=
  { index := e, set := if e < 5 then s.fixedScope w e else (s.core w.core).scopes.getD (w.ctx * 256 + e) {} }

/-- Number of bits set. -/
def popNat : Nat → Nat → Nat
  | 0, _ => 0
  | n + 1, x => x % 2 + popNat n (x / 2)

/-- Level of a scope entry (R207); 0: ill-formed. -/
def ScopeEntry.level (e : ScopeEntry) : Nat :=
  let ls := popNat 8 e.l2mask.toNat
  if e.hostfab then (if e.llc then 4 else 0)
  else if e.llc then 3
  else if ls == 1 then
    if e.cores != 0 && ((List.range 8).any fun d => e.l2mask.getLsbD d && (e.cores &&& ~~~ dieCores d) == 0) then 2 else 0
  else if ls == 0 && popNat 320 e.cores.toNat == 1 then 1
  else 0

/-- The level of an engine's accesses: level 1 is taken as 2 (R228, R229). -/
def Capture.engLevel (c : Capture) : Nat := max 2 c.set.level

/-- The policy an access takes under a level: the wider of its own and the level's (R207). -/
def raisePol (pol : BitVec 2) (level : Nat) : BitVec 2 :=
  if level ≥ 3 then 2
  else if level == 2 then (if pol == 0 then 1 else pol)
  else pol

/-- The place of an access (R172): windows at the scratchpad, atomics at .l1 raised to .l2. -/
def placeOf (core loc : Nat) (pol : BitVec 2) (atomic : Bool) : Place :=
  if isChip loc then .scratch
  else match pol.toNat with
    | 0 => if atomic then .l2 (dieOf core) true else .l1 core
    | 1 => .l2 (dieOf core) true
    | 2 => .home
    | _ => .l2 (dieOf core) false

/-- A scope entry contains an access by the place at which it is performed (R173): the scratchpads of core `core` and die `die`, the LLC for
device memory, the host and the fabric for the rest. -/
def ScopeEntry.contains (e : ScopeEntry) (core die loc : Nat) : Place → Bool
  | .l1 n => e.holds (.core n)
  | .l2 d _ => e.holds (.die d)
  | .scratch => e.holds (.core core) || e.holds (.die die)
  | .home => if isDev loc then e.llc else e.hostfab

/-- The place of an engine's access on a die at a captured level (R229). -/
def engPlace (die loc level : Nat) : Place := if isChip loc then .scratch else if level ≥ 3 then .home else .l2 die true

/-! ## Windows (R165 to R167) -/

/-- The top byte of a generic address. -/
def winByte (a : Addr) : Nat := (a.extractLsb' 56 8).toNat
/-- A generic address lies in an on-chip window (R165). -/
def isWindow (a : Addr) : Bool := 0xFB ≤ winByte a && winByte a ≤ 0xFE

/-- Size of the cluster-shared partition of a team in bytes. -/
def Desc.shareBytes (d : Desc) : Nat := d.cshare * 1024

/-- The handles that a team holds. -/
def State.heldBy (s : State) (t : Nat) : List Nat := (s.team t).attach.map fun a => a.handle

/-- The location of an n-byte access of a team at a window address, none where R166 gives ACCESS. `lane` is the wave
index and lane, none for an access that belongs to no lane; `held` are the handles the access may use, those the team holds or, of an
engine, held when it posted (R167). -/
def State.winLoc (s : State) (t : Nat) (lane : Option (Nat × Nat)) (a : Addr) (n : Nat) (held : List Nat := s.heldBy t) : Option Nat :=
  let tm := s.team t
  let off := (a.extractLsb' 0 56).toNat
  match winByte a with
  | 0xFE =>
    let h := (a.extractLsb' 46 10).toNat
    let o := (a.extractLsb' 0 46).toNat
    if held.contains h && o + n ≤ ((s.ctx tm.ctx).segs.getD h {}).size then some (segLoc tm.ctx h o)
    else none
  | 0xFD =>
    match lane with
    | none => none
    | some (w, l) => if off + n ≤ (s.launch tm.launch).lanepriv then some (laneLoc t w l off) else none
  | 0xFC => if off + n ≤ tm.desc.teamscr * 1024 then some (scratchLoc t off) else none
  | 0xFB =>
    let top := (a.extractLsb' 52 4).toNat
    let role := (a.extractLsb' 48 4).toNat
    let o := (a.extractLsb' 0 48).toNat
    if top == 0 && role < tm.desc.crows * tm.desc.ccols && o + n ≤ tm.desc.shareBytes then
      match s.teams.find? (fun (_, x) => x.cluster == tm.cluster && x.role == role && x.storage && x.launch == tm.launch) with
      | some (m, _) => some (shareLoc m o)
      | none => none
    else none
  | _ => none

/-! ## Translation (R57 to R61) -/

/-- An entry translates a virtual address of a PASID. -/
def Xlat.covers (x : Xlat) (pasid : BitVec 20) (va : Nat) : Bool :=
  x.pasid == pasid && x.vpage.toNat / 2 ^ x.size == va / 2 ^ x.size
/-- The translated address. -/
def Xlat.apply (x : Xlat) (va : Nat) : Nat := x.tpage.toNat / 2 ^ x.size * 2 ^ x.size + va % 2 ^ x.size
/-- The entry of a cache that serves an access. -/
def findXlat (tc : List Xlat) (pasid : BitVec 20) (va : Nat) (wr : Bool) : Option Xlat :=
  tc.find? fun x => x.covers pasid va && x.r && (!wr || x.w)
/-- Keeps the first n elements that meet a test, and every other: the kept ones and the ones that go. -/
def keepFirst {α : Type} (p : α → Bool) : Nat → List α → List α × List α
  | _, [] => ([], [])
  | n, x :: t =>
    if p x then
      match n with
      | 0 => let (k, g) := keepFirst p 0 t; (k, x :: g)
      | m + 1 => let (k, g) := keepFirst p m t; (x :: k, g)
    else let (k, g) := keepFirst p n t; (x :: k, g)

/-- The set of a cache that an entry lies in. -/
def Xlat.set (x : Xlat) (sets : Nat) : Nat := Config.xlatSet sets x.pasid.toNat (x.vpage.toNat / 2 ^ x.size)

/-- Puts an entry into a cache of `sets` sets of `ways` entries, most recently used first (Table 3.1); of a set that is full the least
recently used entry goes. The cache, and the entries that go. -/
def tcFill (sets ways : Nat) (tc : List Xlat) (x : Xlat) : List Xlat × List Xlat :=
  let old := tc.filter fun y => y != x
  if old.length < ways then (x :: old, [])
  else let (k, g) := keepFirst (fun y => y.set sets == x.set sets) (ways - 1) old; (x :: k, g)

/-- A hit makes the entry the most recently used one. -/
def tcUse (tc : List Xlat) (pasid : BitVec 20) (va : Nat) (wr : Bool) : List Xlat :=
  match takeFirst (fun (x : Xlat) => x.covers pasid va && x.r && (!wr || x.w)) tc with
  | some (x, t) => x :: t
  | none => tc

/-- What translation makes of an address. -/
inductive Tr where
  | loc (n : Nat)
  | peer (win : BitVec 128)
  | access
  | fault
  | miss
  deriving DecidableEq, Repr

/-- A virtual address is one that may be translated (R57): bits 63:57 all equal bit 56. -/
def canonical (a : Addr) : Bool := (a.extractLsb' 56 8) == 0 || (a.extractLsb' 56 8) == 0xFF

/-- What a translated address names (R58), with R309's reserve. -/
def State.decodeTr (s : State) (t : Nat) : Tr :=
  let b := s.link.bar2.toNat
  if b ≤ t && t < b + Config.bar2Size then
    let p := t - b
    if inReserve p then .access
    else if p < Config.firstTier || (Config.secondTier ≤ p && p < s.secondEnd) then .loc p
    else .access
  else .loc (hostLoc t)

/-- The fabric window of a context that holds an address (R54): the lowest valid one. -/
def winMatch : Tbl (BitVec 128) → Nat → Option (BitVec 128)
  | [], _ => none
  | (_, e) :: t, va =>
    let base := ((e.extractLsb' 91 36).signExtend 43).toNat * 2 ^ 21
    let len := (e.extractLsb' 75 16).toNat * 2 ^ 21
    if e.getLsbD 127 && len != 0 && base ≤ va && va < base + len then some e else winMatch t va

/-- Translates a canonical address of a context through the caches given, then the answers that were not installed (Table 3.2).
A Success with R = 0 and W = 1, for which Table 3.2 has no row, counts as a page fault of reads and writes alike, and an access that U = 1
sends upstream untranslated reaches the host byte at the completion's translated address. DESIGN CHOICE, log entry 19. -/
def State.trPages (s : State) (c : Nat) (tcs : List (List Xlat)) (answers : List (Nat × AtsReply)) (a : Addr) (wr : Bool) : Tr :=
  match tcs.findSome? (fun tc => findXlat tc (s.ctx c).pasid a.toNat wr) with
  | some x => s.decodeTr (x.apply a.toNat)
  | none =>
    match answers.find? (fun (p, _) => p == a.toNat / 4096) with
    | none => .miss
    | some (_, .refused) => .access
    | some (_, .success t r w u size) =>
      if u then .loc (hostLoc (({ vpage := a, size := size, tpage := t } : Xlat).apply a.toNat))
      else if !r && !w || wr && !w then (if (s.ctx c).priFail then .access else .fault)
      else if r then s.decodeTr (({ vpage := a, size := size, tpage := t } : Xlat).apply a.toNat)
      else .fault

/-- What becomes of an address of a context: one in a window goes to a peer, every other canonical one is translated (R54, R57). -/
def State.translate (s : State) (c : Nat) (tcs : List (List Xlat)) (answers : List (Nat × AtsReply)) (a : Addr) (wr : Bool) : Tr :=
  if !canonical a then .access
  else
    match winMatch (s.ctx c).wins a.toNat with
    | some e => .peer e
    | none => s.trPages c tcs answers a wr

/-- What firmware's address names: device memory, which it reaches untranslated and under its own key, and nothing else (R30, R41). -/
def State.trFirmware (s : State) (a : Addr) : Tr :=
  let p := a.toNat
  if p < Config.firstTier || (Config.secondTier ≤ p && p < s.secondEnd) then .loc p else .access

/-- Translation for a fragment: its core's cache, its die's, its own answers (R60); a privileged wave's addresses are not translated. -/
def State.trFrag (s : State) (w : Who) (a : Addr) (wr : Bool) : Tr :=
  if w.ctx == 64 then s.trFirmware a
  else s.translate w.ctx [(s.core w.core).tc, (s.die w.die).tc] (s.frag w).answers a wr

/-- What becomes of one lane's access of n bytes: its byte locations, a peer, ACCESS, or pages to ask for. -/
inductive LaneTr where
  | ok (locs : List Nat)
  | peer (win : BitVec 128)
  /-- a misaligned access over the edge of a fabric window: it is made byte by byte (R202) -/
  | mixed (bytes : List (Addr × Tr))
  | access
  | fault (pages : List Nat)
  | miss (pages : List Nat)
  deriving DecidableEq, Repr

/-- Joins the outcomes of the bytes of one access: ACCESS first, then what still misses, then faults. -/
def joinTr (a : Addr) (n : Nat) (f : Addr → Tr) : LaneTr :=
  let bs := (List.range n).map fun i => (a + BitVec.ofNat 64 i)
  let rs := bs.map fun b => (b.toNat / 4096, f b)
  if rs.any (fun (_, r) => r == .access) then .access
  else
    let ms := ((rs.filter fun (_, r) => r == .miss).map Prod.fst).eraseDups
    if !ms.isEmpty then .miss ms
    else
      let fs := ((rs.filter fun (_, r) => r == .fault).map Prod.fst).eraseDups
      if !fs.isEmpty then .fault fs
      else
        let locs := rs.filterMap fun (_, r) => match r with | .loc l => some l | _ => none
        match rs with
        | (_, .peer e) :: t => if t.all fun (_, r) => r == .peer e then .peer e else .mixed (bs.zip (rs.map Prod.snd))
        | _ => if locs.length == rs.length then .ok locs else .mixed (bs.zip (rs.map Prod.snd))

/-- The outcome of a lane's access: a window (R165) or a virtual address (R57). -/
def State.laneTr (s : State) (w : Who) (lane : Option Nat) (a : Addr) (n : Nat) (wr : Bool) : LaneTr :=
  if isWindow a then
    match s.winLoc w.team (lane.map fun l => ((s.wave w).idx, l)) a n with
    | some b => .ok ((List.range n).map fun i => b + i)
    | none => .access
  else joinTr a n fun b => s.trFrag w b wr

/-- Records that a leaf's access waits for a translation (R60): one request per PASID and page. -/
def addAts (rs : List AtsReq) (pasid : BitVec 20) (page : Nat) (wr : Bool) (waiter : Client) : List AtsReq :=
  if rs.any (fun r => r.pasid == pasid && r.page == page) then
    rs.map fun r =>
      if r.pasid == pasid && r.page == page then
        { r with write := r.write || (wr && !r.sent),
                 waiters := if r.waiters.contains (waiter, wr) then r.waiters else r.waiters ++ [(waiter, wr)] }
      else r
  else rs ++ [{ pasid := pasid, page := page, write := wr, waiters := [(waiter, wr)] }]

/-- A fragment's misses: its die asks (R60). -/
def State.askPages (s : State) (w : Who) (pages : List Nat) (wr : Bool) : State :=
  s.updDie w.die fun d =>
    { d with ats := pages.foldl (fun rs p => addAts rs (s.ctx w.ctx).pasid p wr (.frag w.core w.entry)) d.ats }

/-- An engine's or slow path's misses on a die. -/
def State.askDie (s : State) (x : Client) (d c : Nat) (pages : List Nat) (wr : Bool) : State :=
  s.updDie d fun y => { y with ats := pages.foldl (fun rs p => addAts rs (s.ctx c).pasid p wr x) y.ats }

/-- An access of a die uses an entry of its cache, which becomes the most recently used one (R59). -/
def State.hitDie (s : State) (d c : Nat) (a : Addr) (wr : Bool) : State :=
  s.updDie d fun x => { x with tc := tcUse x.tc (s.ctx c).pasid a.toNat wr }

/-- The accesses of a fragment that issue use the entries of the core's cache, which are filled from the die's (R59). -/
def State.fillCore (s : State) (w : Who) (as : List Addr) (wr : Bool) : State :=
  as.foldl (fun s a =>
    match findXlat (s.core w.core).tc (s.ctx w.ctx).pasid a.toNat wr with
    | some _ => s.updCore w.core fun c => { c with tc := tcUse c.tc (s.ctx w.ctx).pasid a.toNat wr }
    | none =>
      match findXlat (s.die w.die).tc (s.ctx w.ctx).pasid a.toNat wr with
      | some x => (s.hitDie w.die w.ctx a wr).updCore w.core fun c => { c with tc := (tcFill 64 (8 - c.tcOff) c.tc x).1 }
      | none => s) s

/-- An untranslated answer that serves an access of a die joins the translations whose lines may be cached. -/
def State.noteAnswer (s : State) (d : Nat) (a : Answer) : State :=
  match a.reply with
  | .success t r w true size =>
    s.updDie d fun x => { x with past := { pasid := a.pasid, vpage := BitVec.ofNat 64 (a.page * 4096), size := size, tpage := t, r := r, w := w, u := true } :: x.past }
  | _ => s

/-! ## Page requests (R62) -/

/-- The lowest group index of a PASID that is free. -/
def freeIndex (gs : List Group) (pasid : BitVec 20) : Option Nat :=
  (List.range 512).find? fun i => !(gs.any fun g => g.pasid == pasid && g.index == some i)

/-- The requests of a group, in ascending page address, the last marked. -/
def groupRequests (g : Group) (i : Nat) : List PageReq :=
  let ps := sortNat g.pages
  ps.mapIdx fun k p => { pasid := g.pasid, index := i, page := p, write := g.write, last := k + 1 == ps.length }

/-- Requests enter the device queue of 4,096, or wait behind it in their order (R62). -/
def Link.enqueue (l : Link) (rs : List PageReq) : Link :=
  if l.prqWait.isEmpty then
    let n := 4096 - l.prq.length
    { l with prq := l.prq ++ rs.take n, prqWait := rs.drop n }
  else { l with prqWait := l.prqWait ++ rs }

/-- An access parks with its pages: it takes an index and sends its requests, or waits for an index. -/
def State.parkGroup (s : State) (client : Client) (c : Nat) (pages : List Nat) (wr : Bool) (launch : Nat := 0) : State :=
  let pasid := (s.ctx c).pasid
  let g : Group := { pasid := pasid, index := freeIndex s.link.groups pasid, client := client, pages := pages, write := wr, launch := launch }
  s.updLink fun l =>
    let l := { l with groups := l.groups ++ [g] }
    match g.index with
    | none => l
    | some i => l.enqueue (groupRequests g i)

/-- The queued requests of a PASID are discarded; a group keeps its index for the requests that have left, until they are answered
(R62, R64, R71). -/
def Link.discard (l : Link) (pasid : BitVec 20) : Link :=
  let queued (g : Group) (p : Nat) : Bool := (l.prq ++ l.prqWait).any fun r => r.pasid == g.pasid && some r.index == g.index && r.page == p
  let cut (g : Group) : Option Group :=
    if g.pasid != pasid then some g
    else
      let out := g.pages.filter fun p => !queued g p
      if g.index.isNone || out.isEmpty then none else some { g with client := .gone, pages := out }
  { l with groups := l.groups.filterMap cut, prq := l.prq.filter (fun r => r.pasid != pasid), prqWait := l.prqWait.filter fun r => r.pasid != pasid }

/-! ## Woad's writes and error records (R88, R97 to R99) -/

/-- An answer is for an access of a client to a page. -/
def Answer.isFor (y : Answer) (x : Client) (pasid : BitVec 20) (page : Nat) : Bool := y.client == x && y.pasid == pasid && y.page == page
/-- The answers of a list for a client's accesses: pages and replies. -/
def answersOf (l : List Answer) (x : Client) (pasid : BitVec 20) : List (Nat × AtsReply) :=
  (l.filter fun y => y.client == x && y.pasid == pasid).map fun y => (y.page, y.reply)

/-- What becomes of an access of Woad. -/
inductive WoadOut where
  | done (s : State)
  | dropped (s : State)
  /-- for a translation, or parked for a page response -/
  | waits (s : State) (parked : Bool)
  /-- it goes to a peer -/
  | peer (s : State) (win : BitVec 128)

/-- Woad's translation of an address of a context (Table 3.1). -/
def State.trWoad (s : State) (x : Client) (c : Nat) (a : Addr) (wr : Bool) : Tr :=
  if isWindow a then .access
  else s.translate c [s.link.tc] (answersOf s.link.answers x (s.ctx c).pasid) a wr

/-- An access of the I/O die uses what translates it: the cache's entry becomes the most recently used one, and the answers given to its
client for the page are gone. -/
def State.useAnswer (s : State) (x : Client) (c : Nat) (a : Addr) (wr : Bool) : State :=
  s.updLink fun l => { l with tc := tcUse l.tc (s.ctx c).pasid a.toNat wr, answers := l.answers.filter fun y => !y.isFor x (s.ctx c).pasid (a.toNat / 4096) }

/-- A miss of the I/O die asks for a translation (R60). -/
def State.askLink (s : State) (x : Client) (c : Nat) (a : Addr) (wr : Bool) : State :=
  s.updLink fun l => { l with ats := addAts l.ats (s.ctx c).pasid (a.toNat / 4096) wr x }

/-- A location holds a release's write at a place (R213). -/
def State.noteRelease (s : State) (r : RelRec) : State := { s with rels := s.rels ++ [r] }

/-- What is known of a release at the system scope by a party outside the dies, Woad, the host or a peer: no binding limits it. -/
def outsideRel (loc : Nat) : RelRec :=
  { loc := loc, place := .home, party := .outside,
    set := { cores := BitVec.allOnes 320, l2mask := BitVec.allOnes 8, llc := true, hostfab := true, valid := true } }

/-- A write of Woad with a release at the system scope: at the home or the host. A page fault of the 16th round counts as
ACCESS (R64). -/
def State.woadStore (s : State) (client : Client) (rounds c : Nat) (a : Addr) (bs : List Byte) : WoadOut :=
  let used := s.useAnswer client c a true
  match s.trWoad client c a true with
  | .loc l => .done ((used.writeBytes .home (s.tagOf c) (bs.mapIdx fun i b => (l + i, b))).noteRelease (outsideRel l))
  | .miss => .waits (s.askLink client c a true) false
  | .fault => if rounds ≥ 16 then .dropped used else .waits (used.parkGroup client c [a.toNat / 4096] true) true
  | .peer e => .peer s e
  | .access => .dropped used

/-- A write of Woad to a peer joins those that go out next. -/
def State.queuePeer (s : State) (w : WoadWrite) (win : BitVec 128) : State :=
  s.updWoad fun x => { x with writes := x.writes ++ [{ w with peer := some win }] }

/-- The 32 bytes of an error record (Table 4.4). -/
def ErrRec.bytes (r : ErrRec) (seq : Word) : List Byte :=
  natBytes 2 r.kind ++ natBytes 2 r.unit ++ natBytes 4 r.ref.toNat ++ natBytes 8 r.launchid.toNat ++
    natBytes 8 r.addr.toNat ++ natBytes 4 r.detail ++ natBytes 4 seq.toNat

/-- ERR_COUNT advances and ERREC is set (R97). -/
def State.errAdvance (s : State) (c : Nat) (lost : Bool) : State :=
  (s.updCtx c fun x => { x with errCount := x.errCount + 1, errlost := x.errlost || lost, errWait := x.errWait.drop 1,
                                errParked := false, errRounds := 0 }).irq c 3

/-- Writes the error records that wait, in order, until one must wait for its translation. -/
def State.flushErr (s : State) (c : Nat) : Nat → State
  | 0 => s
  | n + 1 =>
    let x := s.ctx c
    match x.errWait with
    | [] => s
    | r :: _ =>
      if x.errbase == 0 then State.flushErr (s.errAdvance c true) c n
      else
        let a : Addr := BitVec.ofNat 64 (x.errbase.toNat * 4096 + x.errCount.toNat % 128 * 32)
        if x.errParked then s
        else match s.woadStore (.err c) x.errRounds c a (r.bytes x.errCount) with
        | .done s => State.flushErr (s.errAdvance c false) c n
        | .dropped s => State.flushErr (s.errAdvance c true) c n
        | .peer s win => State.flushErr ((s.queuePeer { ctx := c, addr := a, data := r.bytes x.errCount } win).errAdvance c false) c n
        | .waits s parked => s.updCtx c fun x => { x with errParked := parked }

/-- Woad takes an error record for a context (R97); it is written at once unless it or one before it must wait. -/
def State.errRec (s : State) (c : Nat) (r : ErrRec) : State :=
  let s := s.updCtx c fun x => { x with errWait := x.errWait ++ [r] }
  s.flushErr c (s.ctx c).errWait.length

/-- The error records that wait and are not parked are written. -/
def State.settleErr (s : State) : State :=
  s.ctxs.foldl (fun s (c, x) => if x.errWait.isEmpty || x.errParked then s else s.flushErr c x.errWait.length) s

/-- The record of a launch: its reference and LAUNCHID. -/
def State.launchRec (s : State) (l kind : Nat) (unit : Nat := 0) (addr : Addr := 0) (detail : Nat := 0) : State :=
  let x := s.launch l
  s.errRec x.ctx { kind := kind, unit := unit, ref := x.ref, launchid := x.launchid, addr := addr, detail := detail }

/-- A completion-record write: done or dropped at once, or it waits (R88). -/
def State.woadWrite (s : State) (w : WoadWrite) : State :=
  let (id, s) := s.fresh
  match s.woadStore (.write id) 0 w.ctx w.addr w.data with
  | .done s | .dropped s => s
  | .peer s win => s.queuePeer { w with id := id } win
  | .waits s parked => s.updWoad fun x => { x with writes := x.writes ++ [{ w with id := id, parked := parked }] }

/-- Tries a completion-record write that waits again. -/
def State.retryWrite (s : State) (w : WoadWrite) : State :=
  match s.woadStore (.write w.id) w.rounds w.ctx w.addr w.data with
  | .done s | .dropped s => s.updWoad fun x => { x with writes := x.writes.filter fun y => y.id != w.id }
  | .peer s win => (s.updWoad fun x => { x with writes := x.writes.filter fun y => y.id != w.id }).queuePeer w win
  | .waits s parked =>
    s.updWoad fun x => { x with writes := x.writes.map fun y => if y.id == w.id then { y with parked := parked } else y }

/-- Tries every record of Woad that waits for no page response again: completion records and error records. A SIGNAL store
has its own event. -/
def State.retryWoad (s : State) : State :=
  let s := (s.woad.writes.filter fun w => !w.parked && w.signal.isNone && w.peer.isNone).foldl (fun s w => s.retryWrite w) s
  s.settleErr

/-! ## A team's storage (R103, R170) -/

/-- KiB of core scratchpad a team takes (R103). -/
def State.scrDemand (s : State) (tm : Team) : Nat :=
  ceilDiv (tm.desc.waves * 4 * 2 ^ tm.desc.width * (s.launch tm.launch).lanepriv) 1024 + tm.desc.teamscr + tm.desc.cshare

/-- A team's storage leaves its core: its scratchpad is on the board again, and its contents are gone. -/
def State.clearStorage (s : State) (t : Nat) : State :=
  let tm := s.team t
  let s := s.updTeam t fun x => { x with storage := false }
  let s := s.updBoard tm.core fun b => { b with scr := b.scr + s.scrDemand tm }
  { s with mem := s.mem.clear (teamLoc t) (tileLoc t 0 0) }

/-- A team's storage is freed once it has ended and no posted job or operation holds its addresses (R170). -/
def State.freeStorage (s : State) (t : Nat) : State :=
  let tm := s.team t
  if tm.st == .ended && tm.owed == 0 && tm.storage then s.clearStorage t else s

/-- A job or operation with addresses in a team's storage has ended (R170). -/
def State.unowe (s : State) (t : Nat) : State := (s.updTeam t fun x => { x with owed := x.owed - 1 }).freeStorage t

/-! ## Completion of packets and launches (R86 to R92, R241) -/

/-- The number of a status (R88). -/
def Status.code : Status → Nat
  | .ok => 0 | .badpkt => 1 | .badafter => 2 | .fault => 3 | .killed => 4 | .aborted => 5 | .segfail => 6

/-- A packet's reference (R76). -/
def Packet.ref (p : Packet) : Word := BitVec.ofNat 32 (p.src * 2 ^ 30 + p.num % 2 ^ 30)
/-- Field of n bytes at byte o of a packet. -/
def Packet.field (p : Packet) (o n : Nat) : Nat := leNat ((p.bytes.drop o).take n)
/-- DONEADDR, for the kinds that have one (Table 4.3). -/
def Packet.doneaddr (p : Packet) : Nat :=
  match p.kind with
  | .launch | .barrier | .signal | .segment => p.field 16 8
  | .scope | .teardown => 0

/-- A fall-back context without incomplete dispatched work is busy no longer. IDLE is set at the moment a packet's completion leaves it with
nothing queued and nothing incomplete: not when it is enabled empty, and not again after the host clears the bit. R89 does not fix that
moment. DESIGN CHOICE, log entry 23. -/
def State.idleCheck (s : State) (c : Nat) : State :=
  if (s.ctx c).fb then
    let s := if s.woad.packets.any fun p => p.ctx == c && p.dispatched then s else s.updCtx c fun x => { x with busySince := none }
    if s.woad.packets.any fun p => p.ctx == c then s else s.irq c 0
  else s

/-- The completed task job of a released packet (R241, R237): its entry becomes IDLE, DECTASK is lowered, and the
counter of its launch falls by 1. -/
def State.taskJobDone (s : State) (c t : Nat) (st : Status) : State :=
  let k := (s.ctx c).tasks.getD t {}
  let j? := (s.die k.die).jobs.find? fun j => j.id == k.job
  let s := s.updCtx c fun x => { x with tasks := x.tasks.set t { k with st := .idle, status := st.code, stamp := none, packet := [] } }
  match j? with
  | none => s
  | some j =>
    let s := match j.dectask with
      | none => s
      | some d => s.updCtx c fun x => { x with tasks := x.tasks.upd d {} fun k => { k with count := k.count - 1 } }
    let s := s.updDie k.die fun d => { d with jobs := d.jobs.filter fun i => i.id != j.id }
    (s.unowe j.team).updLaunch j.launch fun l => { l with counter := l.counter - 1 }

/-- A packet completes with a status: its number leaves the incomplete ones, its record is written, and the task job
that released it completes. The launches whose counter that takes to zero are completed by the caller (`settleLaunches`). -/
def State.endPacket (s : State) (p : Packet) (st : Status) : State :=
  let s := s.updWoad fun w => { w with packets := w.packets.filter fun q => q.stamp != p.stamp }
  let s := s.updCtx p.ctx fun x =>
    { x with sources := x.sources.upd p.src {} fun r => { r with open_ := r.open_.filter fun n => n != p.num } }
  let da := p.doneaddr
  let s := if da == 0 || da % 16 != 0 then s else
    let lid := if p.kind == .launch then p.field 40 8 else 0
    s.woadWrite { ctx := p.ctx, addr := BitVec.ofNat 64 da,
                  data := natBytes 4 st.code ++ natBytes 4 p.ref.toNat ++ natBytes 8 lid }
  let s := if p.src == 2 then
      match (s.ctx p.ctx).tasks.find? (fun (_, k) => k.stamp == some p.stamp) with
      | some (t, _) => s.taskJobDone p.ctx t st
      | none => s
    else s
  s.idleCheck p.ctx

/-- Every dirty line of every core and die is written back: the release at the system scope of a completion (R86). -/
def State.releaseAll (s : State) : State :=
  let s := s.cores.keys.foldl (fun s n => s.cleanCore n 2 fun _ => true) s
  s.dies.foldl (fun s (d, x) => x.l2.keys.foldl (fun s n => s.cleanL2 d n) s) s


/-- The first cause of a launch's status that Woad learns of stands (R92); ABORTED overrides. -/
def State.blame (s : State) (l : Nat) (st : Status) : State :=
  s.updLaunch l fun x => { x with status := if x.status == .ok || st == .aborted then st else x.status }

/-- An unresolved pre-emption request of a launch is resolved: one PREEMPT record (R94, R95). -/
def State.resolvePreempt (s : State) (l : Nat) : State :=
  if (s.launch l).request then
    let n := (s.launch l).savedTeams
    let s := s.updLaunch l fun x => { x with request := false, savedTeams := 0, forSeed := none }
    let c := (s.launch l).ctx
    let s := s.updCtx c fun x => { x with pending := s.launches.any fun (_, y) => y.ctx == c && y.request }
    s.launchRec l 10 (detail := n)
  else s

/-- A launch whose counter is zero completes with its status (R91, R92). -/
def State.completeLaunch (s : State) (l : Nat) : State :=
  let x := s.launch l
  let s := s.releaseAll.updLaunch l fun x => { x with complete := true }
  let s := if x.request then
      let s := s.updLaunch l fun x => { x with savedTeams := 0 }
      s.resolvePreempt l
    else s
  let s := s.updCtx x.ctx fun y => { y with draws := y.draws.filter fun (k, _, _) => k != l }
  let s := match s.woad.packets.find? (fun p => p.stamp == x.stamp) with
    | some p => s.endPacket p x.status
    | none => s
  if x.status == .fault || x.status == .killed then s.irq x.ctx 1 else s

/-- Completes the launches whose counter has reached zero; a completion may end the task job of another launch. -/
def State.settleLaunches (s : State) : Nat → State
  | 0 => s
  | n + 1 =>
    match s.launches.find? (fun (_, x) => x.counter == 0 && !x.complete) with
    | none => s
    | some (l, _) => State.settleLaunches (s.completeLaunch l) n

/-- A packet completes with a status, and so does every launch whose counter that takes to zero (R91, R241). -/
def State.completePacket (s : State) (p : Packet) (st : Status) : State :=
  let s := s.endPacket p st
  s.settleLaunches s.launches.length

/-- Completes the packet with a stamp. -/
def State.completeStamp (s : State) (stamp : Nat) (st : Status) : State :=
  match s.woad.packets.find? (fun p => p.stamp == stamp) with
  | some p => s.completePacket p st
  | none => s

/-- Raises a launch's spawn-tree counter (R91). -/
def State.addCount (s : State) (l n : Nat) : State := s.updLaunch l fun x => { x with counter := x.counter + n }
/-- Lowers a launch's spawn-tree counter and completes what then is at zero. -/
def State.subCount (s : State) (l n : Nat) : State :=
  let s := s.updLaunch l fun x => { x with counter := x.counter - n }
  s.settleLaunches s.launches.length

/-! ## The fabric (R53 to R56) -/

/-- The route to a device: the enabled paths of the lowest matching entry, in order (R53). -/
def routePaths : Tbl (BitVec 128) → BitVec 22 → Option (List Nat)
  | [], _ => none
  | (_, e) :: t, dest =>
    let m := e.extractLsb' 105 22
    if e.getLsbD 127 && (dest &&& m) == (e.extractLsb' 83 22 &&& m) then
      some (((List.range 4).filter fun k => e.getLsbD (6 * k + 5)).map fun k => (e.extractLsb' (6 * k) 5).toNat)
    else routePaths t dest

/-- Port p carries flits: it is UP and the device number is assigned (Table 2.3). -/
def State.portUp (s : State) (p : Nat) : Bool := (s.mgmt.fabPorts.getD p {}).up && s.mgmt.devValid

/-- The source stream to a peer under a PASID. -/
def Fabric.srcStream (f : Fabric) (id : StreamId) : SrcStream := (f.src.find? fun x => x.id == id).getD { id := id }
/-- Writes a source stream. -/
def Fabric.setSrc (f : Fabric) (x : SrcStream) : Fabric :=
  if f.src.any (fun y => y.id == x.id) then { f with src := f.src.map fun y => if y.id == x.id then x else y }
  else { f with src := f.src ++ [x] }

/-- The PEER and PPASID of a window entry (Table 2.5). -/
def winPeer (e : BitVec 128) : BitVec 22 := e.extractLsb' 53 22
/-- The PASID of the peer context. -/
def winPpasid (e : BitVec 128) : BitVec 20 := e.extractLsb' 33 20

/-- Answers a load or atomic of the fabric. -/
def State.fabReply (s : State) (c : Client) (key : Nat) (refused poisoned : Bool) (data : List Byte) : State :=
  { s with fab := { s.fab with replies := s.fab.replies.map fun r =>
      if r.client == c && r.key == key then { r with got := true, refused := refused, poisoned := poisoned, data := data } else r } }

/-- A FABRICDOWN record (Table 4.5). -/
def State.fabricDown (s : State) (c : Nat) : State := s.errRec c { kind := 3 }

/-- An operation leaves on a port as a flit with the port's next link sequence number (R49). -/
def State.sendFlit (s : State) (p : Nat) (op : FabOp) : State :=
  let x := s.mgmt.fabPorts.getD p {}
  (s.updMgmt fun m => { m with fabPorts := m.fabPorts.set p { x with linkSeq := x.linkSeq + 1 } }).send
    (.flit p x.linkSeq (op.header op.stream.peer s.mgmt.devNum) op)

/-- The operations of a stream that may go out do: those not sent, not refused for now, and, of the releases, one that is first
(R53 to R56). Each takes the first enabled path of the route whose port is UP. -/
def State.pump (s : State) (id : StreamId) : State :=
  match (routePaths s.mgmt.routes id.peer).bind fun ps => ps.find? fun p => s.portUp p with
  | none => s
  | some p =>
    let st := s.fab.srcStream id
    let goes (o : SentOp) (i : Nat) : Bool := !o.sent && !o.refused && (!o.op.release || i == 0)
    let out := (st.ops.zipIdx.filter fun (o, i) => goes o i).map fun (o, _) => o.op
    let ops := st.ops.zipIdx.map fun (o, i) => if goes o i then { o with sent := true, port := p } else o
    out.foldl (fun s op => s.sendFlit p op) { s with fab := s.fab.setSrc { st with ops := ops } }

/-- Sends an operation of a context to a window's peer: it takes the stream's next number and goes out as `pump` allows; an
unreachable destination fails as a broken stream does (R53 to R56). -/
def State.fabSend (s : State) (c : Nat) (win : BitVec 128) (kind : FabKind) (addr : Addr) (len : Nat) (data : List Byte)
    (release : Bool) (waiter : Option (Client × Nat)) (launch : Option Nat) : State :=
  let id : StreamId := { peer := winPeer win, pasid := (s.ctx c).pasid }
  match routePaths s.mgmt.routes id.peer with
  | none =>
    let s := match waiter with
      | some (cl, k) => s.fabReply cl k false true []
      | none => s
    let s := match launch with | some l => s.subCount l 1 | none => s
    s.fabricDown c
  | some _ =>
    let st := s.fab.srcStream id
    let st := if st.fresh && st.ops.isEmpty then { st with epoch := st.epoch + 1, next := 0, fresh := false } else st
    let op : FabOp := { stream := id, ppasid := winPpasid win, epoch := st.epoch, num := st.next, kind := kind,
                        release := release, addr := addr, len := len, data := data }
    let so : SentOp := { op := op, port := 0, sent := false, waiter := waiter, launch := launch, ctx := c }
    { s with fab := s.fab.setSrc { st with next := st.next + 1, ops := st.ops ++ [so] } }.pump id

/-- A list in pieces of at most n; `k` bounds their number. -/
def chunksOf {α : Type} (n : Nat) : Nat → List α → List (List α)
  | 0, _ | _, [] => []
  | k + 1, l => l.take n :: chunksOf n k (l.drop n)

/-- The pieces of n bytes from a that each fill a flit's payload (R49). -/
def chunks (a : Addr) (n : Nat) : List (Addr × Nat) :=
  (List.range (ceilDiv n Config.flitPayload)).map fun i => (a + BitVec.ofNat 64 (i * Config.flitPayload), min Config.flitPayload (n - i * Config.flitPayload))

/-- Bytes go to a window's peer as stores of one flit each, each owed to a launch where there is one (R49, R91); of a release, the last
is one. -/
def State.fabStore (s : State) (c : Nat) (win : BitVec 128) (a : Addr) (bs : List Byte) (release : Bool) (launch : Option Nat) : State :=
  let ps := chunks a bs.length
  let s := match launch with
    | some l => s.addCount l ps.length
    | none => s
  ps.zipIdx.foldl (fun s ((b, n), i) =>
    s.fabSend c win .store b n ((bs.drop (i * Config.flitPayload)).take n) (release && i + 1 == ps.length) none launch) s

/-- What Woad writes to peers goes out, as a release each (R54, R56). -/
def State.settlePeers (s : State) : State :=
  let ws := s.woad.writes.filter fun w => w.signal.isNone && w.peer.isSome
  if ws.isEmpty then s
  else
    let s := s.updWoad fun x => { x with writes := x.writes.filter fun w => w.signal.isSome || w.peer.isNone }
    ws.foldl (fun s w => s.fabStore w.ctx (w.peer.getD 0) w.addr w.data true none) s

/-- A context has fabric operations that are not acknowledged. -/
def State.fabBusy (s : State) (c : Nat) : Bool := s.fab.src.any fun x => x.id.pasid == (s.ctx c).pasid && !x.ops.isEmpty

/-- A load or atomic of a client at a peer: the reply if it has come, none while it has not; the first call sends it. -/
def State.fabAccess (s : State) (cl : Client) (key c : Nat) (win : BitVec 128) (kind : FabKind) (addr : Addr) (len : Nat)
    (data : List Byte) (release : Bool) : Option FabReply × State :=
  match s.fab.replies.find? (fun r => r.client == cl && r.key == key) with
  | some r => (if r.got then some r else none, s)
  | none =>
    let s := { s with fab := { s.fab with replies := s.fab.replies ++ [({ client := cl, key := key } : FabReply)] } }
    let s := s.fabSend c win kind addr len data release (some (cl, key)) none
    ((s.fab.replies.find? fun r => r.client == cl && r.key == key).bind fun r => if r.got then some r else none, s)

/-- Forgets a client's replies, once its access has used them. -/
def State.fabForget (s : State) (cl : Client) : State :=
  { s with fab := { s.fab with replies := s.fab.replies.filter fun r => r.client != cl } }

/-! ## Storage and segments (R168 to R171, R179 to R188) -/

/-- A directory operation: the module's counter rises by one (R179). -/
def State.dirOp (s : State) : State := s.updWoad fun w => { w with dirOps := w.dirOps + 1 }

/-- Storage a segment takes on each core or bank that holds it (R184): KiB per core for levels 0 and 1, bytes per bank
for level 2. -/
def Seg.share (g : Seg) : Nat :=
  match g.level with
  | 0 => ceilDiv g.size 1024
  | 1 => ceilDiv (ceilDiv g.size (256 * (g.hrows * g.hcols)) * 256) 1024
  | _ => ceilDiv g.size 4096 * 256

/-- The cores that hold a resident segment of level 0 or 1. -/
def Seg.homeCores (g : Seg) : List Nat :=
  if g.level == 0 then [g.home]
  else (List.range g.hrows).flatMap fun i => (List.range g.hcols).map fun j => g.home + i * 10 + j

/-- Takes or frees the storage of a resident segment on the board or in the die scratchpad. -/
def State.chargeSeg (s : State) (g : Seg) (take : Bool) : State :=
  if g.level == 2 then
    s.updDie (g.home % 0x8000) fun d => { d with bankUsed := if take then d.bankUsed + g.share else d.bankUsed - g.share }
  else g.homeCores.foldl (fun s n => s.updBoard n fun b => { b with scr := if take then b.scr - g.share else b.scr + g.share }) s

/-- A segment's storage is freed and its contents are gone. -/
def State.freeSeg (s : State) (c h : Nat) (g : Seg) : State :=
  let s := if g.st == .resident then s.chargeSeg g false else s
  { s with mem := s.mem.clear (segLoc c h 0) (segLoc c h (2 ^ 32)) }

/-- A DYING segment without attachments and not BUSY is released; its destroy packet completes (R181). R181 names the fields that a later
create sets; that SYNCSEQ, DETSTAMP and HOME are 0 from the release on is the model's choice. DESIGN CHOICE, log entry 24. -/
def State.releaseSeg (s : State) (c h : Nat) : State :=
  match (s.ctx c).segs.get? h with
  | none => s
  | some g =>
    if g.dying && g.attach == 0 && !g.busy then
      let s := s.freeSeg c h g
      let s := s.updCtx c fun x => { x with segs := x.segs.erase h }
      match g.destroyer with
      | some st => s.completeStamp st .ok
      | none => s
    else s

/-- Withdraws one team's attachment of a handle (R187): ATTACH, SYNCSEQ and DETSTAMP move, and a DYING segment may go. The operation of the
directory is counted by the caller. -/
def State.detach (s : State) (t h : Nat) : State :=
  let c := (s.team t).ctx
  let s := s.updTeam t fun tm => { tm with attach := tm.attach.filter fun a => a.handle != h }
  let s := s.updCtx c fun x =>
    { x with segs := x.segs.upd h {} fun g => { g with attach := g.attach - 1, syncseq := g.syncseq + 1, detstamp := s.woad.dirOps } }
  s.releaseSeg c h

/-- Adds n at position i of a list of counts. -/
def bump (l : List Nat) (i n : Nat) : List Nat := l.mapIdx fun k x => if k == i then x + n else x
/-- Takes n away at position i. -/
def unbump (l : List Nat) (i n : Nat) : List Nat := l.mapIdx fun k x => if k == i then x - n else x

/-- The agent adds a team's demand back to the board, but for scratchpad, which follows its storage (R106, R170). -/
def State.returnDemand (s : State) (t : Nat) : State :=
  let tm := s.team t
  let q := 2 ^ tm.desc.width
  let s := s.updBoard tm.core fun b =>
    tm.pipes.foldl (fun b p => { b with quads := bump b.quads p q, blocks := bump b.blocks p (q * tm.desc.vregs) })
      { b with waves := b.waves + tm.desc.waves }
  (quartetCores (quartetOf tm.core)).foldl (fun s n => s.updBoard n fun b => { b with tiles := b.tiles + tm.desc.mtiles }) s

/-- A payload slot whose mesh teams have exited and whose triangles are processed is free again (R289). -/
def State.freeSlot (s : State) (d slot : Nat) : State :=
  let p := (s.die d).slots.getD slot {}
  if p.held && p.taker.isNone && p.exited == p.meshes && p.tris == 0 then
    let s := s.updDie d fun x => { x with slots := x.slots.erase slot }
    let s := { s with mem := s.mem.clear (payLoc d slot 0) (payLoc d slot 65536) }
    s.subCount p.launch 1
  else s

/-- The oldest ready wave of a pipe outside its pool: one with a fragment that may issue (R152). -/
def Core.readyOut (c : Core) (p : Nat) : Option Nat :=
  let pool := (c.pipe p).pool
  let ready := c.waves.filter fun (k, w) =>
    w.pipe == p && !pool.contains k && w.owed.isEmpty && w.order.any fun e => [FragSt.run, .trap, .splitwait].contains (c.frag e).st
  match ready with
  | [] => none
  | x :: t => some (t.foldl (fun a b => if b.2.age < a.2.age then b else a) x).1

/-- A wave leaves the pool of its pipe, and the oldest ready wave outside takes its place (R152). -/
def Core.leavePool (c : Core) (slot : Nat) : Core :=
  let p := (c.wave slot).pipe
  let pool := (c.pipe p).pool
  if pool.contains slot then
    let add := (c.readyOut p).toList
    { c with pipes := c.pipes.set p { c.pipe p with pool := pool.filter (· != slot) ++ add } }
  else c

/-- Removes a wave and its fragments from its core. -/
def Core.removeWave (c : Core) (slot : Nat) : Core :=
  let c := c.leavePool slot
  let c := (c.wave slot).order.foldl Core.freeFrag c
  { c with waves := c.waves.erase slot, entryWaiters := c.entryWaiters.filter (· != slot) }

/-- A request is resolved once it has reached every core and no resident team still has to save (R94). -/
def State.checkPreempt (s : State) (l : Nat) : State :=
  let x := s.launch l
  if x.request && x.reqCores.isEmpty && !(s.teams.any fun (_, t) => t.launch == l && t.st == .resident && t.preempt) then
    s.resolvePreempt l
  else s

/-- A payload slot that a PAYW of a team has taken and not filled is free again. -/
def State.dropTaken (s : State) (t : Nat) : State :=
  { s with dies := s.dies.map fun (k, d) => (k, { d with slots := d.slots.filter fun (_, p) => (p.taker.map fun x => x.1) != some t }) }

/-- The monitors of a team are dropped. -/
def State.dropMonitors (s : State) (t : Nat) : State :=
  { s with dies := s.dies.map fun (k, d) => (k, { d with monitors := d.monitors.filter fun m => m.team != t }) }

/-- Whoever waits under these clients is gone: its page requests stay out and keep their indices until they are answered (R62,
R64), those still without an index are dropped, and no translation and no fabric reply finds it. -/
def State.dropClients (s : State) (p : Client → Bool) : State :=
  let leave (rs : List AtsReq) : List AtsReq := rs.map fun r => { r with waiters := r.waiters.filter fun x => !p x.1 }
  let s := s.updLink fun l =>
    { l with groups := (l.groups.filter fun g => !p g.client || g.index.isSome).map fun g => if p g.client then { g with client := .gone } else g,
             ats := leave l.ats, answers := l.answers.filter fun a => !p a.client }
  let s : State := { s with dies := s.dies.map fun (k, d) => (k, { d with ats := leave d.ats, answers := d.answers.filter fun a => !p a.client }) }
  let own (w : Option (Client × Nat)) : Option (Client × Nat) := w.filter fun x => !p x.1
  { s with fab := { s.fab with
      replies := s.fab.replies.filter fun r => !p r.client,
      src := s.fab.src.map fun x => { x with ops := x.ops.map fun o => { o with waiter := own o.waiter } } } }

/-- The clients that are fragments of waves of a core. -/
def Core.fragClient (c : Core) (core : Nat) (slots : List Nat) (x : Client) : Bool :=
  match x with
  | .frag k e => k == core && slots.any fun sl => (c.wave sl).order.contains e
  | _ => false

/-- Fragments of waves of a core leave it: their requests are no longer theirs. -/
def State.leaveCore (s : State) (core : Nat) (slots : List Nat) : State :=
  s.dropClients ((s.core core).fragClient core slots)

/-- Every matrix request of a quartet that has not completed. -/
def Quartet.requests (q : Quartet) : List MReq := q.table ++ q.array.toList ++ q.port.toList

/-- The requests of a team. -/
def State.requestsOf (s : State) (t : Nat) : List MReq :=
  s.quartets.flatMap fun (_, q) => q.requests.filter fun r => r.team == t

/-- The tiles of a team that has ended keep their bytes until its requests have completed (R254). -/
def State.freeTiles (s : State) (t : Nat) : State :=
  if (s.team t).st == .ended && (s.requestsOf t).isEmpty then { s with mem := s.mem.clear (tileLoc t 0 0) (teamLoc (t + 1)) } else s

/-- A team ends: its last wave has exited, or it is killed. Its waves go, its demand returns, its mesh slot counts it, and the counter falls
by `count` (R91, R106, R170). A killed team's attachments detach without release (R119); those of one that has exited stay until what it
posted to them is performed (R188, `settleDetach`). -/
def State.endTeam (s : State) (t : Nat) (count : Nat) (kill : Bool := true) : State :=
  let tm := s.team t
  if tm.st == .ended then s else
  let s := if tm.st == .resident then
      let s := (s.leaveCore tm.core tm.slots.vals).updCore tm.core fun c => tm.slots.vals.foldl Core.removeWave c
      s.returnDemand t
    else s.updDie tm.imageDie fun d => { d with resume := d.resume.filter (· != t) }
  let s := (s.dropMonitors t).dropTaken t
  let s := if tm.st == .resident && kill then tm.attach.foldl (fun s a => s.dirOp.detach t a.handle) s else s
  let s := s.updTeam t fun x => { x with st := .ended, slots := [], saved := [], savedCells := [], savedEmpties := [], savedPoison := [],
                                         image := 0, preempt := false, saving := false, attach := if tm.st == .resident then x.attach else [] }
  let s := s.freeStorage t
  let s := s.freeTiles t
  let s := match tm.mesh with
    | none => s
    | some (d, slot, _) =>
      (s.updDie d fun x => { x with slots := x.slots.upd slot {} fun p => { p with exited := p.exited + 1 } }).freeSlot d slot
  let s := s.checkPreempt tm.launch
  s.subCount tm.launch count

/-! ## Bound regions (R214 to R216, R219) -/

/-- What an entry's page holds at an address: an untranslated access reaches the host. -/
def State.xlatLoc (s : State) (x : Xlat) (va : Nat) : Option Nat :=
  if x.u then some (hostLoc (x.apply va)) else match s.decodeTr (x.apply va) with
    | .loc l => some l
    | _ => none

/-- A line holds bytes that a translation places in a binding's region. -/
def State.lineBound (s : State) (x : Xlat) (b : Binding) (n : Nat) : Bool :=
  let v0 := x.vpage.toNat / 2 ^ x.size * 2 ^ x.size
  let lo := max b.base.toNat v0
  let hi := min (b.base.toNat + b.len) (v0 + 2 ^ x.size)
  lo < hi && (match s.xlatLoc x lo with
    | some l => lineIn l (l + (hi - lo)) n
    | none => false)

/-- The lines that an access to a sync object covers: those that hold bytes of the regions bound to it, by the translations that serve
the die and those that have served it (log entry 12). -/
def State.coversOf (s : State) (core ctx : Nat) (bs : List Binding) : Nat → Bool :=
  let d := s.die (dieOf core)
  let xs := ((s.core core).tc ++ d.tc ++ d.past).filter fun t => t.pasid == (s.ctx ctx).pasid
  fun n => bs.any fun b => xs.any fun t => s.lineBound t b n

/-- The region bindings of a wave's context as its core holds them, each with its own scope as captured now (R215, R216). -/
def State.bindings (s : State) (w : Who) : List (Binding × ScopeEntry) :=
  ((s.core w.core).binds.filter fun (k, b) => k / 256 == w.ctx && b.valid).map fun (_, b) => (b, (s.capture w b.scope.toNat).set)

/-- Those to a sync object, as held when the instruction at hand issued. -/
def State.bound (s : State) (w : Who) (x : Addr) : List (Binding × ScopeEntry) :=
  (match (s.frag w).issued with
    | some i => i.binds
    | none => s.bindings w).filter fun (b, _) => b.sync == x

/-- Some of n bytes from a lie in a binding's region. -/
def Binding.meets (b : Binding) (a : Addr) (n : Nat) : Bool := b.base.toNat < a.toNat + n && a.toNat < b.base.toNat + b.len

/-! ## Posted operations (R91, R314, R408) -/

/-- One step of an integer read-modify-write on values of `bits` bits (R417). -/
def intStep (op : Nat) (sgn : Bool) (bits m v : Nat) : Nat :=
  let toI (x : Nat) : Int := if sgn then toSigned bits x else x
  match op with
  | 0 => (m + v) % 2 ^ bits
  | 1 => if toI v < toI m then v else m
  | 2 => if toI m < toI v then v else m
  | 3 => m &&& v
  | 4 => m ||| v
  | 5 => m ^^^ v
  | _ => v

/-- One step of a read-modify-write: fp32 .add, or an integer operation (R417). -/
def rmwStep (op : Nat) (fp sgn flush nancan : Bool) (bits m v : Nat) : Nat :=
  if fp then fp32Add flush nancan m v else intStep op sgn bits m v

/-- Locations of n bytes from l. -/
def locsFrom (l n : Nat) : List Nat := (List.range n).map fun i => l + i

/-- The locations a posted operation writes. -/
def PostOp.locs : PostOp → List Nat
  | .store w | .storeFe w => w.keys
  | .red l n _ _ _ _ _ _ => locsFrom l n

/-- Marks a granule full (R175). -/
def State.fill (s : State) (locs : List Nat) : State :=
  { s with mem := { s.mem with empties := locs.foldl (fun e l => e.erase (l / 16)) s.mem.empties } }

/-- A posted operation takes effect at its place (R176, R417); a reduction of poisoned data is dropped (R314). -/
def State.performOp (s : State) (p : Post) : State :=
  let tag := s.tagOf p.ctx
  match p.op with
  | .store w => s.writeBytes p.place tag w
  | .storeFe w => (s.writeBytes p.place tag w).fill w.keys
  | .red l n op fp sgn flush nancan vs =>
    let (bs, s) := s.readBytes p.place tag (locsFrom l n)
    if bs.any (·.2) then (s.launchRec p.launch 7 (addr := p.addr)).blame p.launch .fault
    else
      let x := vs.foldl (rmwStep op fp sgn flush nancan (8 * n)) (leNat (bs.map (·.1)))
      s.writeBytes p.place tag ((natBytes n x).mapIdx fun i b => (l + i, b))

/-- A read-modify-write keeps the release sequences of its location (R213): those that `s` held there. -/
def State.keepRels (s : State) (p : Place) (loc : Nat) (t : State) : State :=
  match s.rels.filter fun r => r.loc == loc && r.place.same p with
  | [] => t
  | rs => { t with rels := t.rels ++ rs.filter fun r => !t.rels.contains r }

/-- Performs one posted operation of a core and takes it off: the launch's counter falls by 1 (R91), and storage that
waited for it may be freed (R170). A release first has the covered dirty lines written back (R219), and its location then holds it. -/
def State.performOne (s : State) (core : Nat) (p : Post) : State :=
  let s := s.updCore core fun c => { c with posts := c.posts.filter fun q => q.id != p.id }
  let loc := p.op.locs.headD 0
  let s := match p.rel with
    | some cap => s.cleanCore core cap.set.level (s.coversOf core p.ctx (p.binds.map Prod.fst))
    | none => s
  let t := s.performOp p
  let t := match p.op with | .red .. => s.keepRels p.place loc t | _ => t
  let s := match p.rel with
    | some cap => t.noteRelease { loc := loc, place := p.place, party := .core core, set := cap.set, binds := some p.binds }
    | none => t
  let s := if p.op.locs.any isChip then s.unowe p.team else s
  s.subCount p.launch 1

/-- An earlier post of a wave must be performed before a later one: they overlap at one place (R408), or the later one is a release that
covers it: an earlier release, or a write to a region bound to its sync object (R216, R219). -/
def Post.before (p q : Post) : Bool :=
  p.slot == q.slot && p.id < q.id &&
    ((p.place.same q.place && p.op.locs.any fun l => q.op.locs.contains l) ||
     (match q.rel with
      | none => false
      | some _ => p.rel.isSome || q.binds.any fun (b, _) => b.meets p.addr p.op.locs.length))

/-- Of posts, latest first, those that meet a test and those that must be performed before one of them. -/
def dueRev (f : Post → Bool) : List Post → List Post → List Post
  | [], _ => []
  | p :: t, later => if f p || later.any (p.before ·) then p :: dueRev f t (p :: later) else dueRev f t later

/-- What must be performed for the posts of a core that meet a test to be performed, in its order. -/
def Core.due (c : Core) (f : Post → Bool) : List Post := (dueRev f c.posts.reverse []).reverse

/-- Performs the posted operations of a core that meet a test, after those that come before them. -/
def State.performWhere (s : State) (core : Nat) (f : Post → Bool) : State :=
  ((s.core core).due f).foldl (fun s q => s.performOne core q) s

/-- Performs a posted operation, after those that come before it. -/
def State.performPost (s : State) (core : Nat) (p : Post) : State := s.performWhere core fun q => q.id == p.id

/-- A release whose set has the host and the fabric waits for the acknowledgement of the writes sent there (R56, R224). -/
def State.blocked (s : State) (p : Post) : Bool :=
  match p.rel with
  | some cap => cap.set.hostfab && s.fabBusy p.ctx
  | none => false

/-- Some post that must be performed for those that meet a test cannot be yet (R224). -/
def State.hindered (s : State) (core : Nat) (f : Post → Bool) : Bool := ((s.core core).due f).any s.blocked

/-! ## Addresses of memory instructions (R405, R406, R412, R416, R424, R436) -/

/-- The word of a lane's memory base for a trap record: uniform at VA 64 and above (R405). -/
def Wave.baseWord (wv : Wave) (l n : Nat) : Word := if n ≥ 64 then wv.greg (n - 64) else wv.vreg l n

/-- The 64-bit base of a lane: a vector pair, or a uniform pair at VA 64 and above. -/
def Wave.base64 (wv : Wave) (l va : Nat) : Addr := if va ≥ 64 then wv.g64 (va - 64) else wv.v64 l va

/-- The index of a lane: none, 32 bits zero- or sign-extended, or 64 bits (Table 16.1). -/
def Wave.index (wv : Wave) (mode : Nat) (usrc : Bool) (l vb : Nat) : Addr :=
  let r : Word := if usrc then wv.greg vb else wv.vreg l vb
  match mode with
  | 0 => 0
  | 1 => r.setWidth 64
  | 2 => r.signExtend 64
  | _ => if usrc then wv.g64 vb else wv.v64 l vb

/-- The displacement in bytes: DISP × s. -/
def dispOf (e : EMod) (s : Nat) : Addr := (e.src3.extractLsb' 0 4).signExtend 64 * BitVec.ofNat 64 s

/-- The address of a lane of an address form whose access has s bytes (R406). -/
def laneAddr (f : LForm) (e : EMod) (s : Nat) (wv : Wave) (l : Nat) : Addr :=
  wv.base64 l f.va.toNat + wv.index (e.src3.toNat / 32) e.usrc l f.vb.toNat + dispOf e s

/-- The generic address of a lane of a window form (R412). -/
def windowAddr (f : LForm) (e : EMod) (s : Nat) (wv : Wave) (l : Nat) : Addr :=
  let ix : Word := if e.mod.getLsbD 2 then (if e.usrc then wv.greg f.vb.toNat else wv.vreg l f.vb.toNat) else 0
  let o : Word := wv.baseWord l f.va.toNat + ix + (dispOf e s).setWidth 32
  match e.src3.toNat / 32 with
  | 0 => 0xFD00000000000000 + o.setWidth 64
  | 1 => 0xFC00000000000000 + o.setWidth 64
  | _ => 0xFB00000000000000 + ((o.extractLsb' 28 4).setWidth 64 <<< 48) + (o.extractLsb' 0 28).setWidth 64

/-- Bytes of an access. -/
def imageBytes (bits : Nat) (x2 : Bool) : Nat := if x2 then 16 else bits / 8

/-- Bytes of an access form's access (R407). -/
def accSize (e : EMod) : Nat := imageBytes (fmtBits e.fmt.toNat) e.x2

/-- Stream register n of a lane. -/
def Wave.strm (wv : Wave) (n l : Nat) : Strm := wv.streams.getD (n * 64 + l) {}
/-- Writes it. -/
def Wave.setStrm (wv : Wave) (n l : Nat) (x : Strm) : Wave := { wv with streams := wv.streams.put (n * 64 + l) x {}, badS := wv.badS.erase (n * 64 + l) }

/-- Element size in bytes. -/
def Strm.size (x : Strm) : Nat := fmtBits x.fmt / 8
/-- The address of the index at the position. -/
def Strm.indexAddr (x : Strm) : Addr := x.b + BitVec.ofNat 64 (4 * x.pos.toNat)
/-- The address of element j. -/
def Strm.elemAddr (x : Strm) (j : Nat) : Addr := x.a + BitVec.ofNat 64 (j * x.size)

/-- The address at which a lane of a stream register stands: of its index, or of its element. -/
def Strm.here (x : Strm) : Addr := if !x.isOpen then 0 else if x.indirect then x.indexAddr else x.elemAddr x.pos.toNat

/-- The address of a uniform access: a 64-bit base and a zero-extended 32-bit offset. -/
def uniAddr (wv : Wave) (ga : Nat) (off : Word) : Addr := wv.g64 ga + off.setWidth 64

/-- The effective address of a lane of a memory instruction (R305); none for other instructions, and for those of several addresses a lane
(TEX, TLD, IMGST). -/
def instrAddr (i : Instr) (wv : Wave) (l : Nat) : Option Addr :=
  match i with
  | .ld f | .st f | .ldf f | .stf f | .pref f => some (laneAddr f (i.extL f) (accSize (i.extL f)) wv l)
  | .sfill f => some (laneAddr f (i.extL f) 16 wv l)
  | .lds f | .sts f => some (windowAddr f (i.extL f) (accSize (i.extL f)) wv l)
  | .atom f | .atcas f | .red f | .waitc f | .sopen f | .isopen f => some (wv.base64 l f.va.toNat)
  | .srd f | .swr f | .stend f => some (wv.strm (f.va.toNat % 16) l).here
  | .sadv f => some (wv.strm (f.vd.toNat % 16) l).here
  | .gld f | .gst f => some (uniAddr wv f.ga.toNat (wv.greg f.gb.toNat))
  | .gldI f | .gstI f => some (uniAddr wv f.ga.toNat f.imm)
  | _ => none

/-! ## Trap records and traps (R301 to R307) -/

/-- Number of a fragment state (Table 6.2). -/
def FragSt.code : FragSt → Nat
  | .free => 0 | .run => 1 | .swait => 2 | .xlate => 3 | .rcvwait => 4 | .ffwait => 5 | .splitwait => 6 | .trap => 7
  | .ystop => 8 | .syncwait => 9

/-- A fragment entry as Table 6.1 lays it out. -/
def Frag.image (f : Frag) : BitVec 256 :=
  f.pc.extractLsb' 2 62 ++ (0 : BitVec 2) ++ f.mask ++ f.unfin ++ BitVec.ofNat 8 f.slot ++ BitVec.ofNat 4 f.st.code ++
    BitVec.ofNat 4 f.point ++ BitVec.ofNat 16 f.timer ++ BitVec.ofNat 15 f.budget ++ BitVec.ofNat 4 f.frames.length ++
    BitVec.ofNat 4 (min f.rounds 15) ++ BitVec.ofNat 9 f.prgi

/-- A serial frame as Table 6.5 lays it out. -/
def Frame.image (f : Frame) : BitVec 256 :=
  f.dpc.extractLsb' 2 62 ++ (0 : BitVec 2) ++ f.dmask ++ f.arrived ++ f.join.extractLsb' 2 62 ++ bit1 f.joinset ++ (0 : BitVec 1)

/-- Bits 1023:0 of a trap record (Table 12.2). -/
def TrapRec.image (r : TrapRec) : BitVec 1024 :=
  let sg (i : Nat) : Word := r.saveg.getD i 0
  r.frag ++ r.pend ++ (0 : BitVec 64) ++ r.info ++ (sg 3 ++ sg 2 ++ sg 1 ++ sg 0) ++ (r.newpc ++ (0 : BitVec 2)) ++
    (r.opC ++ r.opB ++ r.opA) ++ r.addr ++ r.lanes ++ (0 : BitVec 25) ++ BitVec.ofNat 7 r.snaps.length ++ r.extw ++ r.instr ++
    (0 : BitVec 12) ++ bit1 r.xw ++ bit1 r.unif ++ r.action ++ BitVec.ofNat 8 r.cause ++ BitVec.ofNat 8 r.code

/-- Word i of a trap record (R304, R305): zero beyond the record. -/
def TrapRec.word (r : TrapRec) (i : Nat) : Word :=
  if i < 32 then r.image.extractLsb' (32 * i) 32
  else
    match r.snaps[(i - 32) / 16]? with
    | none => 0
    | some (e, n) =>
      let k := (i - 32) % 16
      if k < 8 then e.extractLsb' (32 * k) 32 else if k == 8 then BitVec.ofNat 32 n else 0

/-- Writes word i of a trap record: the RW fields ACTION, NEWPC and SAVEG take their bits, all else is ignored
(Table 12.2). -/
def TrapRec.setWord (r : TrapRec) (i : Nat) (x : Word) : TrapRec :=
  match i with
  | 0 => { r with action := x.extractLsb' 16 2 }
  | 11 => { r with newpc := r.newpc.extractLsb' 30 32 ++ x.extractLsb' 2 30 }
  | 12 => { r with newpc := x ++ r.newpc.extractLsb' 0 30 }
  | 13 | 14 | 15 | 16 => { r with saveg := r.saveg.set (i - 13) x }
  | _ => r

/-- The wave with its registers as the instruction at hand reads them: those of its issue, where it is under way (R406, R410). -/
def State.regs (s : State) (w : Who) : Wave :=
  match (s.frag w).issued with
  | some x => { s.wave w with v := x.v, p := x.p, g := x.g, q := x.q }
  | none => s.wave w

/-- The instruction at hand: its words, its set, its source values as a lane reads them, and a lane's effective address (R305). -/
structure Ins where
  word : Word
  ext : Option Word
  ops : Nat → Word × Word × Word
  adr : Nat → Option Addr := fun _ => none

/-- Ins of an instruction whose words are those of `i`. -/
def insOf (i : Instr) (ops : Nat → Word × Word × Word) (adr : Nat → Option Addr := fun _ => none) : Ins :=
  match encode i with
  | some (w, e) => { word := w, ext := e, ops := ops, adr := adr }
  | none => { word := 0, ext := none, ops := ops, adr := adr }

/-- What an instruction that stays under way has read at its issue: the registers, the scope entry that the byte of its extension word
names, and the bindings. -/
def State.issuedOf (s : State) (w : Who) (i : Ins) : Issued :=
  let wv := s.wave w
  (s.frag w).issued.getD
    { v := wv.v, p := wv.p, g := wv.g, q := wv.q, cap := s.capture w ((i.ext.getD 0).toNat % 32), binds := s.bindings w }

/-- The scope entry an instruction captured at its issue, now where it issues (R209). -/
def State.captured (s : State) (w : Who) (e : Nat) : Capture :=
  match (s.frag w).issued with
  | some x => x.cap
  | none => s.capture w e

/-- A precise trap: Table 12.1's code with what the record holds. -/
structure Trap where
  code : Nat
  cause : Nat := 0
  lanes : Mask := 0
  pend : Mask := 0
  addr : Addr := 0
  info : BitVec 96 := 0
  /-- an ACCESS or MISALIGN of the instruction as a whole (R302) -/
  whole : Bool := false
  deriving DecidableEq, Repr

/-- A fatal trap ends the team (R307): the launch takes FAULT, a LAUNCHFAULT record is written, and nothing is saved;
attachments detach without release. Of a privileged wave, which no launch and no team has, the wave goes: no rule says more. DESIGN CHOICE,
log entry 37. -/
def State.fatal (s : State) (w : Who) (code : Nat) (dbl nopc : Bool) : State :=
  if (s.wave w).priv then (s.leaveCore w.core [w.slot]).updCore w.core fun c => c.removeWave w.slot
  else
  let s := s.blame w.launch .fault
  let s := s.launchRec w.launch 11 (unit := w.core)
    (detail := code + (if dbl then 256 else 0) + (if nopc then 512 else 0))
  s.endTeam w.team 1

/-- The budget a deadline k allows under a ceiling (R156, R443). -/
def budgetOf (k dlceil : Nat) : Nat := (min k dlceil + 1) * 64

/-- The snapshot of the other live fragments of a wave, oldest first (R305). -/
def State.snapshot (s : State) (w : Who) : List (BitVec 256 × Nat) :=
  ((s.wave w).order.filter (· != w.entry)).take 63 |>.map fun e => (((s.core w.core).frag e).image, e)

/-- Takes a trap (R303): it is fatal for WDOG, in trap mode, and when CTX_TRAPPC is 0; otherwise the record is written,
g60 to g63 are copied, BUDGET restarts, STATE becomes TRAP and PC becomes CTX_TRAPPC. MASK is unchanged. -/
def State.takeTrap (s : State) (w : Who) (i : Ins) (t : Trap) : State :=
  let f := s.frag w
  let wv := s.wave w
  let pc := (s.ctx w.ctx).trappc
  if t.code == 9 || f.trap.isSome || pc == 0 then s.fatal w t.code (f.trap.isSome) (pc == 0)
  else
    let (a, b, c) := i.ops (if t.lanes == 0 then lowestLane f.mask else lowestLane t.lanes)
    let r : TrapRec :=
      { code := t.code, cause := t.cause, action := if t.code == 17 || t.code == 18 then 1 else 3,
        unif := i.word.getLsbD 31, xw := i.ext.isSome, instr := i.word, extw := i.ext.getD 0, lanes := t.lanes,
        addr := if t.addr != 0 || t.lanes == 0 then t.addr else (i.adr (lowestLane t.lanes)).getD 0, opA := a, opB := b, opC := c, saveg := [wv.greg 60, wv.greg 61, wv.greg 62, wv.greg 63],
        info := t.info, pend := t.pend, frag := f.image,
        snaps := if t.code == 8 then s.snapshot w else [] }
    s.updFrag w fun f =>
      { f with trap := some r, budget := budgetOf 255 (s.launch w.launch).dlceil, st := .trap, pc := pc ++ (0 : BitVec 2),
               unfin := 0, rounds := 0, prgi := 0, grouped := false, timer := 0, due := false, only := none, wait := {}, words := none,
               answers := [], pages := [], issued := none, desc := none, bad := false }

/-- The majors whose instructions access memory (R306): a retry with lanes reported replays those lanes alone. -/
def isMemWord (w : Word) : Bool :=
  let m := wordMajor w
  if wordUni w then m == 7 else (0x2C ≤ m && m ≤ 0x31) || (0x38 ≤ m && m ≤ 0x3C)

/-- Returns from the handler (R306). -/
def State.returnTrap (s : State) (w : Who) (r : TrapRec) : State :=
  let s := s.updWave w fun wv => r.saveg.zipIdx.foldl (fun wv (x, k) => wv.setG (60 + k) x) wv
  let budget := (r.frag.extractLsb' 17 15).toNat
  let pc : Addr := r.frag.extractLsb' 194 62 ++ (0 : BitVec 2)
  let back (pc : Addr) (only : Option Mask) : State :=
    s.updFrag w fun f => { f with trap := none, st := .run, budget := budget, pc := pc, only := only }
  match r.action.toNat with
  | 0 => back pc (if isMemWord r.instr && (r.lanes ||| r.pend) != 0 then some (r.lanes ||| r.pend) else none)
  | 1 => back (pc + (if r.xw then 8 else 4)) none
  | 2 => back (r.newpc ++ (0 : BitVec 2)) none
  | _ => s.fatal w r.code false false

/-! ## The life of an issue (R145, R146, R153, R156, R157) -/

/-- What an instruction's own effect comes to. -/
inductive Flow where
  /-- it completes: the PC moves past it -/
  | done (s : State)
  /-- it completes and the whole fragment goes to an address -/
  | jump (s : State) (pc : Addr)
  /-- it completes, and has itself placed its fragment -/
  | placed (s : State)
  /-- its fragment waits in SYNCWAIT -/
  | wait (s : State) (k : Wait)
  /-- it does not issue: it is tried again -/
  | hold (s : State)
  /-- some of its lanes are done; the others, `lanes`, wait for translations or for a peer (R60): it goes on with those -/
  | part (s : State) (lanes : Mask)
  /-- its unfinished lanes park at a page fault (R63) -/
  | park (s : State) (lanes : Mask) (pages : List Nat) (wr : Bool) (addr : Addr)
  /-- it raises a precise trap -/
  | trap (s : State) (t : Trap)

/-- RUN, or TRAP in trap mode. -/
def Frag.runSt (f : Frag) : FragSt := if f.trap.isSome then .trap else .run

/-- The fragment goes on with an instruction already issued: a wait, a parked access or a replay. A fragment parked at its
fetch has issued nothing: its `only` is empty. -/
def Frag.again (f : Frag) : Bool := f.st == .syncwait || f.only.isSome

/-- The bookkeeping of an instruction that has issued: BUDGET, the count of R153, idle cycles (R152). -/
def State.count (s : State) (w : Who) (again : Bool) : State :=
  if again then s
  else (s.updFrag w fun f => { f with budget := f.budget - 1 }).updWave w fun wv => { wv with issued := true }

/-- The fragment leaves its instruction for `pc`: SWAIT when its word carries S and results are outstanding (R146). -/
def State.leave (s : State) (w : Who) (sw : Bool) (pc : Addr) : State :=
  let s := s.updWave w fun wv => { wv with retired := wv.retired + 1 }
  s.updFrag w fun f =>
    { f with pc := pc, st := if sw && !f.board.isEmpty then .swait else f.runSt, wait := {}, words := none, only := none, unfin := 0, rounds := 0,
             prgi := 0, grouped := false, answers := [], pages := [], issued := none, desc := none, since := 0, considered := false }

/-- The fragment parks with its unfinished lanes, and its page requests form a group (R62, R63). -/
def State.parkFrag (s : State) (w : Who) (lanes : Mask) (pages : List Nat) (wr : Bool) : State :=
  let s := s.parkGroup (.frag w.core w.entry) w.ctx pages wr
  let g := (s.link.groups.find? fun g => g.client == .frag w.core w.entry).bind fun g => g.index
  s.updFrag w fun f =>
    { f with st := .xlate, unfin := lanes, prgi := g.getD 0, grouped := g.isSome, since := if f.st == .xlate then f.since else 0,
             considered := f.st == .xlate && f.considered, answers := [], pages := pages, pagesWr := wr, wait := {} }

/-- Ends an issue with what the instruction came to. -/
def State.conclude (s : State) (w : Who) (i : Ins) (fl : Flow) : State :=
  let f := s.frag w
  let ag := f.again
  let sw := wordS i.word
  let next := f.pc + BitVec.ofNat 64 (wordLen i.word)
  match fl with
  | .done s => ((s.count w ag).fabForget (.frag w.core w.entry)).leave w sw next
  | .jump s pc => ((s.count w ag).fabForget (.frag w.core w.entry)).leave w sw pc
  | .placed s => s
  | .wait t k => (t.count w ag).updFrag w fun f =>
    { f with st := .syncwait, wait := k, words := some (i.word, i.ext), issued := some (s.issuedOf w i), answers := [],
             since := if f.st == .syncwait then f.since else 0 }
  | .hold s => s
  | .part t lanes => (t.count w ag).updFrag w fun f =>
    { f with words := some (i.word, i.ext), issued := some (s.issuedOf w i), only := some lanes,
             unfin := if f.st == .xlate then lanes else f.unfin }
  | .park t lanes pages wr addr =>
    if (t.frag w).rounds ≥ 16 then
      ((t.count w ag).fabForget (.frag w.core w.entry)).takeTrap w i { code := 5, lanes := lanes, addr := addr }
    else ((t.count w ag).parkFrag w lanes pages wr).updFrag w fun f =>
      { f with words := some (i.word, i.ext), issued := some (s.issuedOf w i), only := some lanes }
  | .trap s t => ((s.count w ag).fabForget (.frag w.core w.entry)).takeTrap w i t

/-! ## Poisoned registers (R36) -/

/-- What an instruction reads: vector and uniform register words, first word and count of each run, predicates and stream registers by
number, and the uniform predicates. -/
structure Reads where
  vec : List (Nat × Nat) := []
  uni : List (Nat × Nat) := []
  pred : List Nat := []
  strm : List Nat := []
  q : Bool := false
  deriving DecidableEq, Repr

/-- The register words that a lane field of a kind takes. -/
def lopdWords (o : LOpd) (bits : Nat) : Nat :=
  match o with
  | .v | .base32 | .g => 1
  | .vf => if bits == 64 then 2 else 1
  | .v64 | .base | .g64 => 2
  | .v4 => 4
  | .img x2 => if bits == 64 then (if x2 then 4 else 2) else 1
  | .none | .p | .tile | .str | .vals _ => 0

/-- The register words that a uniform field of a kind takes. -/
def uopdWords (o : UOpd) (bits : Nat) : Nat :=
  match o with
  | .g => 1
  | .gf => if bits == 64 then 2 else 1
  | .g64 => 2
  | .none | .vals _ => 0

/-- Its destination field is a source too: stores, EMIT, the forms that add to it, and those that keep part of it. -/
def readsDest : Instr → Bool
  | .st _ | .sts _ | .stf _ | .sfill _ | .imgst _ | .ffmaF _ | .hfma2F _ | .mxdot _ | .pack _ | .gst _ | .gstI _ | .bind _ | .unbind _
  | .mts _ | .emit _ => true
  | _ => false

/-- Joins what two fields read. -/
def Reads.join (x y : Reads) : Reads :=
  { vec := x.vec ++ y.vec, uni := x.uni ++ y.uni, pred := x.pred ++ y.pred, strm := x.strm ++ y.strm, q := x.q || y.q }

/-- What a lane field reads: a base from 64 on and a field under USRC name uniform registers (R356, R405). -/
def lopdReads (o : LOpd) (bits : Nat) (u : Bool) (n : Nat) : Reads :=
  match o with
  | .base | .base32 => if n ≥ 64 then { uni := [(n - 64, lopdWords o bits)] } else { vec := [(n, lopdWords o bits)] }
  | .g | .g64 => { uni := [(n, lopdWords o bits)] }
  | .p => { pred := [n % 8] }
  | .str => { strm := [n % 16] }
  | _ => if u then { uni := [(n, lopdWords o bits)] } else { vec := [(n, lopdWords o bits)] }

/-- The register words an instruction reads. -/
def instrReads (i : Instr) : Reads :=
  let d := readsDest i
  match i.uses with
  | .lane f u =>
    let e := f.ext.getD i.dflt
    let bits := u.fmts.bits e
    let src := match u.fmts with
      | .cvt => if e.src3.getLsbD 5 then 8 else fmtBits (e.src3.toNat % 32)
      | _ => bits
    ({ pred := [e.guard.toNat] } : Reads).join (((lopdReads u.va src false f.va.toNat).join (lopdReads u.vb bits e.usrc f.vb.toNat)).join
      ((lopdReads u.c bits false e.src3.toNat).join (if d then lopdReads u.vd bits false f.vd.toNat else {})))
  | .imm f _ va _ => lopdReads va 32 false f.va.toNat
  | .flt f vd va _ =>
    ({ pred := [f.f.guard.toNat] } : Reads).join ((lopdReads va 32 false f.va.toNat).join (if d then lopdReads vd 32 false f.vd.toNat else {}))
  | .uni f u =>
    let e := f.ext.getD i.dflt
    let bits := if u.fmts.isEmpty then 32 else fmtBits e.fmt.toNat
    { uni := [(f.ga.toNat, uopdWords u.ga bits), (f.gb.toNat, uopdWords u.gb bits), (e.src3.toNat, uopdWords u.c bits),
              (f.gd.toNat, if d then uopdWords u.gd bits else 0)],
      q := e.guard != 0 || (match i with | .gsel _ => e.src3 != 0 | _ => false) }
  | .uimm f gd ga _ => { uni := [(f.ga.toNat, uopdWords ga 32), (f.gd.toNat, if d then uopdWords gd 32 else 0)] }
  | .other => {}

/-- Register words of a run. -/
def runWords (r : Nat × Nat) : List Nat := (List.range r.2).map (r.1 + ·)

/-- The lanes that a minimum-width code stands for in a wave (Table 6.6). -/
def widthOf (code lanes : Nat) : Nat := if code ≥ 5 then lanes else min (4 * 2 ^ code) lanes

/-- The lanes whose register lane `l` reads through its k-th vector field: its own, but for the instructions that read across
lanes (R397, R398, R401, R403, R404), which do so through VA, and through a block's scale register. -/
def Wave.readLanes (wv : Wave) (i : Instr) (act : Mask) (k l : Nat) : List Nat :=
  let quad (j : Nat) : List Nat := [l / 4 * 4 + j]
  let near (f : LForm) (m : Nat) : Bool :=
    let n := widthOf ((i.extL f).byte.toNat % 8) wv.lanes
    m / n == l / n
  match i, k with
  | .mxdot _, 2 | .qnt _, 2 => [l / 8 * 8]
  | .qnt _, 0 => (List.range 8).map (l / 8 * 8 + ·)
  | .redux f, 0 => (lanesOf act).filter (near f)
  | .scan f, 0 => (lanesOf act).filter fun m => near f m && (m < l || (m == l && !(i.extL f).byte.getLsbD 3))
  | .qswz f, 0 =>
    match (i.extL f).mod.toNat % 4 with
    | 3 => quad ((i.extL f).byte.toNat / 8 % 4)
    | x => quad (l % 4 ^^^ (x + 1))
  | .deriv f, 0 =>
    match (i.extL f).mod.toNat % 4 with
    | 0 => quad 1 ++ quad 0
    | 1 => quad 2 ++ quad 0
    | 2 => quad (l % 4 / 2 * 2) ++ quad (l % 4 / 2 * 2 + 1)
    | _ => quad (l % 2) ++ quad (l % 2 + 2)
  | .shfl f, 0 =>
    let e := i.extL f
    let n := widthOf (e.byte.toNat % 8) wv.lanes
    let base := l / n * n
    let o := if e.mod.getLsbD 2 then e.byte.toNat / 8 else (if e.usrc then wv.greg f.vb.toNat else wv.vreg l f.vb.toNat).toNat
    match e.mod.toNat % 4 with
    | 0 => [base + o % n]
    | 1 => if l < base + o then [] else [l - o]
    | 2 => if base + n ≤ l + o then [] else [l + o]
    | _ => [base + ((l - base) ^^^ o) % n]
  | _, _ => [l]

/-- What an instruction reads beside its fields: RET its link pair (R441), BRC and BRU their predicates, SADV its stream register, and SWR
the high word of an 8-byte element (R425). -/
def Wave.moreReads (wv : Wave) (i : Instr) (act : Mask) : Reads :=
  match i with
  | .ret _ => { vec := [(wv.vregs - 2, 2)] }
  | .brc f => { pred := [f.pred.toNat] }
  | .bru f => { q := f.pred != 0 }
  | .sadv f => { strm := [f.vd.toNat % 16] }
  | .swr f =>
    if (lanesOf act).any fun l => fmtBits (wv.streams.getD (f.va.toNat % 16 * 64 + l) {}).fmt == 64 then
      lopdReads .v 32 (i.extL f).usrc (f.vb.toNat + 1)
    else {}
  | _ => {}

/-- The lanes of `act` in which an instruction reads a poisoned register; all of them where it reads a poisoned uniform one. -/
def Wave.poisoned (wv : Wave) (i : Instr) (act : Mask) : Mask :=
  let r := (instrReads i).join (wv.moreReads i act)
  if (r.uni.any fun x => (runWords x).any fun j => (wv.badG.get? j).isSome) || (r.q && wv.badQ) ||
      (r.pred.any fun p => p != 0 && (wv.badP.get? p).isSome) then act
  else maskOf fun l => act.getLsbD l &&
    ((r.strm.any fun n => (wv.badS.get? (n * 64 + l)).isSome) ||
     r.vec.zipIdx.any fun (x, k) =>
       (wv.readLanes i act k l).any fun m => (runWords x).any fun j => (wv.badV.get? (j * 64 + m)).isSome)

/-- The lanes an instruction acts on: those of a lane instruction's guard, or the fragment's MASK, none for a uniform
instruction that its guard turns off (R432). -/
def State.actOf (s : State) (w : Who) (i : Instr) : Mask :=
  let f := s.frag w
  let narrow (sense : Bool) (g : BitVec 3) : Mask :=
    f.mask &&& (if sense then ~~~ (s.wave w).preds g.toNat else (s.wave w).preds g.toNat)
  match f.only, i.uses with
  | some m, .lane .. | some m, .imm .. | some m, .flt .. => m &&& f.mask
  | none, .lane f _ => let e := f.ext.getD i.dflt; narrow e.gsense e.guard
  | none, .flt f .. => narrow f.f.gsense f.f.guard
  | _, .uni g _ => let e := g.ext.getD i.dflt; if f.again || (s.wave w).qpred e.guard.toNat != e.gsense then f.mask else 0
  | _, _ => f.mask

/-- ECCUE (R36, R302): code 16. -/
def eccue : Nat := 16

/-- The codes of Table 12.1 that R302 ranks before ECCUE. -/
def beforeEccue (code : Nat) : Bool := code != eccue && code != 14

/-- A condition that concerns the whole instruction (R302): ILLOP, PRIV, SEGMISS, SCOPESTALE, WDOG, CNTOVF, or an ACCESS or MISALIGN raised
for it as a whole. -/
def Trap.ofAll (t : Trap) : Bool := t.whole || [1, 2, 6, 7, 9, 10].contains t.code

/-- A lane instruction. -/
def isLane (i : Instr) : Bool := match i.uses with | .lane .. | .imm .. | .flt .. => true | _ => false

/-- The lane instructions whose lanes complete separately (R63, R166, R302). -/
def lanesApart : Instr → Bool
  | .ld _ | .st _ | .lds _ | .sts _ | .ldf _ | .stf _ | .sfill _ | .atom _ | .atcas _ | .red _ | .tex _ | .tld _ | .imgst _ | .srd _ | .swr _
  | .stend _ | .sadv _ => true
  | _ => false

/-- The fragment's lanes are those of its instruction again, if it still stands in its entry. -/
def State.putOnly (s : State) (w : Who) (m : Option Mask) : State :=
  if ((s.core w.core).frags.get? w.entry).isSome then s.updFrag w fun f => { f with only := m } else s

/-- An instruction that reads poisoned registers raises ECCUE on the lanes that read them, unless it meets a condition that comes
first (R302). `run` is its effect without those lanes: the lanes of an instruction whose lanes complete separately have completed where
nothing keeps them, and its faulting lanes are pending. -/
def State.consume (s : State) (w : Who) (i : Instr) (bad : Mask) (body : State → Who → Flow) : Flow :=
  let act := s.actOf w i
  let old := (s.frag w).only
  let ecc (s : State) (pend : Mask) : Flow := .trap s { code := eccue, lanes := bad, pend := pend &&& ~~~ bad }
  if !isLane i then
    match body s w with
    | .trap s' t => if beforeEccue t.code then .trap s' t else ecc s 0
    | _ => ecc s 0
  else
    match body (s.updFrag w fun f => { f with only := some (act &&& ~~~ bad) }) w with
    | .trap s' t =>
      if t.ofAll then .trap s' { t with lanes := act, pend := 0 }
      else if beforeEccue t.code then .trap s' { t with pend := t.pend ||| (bad &&& ~~~ t.lanes) }
      else if t.code == eccue then .trap s' { t with lanes := t.lanes ||| bad, addr := 0 }
      else ecc s t.lanes
    | .done s' => if lanesApart i then ecc s' 0 else ecc s (match i with | .waitc _ => act | _ => 0)
    | .part s' rest => if lanesApart i then .part s' (rest ||| bad) else .hold (s'.putOnly w old)
    | .park s' lanes _ _ _ => if lanesApart i then ecc s' lanes else ecc s act
    | .wait s' k => match i with
      | .ldf _ => ecc s' k.lanes
      | .waitc _ => ecc s act
      | _ => ecc s 0
    | .hold s' => .hold (s'.putOnly w old)
    | .placed s' => .placed (s'.putOnly w old)
    | .jump .. => ecc s 0

/-- An instruction's effect, with the check of its fragment's entry and of the registers it reads; a PREF raises no trap (R415). -/
def State.effect (s : State) (w : Who) (i : Instr) (body : State → Who → Flow) : Flow :=
  if (s.frag w).bad then .trap s { code := eccue, lanes := s.actOf w i }
  else
    let bad := match i with
      | .pref _ => 0
      | _ => (s.wave w).poisoned i (s.actOf w i)
    if bad == 0 then body s w else s.consume w i bad body

/-- One issue of an instruction: WDOG when BUDGET is 0 (R157), the SEGMISS of a failed re-attach (R189), then its effect. -/
def issue (i : Instr) (ops : State → Who → Nat → Word × Word × Word) (body : State → Who → Flow) (s : State) :
    Host.Outcome State Fault Refusal :=
  match s.cur with
  | none => .fault .noIssuer
  | some (c, e) =>
    let w := s.whoAt c e
    let f := s.frag w
    let ins := insOf i (ops s w) (instrAddr i (s.regs w))
    if f.budget == 0 && !f.again then .next (s.takeTrap w ins { code := 9, lanes := f.mask })
    else
      match (s.team w.team).segmiss with
      | some (cause, name) =>
        if f.st == .run && (s.wave w).order.head? == some e && (s.team w.team).slots.vals.head? == some w.slot then
          .next (((s.updTeam w.team fun t => { t with segmiss := none }).count w f.again).takeTrap w ins
            { code := 6, cause := cause, lanes := s.actOf w i, info := (0 : BitVec 32) ++ name })
        else .next (s.conclude w ins (s.effect w i body))
      | none => .next (s.conclude w ins (s.effect w i body))

/-- The guard of a word that fails its checks: the field of its extension word where its form has one (R302). -/
def guardBits (word : Word) (ext : Option Word) : Bool × BitVec 3 :=
  match ext, wordUni word with
  | some e, false =>
    match laneMap (wordMajor word) (word.extractLsb' 0 2).toNat with
    | some (.imm _) => (false, 0)
    | some _ => (e.getLsbD 31, e.extractLsb' 28 3)
    | none => (false, 0)
  | _, _ => (false, 0)

/-- A check before issue fails (R357): ILLOP with its cause, unless BUDGET is 0, which raises WDOG first (R302). The
instruction has not issued, so BUDGET is not lowered and no source is read. LANES is its active lanes (R302). -/
def State.illop (s : State) (w : Who) (word : Word) (ext : Option Word) (cause : Nat) : State :=
  let f := s.frag w
  let g := guardBits word ext
  let act := if g.1 then f.mask &&& ~~~ (s.wave w).preds g.2.toNat else f.mask &&& (s.wave w).preds g.2.toNat
  s.takeTrap w { word := word, ext := ext, ops := fun _ => (0, 0, 0) }
    (if f.budget == 0 then { code := 9, lanes := f.mask }
     else { code := 1, cause := cause, lanes := if wordUni word then f.mask else act })

end Machine
end Sys2Proof
end

