-- ==== Sys2Proof/Machine/Operands.lean ====
section
/-! DEFINITION. How instructions read their operands: active lanes, register and immediate sources, pairs and widths, the
register image of a memory access, and the sources a trap record keeps. -/

namespace Sys2Proof
namespace Machine

/-! ## Active lanes (R375, R306) -/

/-- The lanes whose guard is true. -/
def Wave.guarded (wv : Wave) (sense : Bool) (g : BitVec 3) : Mask :=
  if sense then ~~~ wv.preds g.toNat else wv.preds g.toNat

/-- The active lanes of the issuing fragment. A replay acts on the lanes it is for (R63, R306). -/
def State.active (s : State) (w : Who) (sense : Bool) (g : BitVec 3) : Mask :=
  match (s.frag w).only with
  | some m => m &&& (s.frag w).mask
  | none => (s.frag w).mask &&& (s.regs w).guarded sense g

/-- The guard of a uniform instruction holds (R432). -/
def Wave.uguard (wv : Wave) (e : EMod) : Bool := wv.qpred e.guard.toNat != e.gsense

/-! ## Register sources (R320, R356, R359) -/

/-- A source of 32 or 64 bits from a vector register or, under USRC, from a uniform one. -/
def Wave.src (wv : Wave) (usrc : Bool) (bits l n : Nat) : Nat :=
  if usrc then (if bits == 64 then (wv.g64 n).toNat else (wv.greg n).toNat)
  else if bits == 64 then (wv.v64 l n).toNat else (wv.vreg l n).toNat

/-- The low `bits` of a source. -/
def Wave.srcLow (wv : Wave) (usrc : Bool) (bits l n : Nat) : Nat := wv.src usrc bits l n % 2 ^ bits

/-- A uniform source of 32 or 64 bits. -/
def Wave.usrcG (wv : Wave) (bits n : Nat) : Nat := if bits == 64 then (wv.g64 n).toNat else (wv.greg n).toNat

/-- The register words that a result of `bits` bits writes from register n on (R376). -/
def regWords (bits n x : Nat) : List (Nat × Word) :=
  if bits == 64 then [(n, BitVec.ofNat 32 x), (n + 1, BitVec.ofNat 32 (x / 2 ^ 32))]
  else [(n, BitVec.ofNat 32 (x % 2 ^ bits))]

/-- Which of a, b and c an instruction reads from registers (R305). -/
structure SrcUse where
  a : Bool := false
  b : Bool := false
  c : Bool := false
  /-- a is a memory base -/
  base : Bool := false
  deriving DecidableEq, Repr

/-- The sources of a lane instruction as a lane reads them, low words, absent sources 0 (R305). -/
def opsLane (u : SrcUse) (f : LForm) (e : EMod) (s : State) (w : Who) (l : Nat) : Word × Word × Word :=
  let wv := s.regs w
  (if u.base then wv.baseWord l f.va.toNat else if u.a then wv.vreg l f.va.toNat else 0,
   if u.b then (if e.usrc then wv.greg f.vb.toNat else wv.vreg l f.vb.toNat) else 0,
   if u.c then wv.vreg l e.src3.toNat else 0)

/-- The sources of a lane form with an immediate: the immediate is operand b (R365, R384). -/
def opsImm (a : Bool) (va : BitVec 7) (imm : Word) (s : State) (w : Who) (l : Nat) : Word × Word × Word :=
  (if a then (s.regs w).vreg l va.toNat else 0, imm, 0)

/-- The sources of a lane form marked (F): a, the converted immediate, and the old destination where it is the addend
(R391). -/
def opsFlt (f : LFlt) (b : Word) (c : Bool) (s : State) (w : Who) (l : Nat) : Word × Word × Word :=
  ((s.regs w).vreg l f.va.toNat, b, if c then (s.regs w).vreg l f.vd.toNat else 0)

/-- The fp32 value of a bf16 immediate; a NaN becomes the canonical quiet NaN (R365). -/
def immSingle (x : BitVec 16) : Word :=
  if x.extractLsb' 7 8 == 0xFF && x.extractLsb' 0 7 != 0 then 0x7FC00000 else x ++ (0 : BitVec 16)
/-- Both halves of an fp16 immediate (R365). -/
def immHalves (x : BitVec 16) : Word :=
  if x.extractLsb' 10 5 == 0x1F && x.extractLsb' 0 10 != 0 then 0x7E007E00 else x ++ x

/-- The sources of a uniform instruction. -/
def opsUni (u : SrcUse) (f : UForm) (e : EMod) (s : State) (w : Who) (_ : Nat) : Word × Word × Word :=
  let wv := s.regs w
  (if u.a then wv.greg f.ga.toNat else 0, if u.b then wv.greg f.gb.toNat else 0, if u.c then wv.greg e.src3.toNat else 0)

/-- The sources of a uniform form with an immediate. -/
def opsUImm (a : Bool) (f : UImm) (s : State) (w : Who) (_ : Nat) : Word × Word × Word :=
  (if a then (s.regs w).greg f.ga.toNat else 0, f.imm, 0)

/-- An instruction without register sources. -/
def opsNone (_ : State) (_ : Who) (_ : Nat) : Word × Word × Word := (0, 0, 0)

/-! ## Results of a lane -/

/-- What an instruction gives one lane: register words, a predicate, flags, and the legacy classes it shows (R345). -/
structure LaneOut where
  v : List (Nat × Word) := []
  p : Option (Nat × Bool) := none
  fl : Fl := 0
  leg : BitVec 16 := 0
  deriving DecidableEq, Repr, Inhabited

/-- Writes one lane's results. -/
def Wave.putLane (wv : Wave) (l : Nat) (o : LaneOut) : Wave :=
  let wv := o.v.foldl (fun wv (i, x) => wv.setV l i x) wv
  match o.p with
  | none => wv
  | some (i, b) => wv.setPreds i (laneBit l) (if b then laneBit l else 0)

/-- Writes the results of every lane listed. -/
def Wave.putLanes (wv : Wave) (outs : List (Nat × LaneOut)) : Wave := outs.foldl (fun wv (l, o) => wv.putLane l o) wv

/-- The lanes of a list of results that meet a test. -/
def lanesWhere (outs : List (Nat × LaneOut)) (p : LaneOut → Bool) : Mask :=
  outs.foldl (fun m (l, o) => if p o then m ||| laneBit l else m) 0

/-! ## The register image of a memory access (R407) -/

/-- Registers an image takes. -/
def imageRegs (bits : Nat) (x2 : Bool) : Nat := if bits == 64 then (if x2 then 4 else 2) else 1
/-- The value a lane stores: the registers of the image, lowest first, narrowed to the access. -/
def Wave.image (wv : Wave) (usrc : Bool) (bits : Nat) (x2 : Bool) (l n : Nat) : Nat :=
  let r (i : Nat) : Nat := (if usrc then wv.greg (n + i) else wv.vreg l (n + i)).toNat
  ((List.range (imageRegs bits x2)).foldl (fun acc i => acc + r i * 2 ^ (32 * i)) 0) % 2 ^ (8 * imageBytes bits x2)

/-- The register words a loaded value gives: a scalar narrower than 32 bits is extended by its format. -/
def loadWords (fmt : Nat) (x2 : Bool) (n x : Nat) : List (Nat × Word) :=
  let bits := fmtBits fmt
  if bits < 32 then
    [(n, BitVec.ofInt 32 (if fmt < 4 then toSigned bits x else (x % 2 ^ bits : Nat)))]
  else (List.range (imageRegs bits x2)).map fun i => (n + i, BitVec.ofNat 32 (x / 2 ^ (32 * i)))

end Machine
end Sys2Proof
end

