-- ==== Sys2Proof/Machine/Sequencer.lean ====
section
/-! DEFINITION. The sequencer: splitting, serial frames, fusing at reconvergence points, forced fuse, ends of lanes, and the
core's clock (R122 to R163). -/

namespace Sys2Proof
namespace Machine

/-! ## Entries (R125, R126) -/

/-- The free entries from 0 to 510, lowest first. -/
def Core.freeEntries (c : Core) : List Nat := (List.range 511).filter fun e => (c.frags.get? e).isNone

/-- The entry a split takes: the lowest free from 0 to 510 that is not reserved for a waiting wave (R125). -/
def Core.freeEntry (c : Core) : Option Nat := (List.range 511).find? fun e => (c.frags.get? e).isNone && !c.resv.contains e

/-- Puts a new, youngest fragment of a wave into an entry. -/
def Core.addFrag (c : Core) (slot e : Nat) (f : Frag) : Core :=
  (c.updFrag e fun _ => { f with slot := slot }).updWave slot fun w => { w with order := w.order ++ [e] }

/-- Frees the entry of a fragment of a wave. -/
def Core.dropFrag (c : Core) (slot e : Nat) : Core :=
  (c.freeFrag e).updWave slot fun w => { w with order := w.order.filter (· != e) }

/-- The fragments of a wave in age order. -/
def Core.fragsOf (c : Core) (slot : Nat) : List (Nat × Frag) := (c.wave slot).order.map fun e => (e, c.frag e)

/-- Serial frames that a wave's fragments hold (R134). -/
def Core.framesUsed (c : Core) (slot : Nat) : Nat := ((c.fragsOf slot).map fun (_, f) => f.frames.length).sum

/-- Lanes held in the frames of a fragment (R124). -/
def Frag.held (f : Frag) : Mask := f.frames.foldl (fun m fr => m ||| fr.dmask ||| fr.arrived) 0

/-! ## Splits (R131 to R135) -/

/-- The taken lanes keep the entry and go to `target`; the others form a new fragment at `next` (R131). -/
def Core.split (c : Core) (slot e n : Nat) (taken : Mask) (target next : Addr) : Core :=
  let f := c.frag e
  let c := c.updFrag e fun f => { f with mask := taken, pc := target, st := f.runSt }
  c.addFrag slot n { f with mask := f.mask &&& ~~~ taken, pc := next, st := .run, frames := [], wait := {}, words := none }

/-- A denied split: the deferred lanes go into a serial frame, the taken lanes go on (R135). -/
def Core.pushFrame (c : Core) (e : Nat) (taken : Mask) (target next : Addr) : Core :=
  c.updFrag e fun f =>
    { f with frames := { dpc := next, dmask := f.mask &&& ~~~ taken } :: f.frames, mask := taken, pc := target, st := f.runSt }

/-- The lanes of the quads of a mask that hold no lane of `busy`. -/
def wholeQuads (mask busy : Mask) : Mask :=
  maskOf fun l => mask.getLsbD l && (List.range 4).all fun k => !(mask.getLsbD (l / 4 * 4 + k) && busy.getLsbD (l / 4 * 4 + k))

/-- Complete quads go on as a new fragment at `pc` in RUN, with the outstanding results that still concern them (R132, R133). -/
def Core.quadSplit (c : Core) (slot e n : Nat) (done : Mask) (pc : Addr) : Core :=
  let f := c.frag e
  let board := f.board.filter fun i => (c.wave slot).pend.any fun p => p.id == i && (p.uniform || (p.lanes &&& done) != 0)
  let c := c.updFrag e fun f => { f with mask := f.mask &&& ~~~ done }
  c.addFrag slot n { pc := pc, mask := done, st := .run, budget := f.budget, board := board }

/-! ## Fusing (R137 to R140) -/

/-- Of fragments in age order, those that fuse and those that go on alone because an older one holds frames (R140). -/
def Core.fuseParts (c : Core) (es : List Nat) : List Nat × List Nat :=
  let alone := (es.filter fun e => !(c.frag e).frames.isEmpty).drop 1
  (es.filter (!alone.contains ·), alone)

/-- The fragment that participants fuse into: the entry of the oldest, the union of masks and scoreboards, the smallest
BUDGET (R140). -/
def joinFrags (fs : List Frag) : Frag :=
  match fs with
  | [] => {}
  | f :: t => t.foldl (fun a b =>
      { a with mask := a.mask ||| b.mask, budget := min a.budget b.budget, board := (a.board ++ b.board).eraseDups,
               frames := if a.frames.isEmpty then b.frames else a.frames }) f

/-- Fuses fragments of a wave, oldest first, and sets the result by `set`. -/
def Core.fuse (c : Core) (slot : Nat) (es : List Nat) (set : Frag → Frag) : Core :=
  match es with
  | [] => c
  | k :: rest =>
    let g := set (joinFrags (es.map c.frag))
    (rest.foldl (fun c e => c.dropFrag slot e) c).updFrag k fun _ => g

/-- The group of a wave that waits at address a, oldest first. -/
def Core.group (c : Core) (slot : Nat) (a : Addr) : List Nat :=
  (c.wave slot).order.filter fun e => (c.frag e).st == .rcvwait && (c.frag e).pc == a

/-- A fragment that leaves a timed wait where it stands. -/
def Frag.unwait (f : Frag) (st : FragSt) (pc : Addr) : Frag :=
  { f with st := st, pc := pc, timer := 0, point := 0, due := false, wait := {}, words := none, since := 0 }

/-- A group fuses and goes on after its RCV; a participant whose frames keep it out goes on alone at the wait address
(R138 to R140). Wait.n holds the RCV's length and Wait.ok its S. -/
def Core.releaseGroup (c : Core) (slot : Nat) (a : Addr) : Core :=
  let (es, alone) := c.fuseParts (c.group slot a)
  let c := c.fuse slot es fun g =>
    g.unwait (if g.wait.ok && !g.board.isEmpty then .swait else .run) (a + BitVec.ofNat 64 g.wait.n)
  alone.foldl (fun c e => c.updFrag e fun f => f.unwait .run a) c

/-- Groups that hold every live fragment of the wave fuse (R137). -/
def Core.fullGroup (c : Core) (slot : Nat) : Option Addr :=
  match c.fragsOf slot with
  | [] => none
  | (_, f) :: t => if f.st == .rcvwait && t.all (fun (_, g) => g.st == .rcvwait && g.pc == f.pc) then some f.pc else none

/-! ## Forced fuse (R141 to R143) -/

/-- Live lanes of the groups of width `n` that a fragment touches and does not run. -/
def needLanes (mask live : Mask) (n : Nat) : Mask :=
  maskOf fun l => live.getLsbD l && !mask.getLsbD l && (List.range n).any fun k => mask.getLsbD (l / n * n + k)

/-- The minimum width of the instruction a fragment waits at: the code in its extension, else the whole wave. -/
def Frag.width (f : Frag) (lanes : Nat) : Nat :=
  widthOf (match f.words with
    | some (w, some e) => if wordUni w then 5 else e.toNat % 8
    | _ => 5) lanes

/-- The lanes that a waiting fragment of a wave still needs. -/
def Core.needOf (c : Core) (slot : Nat) (f : Frag) : Mask :=
  let w := c.wave slot
  needLanes f.mask w.live (f.width w.lanes)

/-- Waiters whose groups are covered go back to RUN (R142). -/
def Core.coverWaiters (c : Core) (slot : Nat) : Core :=
  (c.fragsOf slot).foldl (fun c (e, f) =>
    if f.st == .ffwait && c.needOf slot f == 0 then c.updFrag e fun f => f.unwait .run f.pc else c) c

/-- The smaller of two TIMERs, 0 being without limit. -/
def minTimer (a b : Nat) : Nat := if a == 0 then b else if b == 0 then a else min a b

/-- FUSETO at a forced-fuse instruction that has not issued (R143): the record holds the entry as it waits. `n` is the width in lanes. -/
def State.fuseto (s : State) (w : Who) (i : Ins) (cause n : Nat) : State :=
  s.takeTrap w i { code := 8, cause := cause, lanes := (s.frag w).mask, info := (0 : BitVec 64) ++ BitVec.ofNat 32 n }

/-- A fragment waits at a forced-fuse instruction with a TIMER. -/
def Frag.atFuse (f : Frag) (i : Ins) (timer since : Nat) : Frag :=
  { f with st := .ffwait, timer := timer, due := false, since := since, words := some (i.word, i.ext) }

/-- Forced fuse before an instruction of minimum-width code `code` (R142, R143); in trap mode there is none (R304). The fragment fuses
with those that wait at the instruction, but for the ones that R140 keeps apart. -/
def State.forced (s : State) (w : Who) (i : Ins) (code : Nat) (body : State → Flow) : Flow :=
  let f := s.frag w
  let wv := s.wave w
  let n := widthOf code wv.lanes
  if f.trap.isSome then body s
  else
    let c := s.core w.core
    let es := (c.fuseParts (wv.order.filter fun e => e == w.entry || ((c.frag e).st == .ffwait && (c.frag e).pc == f.pc))).1
    if es.contains w.entry && es.length ≥ 2 then
      let time := (es.filter (· != w.entry)).foldl (fun a e => minTimer a (c.frag e).timer) wv.fuseTo
      let k := es.headD w.entry
      let s := s.setCore w.core (c.fuse w.slot es fun g => g.atFuse i time 1)
      let g := (s.core w.core).frag k
      let need := needLanes g.mask wv.live n
      .placed (if need == 0 then s.updCore w.core fun c => c.updFrag k fun g => g.unwait .run f.pc
        else if (need &&& g.held) != 0 then s.fuseto (s.whoAt w.core k) i 1 n
        else s)
    else
      let need := needLanes f.mask wv.live n
      if need == 0 then body s
      else
        let s := s.updFrag w fun f => f.atFuse i wv.fuseTo 0
        .placed (if (need &&& f.held) != 0 then s.fuseto w i 1 n else s)

/-! ## The end of lanes (R135, R445) -/

/-- Every running lane of a fragment has exited (R135 on_exit): the fragment goes on with a frame's lanes, or its entry is
free. EXIT ends the wave's idempotent region (R160). -/
def Core.exitFrag (c : Core) (slot e : Nat) : Core :=
  let f := c.frag e
  let c := c.updWave slot fun w => { w with exited := w.exited ||| f.mask, region := none }
  match f.frames with
  | [] => c.dropFrag slot e
  | fr :: rest =>
    if fr.joinset then c.updFrag e fun f => { f with mask := fr.arrived, pc := fr.join, frames := rest }
    else c.updFrag e fun f => { f with mask := fr.dmask, pc := fr.dpc, frames := rest }

/-- After a fragment of a wave has gone or changed: full groups fuse and covered waiters go on (R137, R142). -/
def Core.settle (c : Core) (slot : Nat) : Core :=
  let c := match c.fullGroup slot with
    | some a => c.releaseGroup slot a
    | none => c
  c.coverWaiters slot

/-! ## Barriers (R448 to R450) -/

/-- The live waves of a team, as core and slot. -/
def State.wavesOf (s : State) (t : Nat) : List (Nat × Nat) := (s.team t).slots.vals.map fun k => ((s.team t).core, k)

/-! ## The core's clock (R138, R139, R143, R144, R152) -/

/-- The RCV group to release when every live fragment waits: highest point, then lowest address (R139). -/
def Core.releaseChoice (c : Core) (slot : Nat) : Option Addr :=
  let fs := (c.fragsOf slot).map Prod.snd
  if !fs.isEmpty && fs.all (fun f => f.st == .rcvwait || f.st == .ffwait) then
    match fs.filter (fun f => f.st == .rcvwait) with
    | [] => none
    | f :: t => some (t.foldl (fun (a : Frag) b => if b.point > a.point || (b.point == a.point && b.pc.toNat < a.pc.toNat) then b else a) f).pc
  else none

/-- Every live fragment waits at a forced fuse: the oldest takes FUSETO (R143). -/
def Core.allForced (c : Core) (slot : Nat) : Option Nat :=
  match c.fragsOf slot with
  | [] => none
  | (e, f) :: t => if f.st == .ffwait && t.all (fun (_, g) => g.st == .ffwait) then some e else none

/-- A wave's wait timers count in this cycle (R144). -/
def Core.timersRun (c : Core) (slot : Nat) : Bool :=
  !(c.wave slot).haltReq && !((c.fragsOf slot).any fun (_, f) => f.st == .ystop)

/-- One cycle of a waiting fragment: `since` counts the cycles of its wait, TIMER those left. -/
def Core.tickFrag (c : Core) (slot e : Nat) : Core :=
  let f := c.frag e
  let run := c.timersRun slot
  let count :=
    match f.st with
    | .rcvwait => run
    | .ffwait => run && !((c.fragsOf slot).any fun (k, g) => k != e && g.st == .xlate && ((g.mask ||| g.held) &&& c.needOf slot f) != 0)
    | _ => false
  let down := count && f.since ≥ 1 && f.timer ≥ 1
  match f.st with
  | .rcvwait | .ffwait => c.updFrag e fun f =>
      { f with since := f.since + 1, timer := if down then f.timer - 1 else f.timer, due := down && f.timer == 1 }
  | .swait | .xlate | .syncwait => c.updFrag e fun f => { f with since := f.since + 1 }
  | _ => c

/-- An input that names a core and what of it. -/
def at2 (unit item : Nat) : Input := { unit := unit, item := item }

/-- What a cycle makes due in a wave, in Table 6.7's order. -/
def Core.dueOf (c : Core) (n slot : Nat) : List Turn :=
  let w := c.wave slot
  let fs := c.fragsOf slot
  let th := c.missThresh
  let miss := fs.filterMap fun (e, f) =>
    if w.som && th != 0 && f.since == th + 1 && f.trap.isNone then
      if f.st == .swait then some (Turn.event .missSplit (at2 n e))
      else if f.st == .xlate then some (Turn.event .faultSplit (at2 n e)) else none
    else none
  let rcv := fs.filterMap fun (e, f) => if f.st == .rcvwait && f.due then some (Turn.event .fuseTimeout (at2 n e)) else none
  let rel := match c.releaseChoice slot with
    | some _ => [Turn.event .reconvergenceRelease (at2 n slot)]
    | none => []
  let ff := fs.filterMap fun (e, f) => if f.st == .ffwait && f.due then some (Turn.event .fuseto (at2 n e)) else none
  let all := match c.allForced slot with
    | some e => [Turn.event .fuseto (at2 n e)]
    | none => []
  let poll := fs.filterMap fun (e, f) =>
    if f.st == .syncwait && f.wait.kind == .waitc then
      if f.since == 65536 then some (Turn.event .waitcSwapOut (at2 n e))
      else if f.since % 1024 == 0 then some (Turn.event .waitcPoll (at2 n e)) else none
    else none
  let idle := if w.idle > 32 && (c.pipe w.pipe).pool.contains slot && (c.readyOut w.pipe).isSome then [Turn.event .poolEvict (at2 n slot)] else []
  miss ++ rcv ++ rel ++ ff ++ all ++ poll ++ idle

/-- A pool with room takes the oldest ready wave outside it: R155's eventual issue asks for it, and R152 fills a pool only where a wave
starts or leaves. DEDUCED, log entry 36. -/
def Core.fillPool (c : Core) (p : Nat) : Core :=
  if (c.pipe p).pool.length < 16 then
    match c.readyOut p with
    | some k => { c with pipes := c.pipes.set p { c.pipe p with pool := (c.pipe p).pool ++ [k] } }
    | none => c
  else c

/-- One core cycle: the counters advance, and what falls due comes next. -/
def State.tickCore (s : State) (n : Nat) : State :=
  let c := s.core n
  let live := (c.waves.filter fun (_, w) => w.owed.isEmpty).map Prod.fst
  let c := live.foldl (fun c k => (c.wave k).order.foldl (fun c e => c.tickFrag k e) c) c
  let c := live.foldl (fun c k => c.updWave k fun w => { w with idle := if w.issued then 0 else min (w.idle + 1) 64, issued := false }) c
  let c := [0, 1, 2, 3].foldl Core.fillPool c
  let c := { c with cycle := c.cycle + 1 }
  (s.setCore n c).push (live.flatMap fun k => c.dueOf n k)

end Machine
end Sys2Proof
end

