-- ==== Sys2Proof/Machine/Order.lean ====
section
/-! DEFINITION. What ordered accesses, fences and waits share: scope checks and acquire records (R209 to R211), the lines an
acquire drops (R219), results that return later (R147), and leaving SYNCWAIT (R145). -/

namespace Sys2Proof
namespace Machine

/-! ## Scopes of ordered accesses -/

/-- The order and scope of a BYTE field (R198). -/
def ordOf (b : BitVec 8) : Nat := b.toNat / 32
/-- The scope index of a BYTE field. -/
def scopeOf (b : BitVec 8) : Nat := b.toNat % 32
/-- An order has a release half (release, acq_rel, seq_cst). -/
def ordRel (o : Nat) : Bool := o == 2 || o == 3 || o == 4
/-- An order has an acquire half (acquire, acq_rel, seq_cst). -/
def ordAcq (o : Nat) : Bool := o == 1 || o == 3 || o == 4

/-- SCOPESTALE (R211): the captured entry is invalid, or a release meets an acquire record of another generation. -/
def State.stale (s : State) (w : Who) (cap : Capture) (rel : Bool) (lanes : Mask) : Option Trap :=
  let info (gen : BitVec 8) : BitVec 96 := (0 : BitVec 72) ++ cap.set.gen ++ gen ++ (0 : BitVec 3) ++ BitVec.ofNat 5 cap.index
  if !cap.set.valid then some { code := 7, cause := 0, lanes := lanes, info := info (((s.wave w).acq.get? cap.index).getD 0) }
  else if rel && cap.index ≥ 5 then
    match (s.wave w).acq.get? cap.index with
    | some g => if g == cap.set.gen then none else some { code := 7, cause := 1, lanes := lanes, info := info g }
    | none => none
  else none

/-- A release that does not trap clears the entry's record (R211). -/
def Wave.clearAcq (wv : Wave) (e : Nat) : Wave := { wv with acq := wv.acq.erase e }
/-- An acquire writes the entry's record. -/
def Wave.recordAcq (wv : Wave) (cap : Capture) : Wave :=
  if cap.index < 5 then wv else { wv with acq := wv.acq.set cap.index cap.set.gen }

/-! ## The two halves of an ordered access (R219) -/

/-- A release synchronises with an acquire by a wave under a captured set as far as the inclusion rule goes: both sets contain both
parties (R213). -/
def RelRec.includes (r : RelRec) (core : Nat) (set : ScopeEntry) : Bool :=
  r.set.holds (.core core) && r.set.holds r.party && set.holds (.core core) && set.holds r.party

/-- What is known of the releases that a value read from a fabric window comes from: a peer under a system scope. -/
def peerRel : RelRec := outsideRel 0

/-- The releases with which an acquire that has read a location at a place synchronises (R213); `none` is a peer's. -/
def State.synced (s : State) (core : Nat) (set : ScopeEntry) (x : Option (Nat × Place)) : List RelRec :=
  match x with
  | none => [peerRel].filter fun r => r.includes core set
  | some (l, p) => s.rels.filter fun r => r.loc == l && r.place.same p && r.includes core set

/-- The regions of bindings whose scope contains both parties (R216). -/
def inScope (core : Nat) (p : Party) (bs : List (Binding × ScopeEntry)) : List Binding :=
  (bs.filter fun (_, x) => x.valid && x.holds (.core core) && x.holds p).map Prod.fst

/-- The lines whose writes a release makes visible to an acquire under bindings `bs`: those that the binding table placed in regions of
the object on both sides (R216), and those of a job's write footprint (R221). -/
def State.shows (s : State) (w : Who) (bs : List (Binding × ScopeEntry)) (r : RelRec) (n : Nat) : Bool :=
  (s.coversOf w.core w.ctx (inScope w.core r.party bs) n &&
    (match r.binds with
     | none => true
     | some rb => s.coversOf w.core w.ctx (inScope w.core r.party rb) n)) ||
  s.coversOf w.core w.ctx (r.foot.map fun (a, k) => { base := a, len := k }) n

/-- The acquire half of a fence (`none`) or of an access to x, with the location and place it has read (none in a fabric window). The
lines that a release makes visible to it are dropped. Where nothing is made visible, the sets or the bindings' scopes excluding a party,
R213 gives no order, and R219 drops the lines of the object's regions: a free value decides. The record is written (R211). -/
def State.acquire (s : State) (w : Who) (cap : Capture) (x : Option (Addr × Option (Nat × Place))) : State :=
  let loose := Config.dropsLoose s.free
  let s := { s with free := s.free + 1 }
  let p : Nat → Bool := match x with
    | some (a, at_) =>
      let bs := s.bound w a
      let rs := s.synced w.core cap.set at_
      fun n => rs.any (fun r => s.shows w bs r n) || (loose && s.coversOf w.core w.ctx (bs.map Prod.fst) n)
    | none => fun _ => loose || cap.set.holds (.core w.core)
  (s.acquireDrop w.core cap.set.level p).updWave w fun wv => wv.recordAcq cap

/-- The release half of a wave's fence cannot end yet: operations sent to peers are not all acknowledged, or a posted release of the wave
waits for them (R56, R219, R224). -/
def State.mustWait (s : State) (w : Who) (cap : Capture) : Bool :=
  (cap.set.hostfab && s.fabBusy w.ctx) || s.hindered w.core fun q => q.slot == w.slot

/-- The release half at once: the wave's writes are performed and raised to the level's place (R219). It cannot end while
operations to fabric windows are unacknowledged. -/
def State.drain (s : State) (w : Who) (cap : Capture) : State :=
  ((s.performWhere w.core fun p => p.slot == w.slot).cleanCore w.core cap.set.level fun _ => true).updWave w fun wv => wv.clearAcq cap.index

/-! ## Results that return later (R147, R148) -/

/-- An outstanding result of the issuing fragment; what has been written to its registers before counts no longer (R148). -/
def State.later (s : State) (w : Who) (uniform eligible : Bool) (lanes : Mask) (vals : Tbl Word) : State :=
  let (id, s) := s.fresh
  let p : Pending := { id := id, uniform := uniform, lanes := lanes, vals := vals, eligible := eligible }
  (s.updWave w fun wv =>
    { wv with pend := wv.pend ++ [p], lateV := if uniform then wv.lateV else wv.lateV.filter fun (k, _) => !(vals.get? k).isSome,
              lateG := if uniform then wv.lateG.filter fun (k, _) => !(vals.get? k).isSome else wv.lateG }).updFrag w fun f => { f with board := f.board ++ [id] }

/-- A uniform result that returns later, in one register or a pair. -/
def State.laterG (s : State) (w : Who) (vals : List (Nat × Word)) : State :=
  s.later w true false 0 (vals.foldl (fun t (i, x) => t.set i x) [])

/-- A uniform result that a wait gives: written before its fragment leaves SYNCWAIT, where it has waited, and of variable latency where it
has not (R147). -/
def State.giveG (s : State) (w : Who) (waited : Bool) (gd : Nat) (x : Word) : State :=
  if waited then s.updWave w fun wv => wv.setG gd x else s.laterG w [(gd, x)]

/-! ## Leaving SYNCWAIT -/

/-- The length and S of the instruction a fragment waits at. -/
def Frag.wordsLen (f : Frag) : Nat × Bool :=
  match f.words with
  | some (x, _) => (wordLen x, wordS x)
  | none => (4, false)

/-- A waiting fragment goes on after its instruction. -/
def State.goOn (s : State) (w : Who) : State :=
  let f := s.frag w
  let (n, sw) := f.wordsLen
  (s.fabForget (.frag w.core w.entry)).leave w sw (f.pc + BitVec.ofNat 64 n)

/-- Marks what a fragment waits for as having come. -/
def State.wake (s : State) (core entry : Nat) (ok : Bool := true) : State :=
  s.updCore core fun c => c.updFrag entry fun f => { f with wait := { f.wait with ready := true, ok := ok } }

/-- The fragment waits for an event of kind k and has not met it. -/
def Frag.waits (f : Frag) (k : WaitKind) : Bool := f.st == .syncwait && f.wait.kind == k && !f.wait.ready

/-- Wakes every fragment whose wait meets a test. -/
def State.wakeWhere (s : State) (p : Frag → Bool) : State :=
  s.cores.foldl (fun s (n, c) => c.frags.foldl (fun s (e, f) => if p f then s.wake n e else s) s) s

/-! ## Updates of the scope table (R208, R209) -/

/-- The contents that an update gives an entry: bits of retired cores and fenced dies are ignored, GEN rises by 1, and an
ill-formed or invalidated entry is not valid (R208). -/
def State.scopeContents (s : State) (old : ScopeEntry) (u : ScopeUpd) : ScopeEntry :=
  let gone := (List.range 320).foldl (fun m n =>
    if (s.core n).retired || (s.die (dieOf n)).fenced then m ||| BitVec.ofNat 320 (2 ^ n) else m) (0 : BitVec 320)
  let dead := (List.range 8).foldl (fun m d => if (s.die d).fenced then m ||| BitVec.ofNat 8 (2 ^ d) else m) (0 : BitVec 8)
  let x : ScopeEntry := { u.set with cores := u.set.cores &&& ~~~ gone, l2mask := u.set.l2mask &&& ~~~ dead, gen := old.gen + 1 }
  { x with valid := !u.inval && x.level != 0 }

/-- The dies that are not fenced: the leaves that hold copies. -/
def State.liveDies (s : State) : List Nat := (List.range 8).filter fun d => !(s.die d).fenced

/-- The first update of a context that has not begun begins: the master entry is written and multicast. -/
def State.beginScope (s : State) (c : Nat) : State :=
  match (s.ctx c).scopeUpd with
  | [] => s
  | u :: t =>
    let x := s.scopeContents ((s.ctx c).scopes.getD u.entry {}) u
    s.updCtx c fun y => { y with scopes := y.scopes.set u.entry x, scopeUpd := { u with leaves := s.liveDies } :: t }

/-- Ends the update under way once every leaf has acknowledged: its packet completes or its SCOPESET goes on, and the next
begins. -/
def State.endScope (s : State) (c : Nat) : State :=
  match (s.ctx c).scopeUpd with
  | u :: t =>
    if u.leaves.isEmpty then
      let s := s.updCtx c fun y => { y with scopeUpd := t }
      let s := s.wakeWhere fun f => f.waits .scopeUpdate && f.wait.n == u.id
      let s := match u.packet with
        | some stamp => s.completeStamp stamp .ok
        | none => s
      s.beginScope c
    else s
  | [] => s

/-- An update joins its context's: it begins at once when none is under way. -/
def State.addScopeUpd (s : State) (c : Nat) (u : ScopeUpd) : State :=
  let s' := s.updCtx c fun y => { y with scopeUpd := y.scopeUpd ++ [u] }
  if (s.ctx c).scopeUpd.isEmpty then (s'.beginScope c).endScope c else s'

/-- A die's cores take the new entry and the die acknowledges. -/
def State.scopeAck (s : State) (c d : Nat) (copy : Bool) : State :=
  match (s.ctx c).scopeUpd with
  | u :: t =>
    if u.leaves.contains d then
      let x := (s.ctx c).scopes.getD u.entry {}
      let s := if copy then (List.range 40).foldl (fun s k => s.updCore (d * 40 + k) fun y => { y with scopes := y.scopes.set (c * 256 + u.entry) x }) s else s
      (s.updCtx c fun y => { y with scopeUpd := { u with leaves := u.leaves.filter (· != d) } :: t }).endScope c
    else s
  | [] => s

/-! ## Barriers (R448 to R450) -/

/-- A wave has arrived at barrier n of a kind: it waits for no fragment entry (R125), and every live fragment waits there, its release half
drained. -/
def Core.arrived (c : Core) (slot kind n : Nat) : Bool :=
  (c.wave slot).owed.isEmpty && (c.fragsOf slot).all fun (_, f) =>
    f.st == .syncwait && f.wait.kind == .barrier && f.wait.n == n && f.wait.m == kind && f.wait.ready

/-- The teams that take part in a barrier: the team, or every member of its cluster. -/
def State.barrierTeams (s : State) (t kind : Nat) : List Nat := if kind == 0 then [t] else s.members t

/-- The barrier of a team's kind and number completes when every participant has arrived: each fragment acquires and goes
on, and the urgency counts restart. -/
def State.tryBarrier (s : State) (t kind n : Nat) : State :=
  let ws := (s.barrierTeams t kind).flatMap s.wavesOf
  if !ws.isEmpty && ws.all fun (c, k) => (s.core c).arrived k kind n then
    ws.foldl (fun s (c, k) =>
      let s := ((s.core c).wave k).order.foldl (fun s e =>
        let w := s.whoAt c e
        let f := s.frag w
        let s := if f.wait.ok then s.acquire w f.wait.cap none else s
        s.goOn w) s
      s.updCore c fun x => x.updWave k fun wv => { wv with retired := 0 }) s
  else s

/-- Tries every barrier of a team and of its cluster. -/
def State.settleBarriers (s : State) (t : Nat) : State :=
  [0, 1].foldl (fun s kind => [0, 1, 2, 3].foldl (fun s n => s.tryBarrier t kind n) s) s

/-! ## Ends of waves -/

/-- A wave whose last lane has exited ends; with its last wave the team ends (R443, R445). -/
def State.endWave (s : State) (core slot : Nat) : State :=
  let wv := (s.core core).wave slot
  let t := wv.team
  let s := s.updCore core fun c => c.removeWave slot
  let s := s.updTeam t fun tm => { tm with slots := tm.slots.erase wv.idx }
  if (s.team t).slots.isEmpty then s.endTeam t 1 false else s.settleBarriers t

/-- Results that still return to lanes that have exited are discarded (R445). -/
def Core.dropResults (c : Core) (slot : Nat) (lanes : Mask) : Core :=
  let ps := (c.wave slot).pend.map fun p => { p with lanes := p.lanes &&& ~~~ lanes }
  let gone := (ps.filter fun p => !p.uniform && p.lanes == 0).map fun p => p.id
  let c := c.updWave slot fun w => { w with pend := ps.filter fun p => !gone.contains p.id }
  (c.wave slot).order.foldl (fun c e => c.updFrag e fun f => { f with board := f.board.filter fun i => !gone.contains i }) c

/-- A fragment in SWAIT without outstanding results goes on (R145). -/
def Core.endSwait (c : Core) (slot : Nat) : Core :=
  (c.wave slot).order.foldl (fun c e => c.updFrag e fun f =>
    if f.st == .swait && f.board.isEmpty then { f with st := f.runSt, since := 0 } else f) c

/-- Every running lane of the issuing fragment exits (R445). -/
def State.exitLanes (s : State) (w : Who) : State :=
  let mask := (s.frag w).mask
  let s := s.updCore w.core fun c =>
    (((c.exitFrag w.slot w.entry).dropResults w.slot mask).endSwait w.slot).settle w.slot
  if ((s.core w.core).wave w.slot).order.isEmpty then s.endWave w.core w.slot else s.settleBarriers w.team

end Machine
end Sys2Proof
end

