-- ==== Sys2Proof/Machine/Roles.lean ====
section
/-! DEFINITION. Role binding tables: what each role is bound to, and how tables that name retired units are bound anew (R117, R118). -/

namespace Sys2Proof
namespace Machine

/-- The live bank that a bank role is bound to: the bank itself, or the next live one in ascending order modulo 16. -/
def bankOf (retired : BitVec 16) (b : Nat) : Option Nat :=
  ((List.range 16).map fun k => (b + k) % 16).find? fun n => !retired.getLsbD n

/-- Roles bound to channel ch of die d over the resident teams. -/
def State.chanRoles (s : State) (d ch : Nat) : Nat :=
  (s.teams.filter fun (_, t) => t.st == .resident && dieOf t.core == d).foldl (fun n (_, t) =>
    n + ([30, 31].filter fun r => t.roles.get? r == some (0x6000 + 16 * d + ch)).length) 0

/-- The live channel with the fewest bound roles, `extra` counting one role more on a channel. -/
def State.pickChan (s : State) (d : Nat) (extra : Option Nat) : Option Nat :=
  let n (ch : Nat) : Nat := s.chanRoles d ch + (if extra == some ch then 1 else 0)
  match (List.range 16).filter fun ch => !(s.die d).chanRetired.getLsbD ch with
  | [] => none
  | ch :: t => some (t.foldl (fun a b => if n b < n a then b else a) ch)

/-- The live engine for a quartet: its own, else the die's lowest. -/
def liveQuartet (retired : Nat → Bool) (q : Nat) : Option Nat :=
  if !retired q then some q else ((List.range 10).map fun k => q / 10 * 10 + k).find? fun k => !retired k

/-- The matrix engine that serves quartet q: its own, once that is retired the one bound in its place, itself where none is live. -/
def State.liveMatrix (s : State) (q : Nat) : Nat := (liveQuartet (fun k => (s.quartet k).mRetired) q).getD q
/-- The Indigo engine that serves quartet q. -/
def State.liveIndigo (s : State) (q : Nat) : Nat := (liveQuartet (fun k => (s.quartet k).iRetired) q).getD q

/-- Channel k of a die performs the jobs of channel ch: its own and, of retired channels, those of the channels that it replaces, whose counts
they keep (R35, R117, R231). DEDUCED, log entry 16. -/
def State.serves (s : State) (d k ch : Nat) : Bool :=
  if (s.die d).chanRetired.getLsbD ch then s.pickChan d none == some k else ch == k

/-- The unit that role 12 to 29 of a team on a core is bound to (Table 5.3). -/
def State.unitFor (s : State) (core r : Nat) : Option Nat :=
  let d := dieOf core
  let q := quartetOf core
  match r with
  | 28 => (liveQuartet (fun k => (s.quartet k).mRetired) q).map (0x4000 + ·)
  | 29 => (liveQuartet (fun k => (s.quartet k).iRetired) q).map (0x5000 + ·)
  | r => (bankOf (s.die d).bankRetired (r - 12)).map (0x1000 + 16 * d + ·)

/-- The table of a team on a core, with its cluster's cores. -/
def State.roleTable (s : State) (core : Nat) (members : List Nat) : Tbl Nat :=
  let d := dieOf core
  let ms := members.zipIdx.map fun (n, k) => (k, n)
  let us := (List.range 18).filterMap fun k => (s.unitFor core (12 + k)).map fun u => (12 + k, u)
  let c0 := s.pickChan d none
  let c1 := s.pickChan d c0
  ms ++ us ++ c0.toList.map (fun ch => (30, 0x6000 + 16 * d + ch)) ++ c1.toList.map (fun ch => (31, 0x6000 + 16 * d + ch))

/-- The unit of a number is retired. -/
def State.unitGone (s : State) (u : Nat) : Bool :=
  match u / 0x1000 with
  | 0 => (s.core u).retired
  | 1 => (s.die (u / 16 % 256)).bankRetired.getLsbD (u % 16)
  | 4 => (s.quartet (u % 0x1000)).mRetired
  | 5 => (s.quartet (u % 0x1000)).iRetired
  | 6 => (s.die (u / 16 % 256)).chanRetired.getLsbD (u % 16)
  | _ => false

/-- Binds role r of a team, 12 to 31, anew. -/
def State.rebindRole (s : State) (t r : Nat) : State :=
  let core := (s.team t).core
  let u := if r < 30 then s.unitFor core r else (s.pickChan (dieOf core) none).map (0x6000 + 16 * dieOf core + ·)
  s.updTeam t fun x => { x with roles := match u with
    | some u => x.roles.set r u
    | none => x.roles.erase r }

/-- The roles of banks, engines and channels of a team whose units are retired are bound anew, at its yield point (R118): the bindings
of members name cores, which a team leaves by being saved. -/
def State.rebind (s : State) (t : Nat) : State :=
  let gone := ((s.team t).roles.filter fun (r, u) => 12 ≤ r && s.unitGone u).map Prod.fst
  let s := if gone.isEmpty then s else s.updTeam t fun x => { x with roles := x.roles.filter fun (r, _) => !gone.contains r }
  gone.foldl (fun s r => s.rebindRole t r) s

/-- A team is on its way off its core (R35, R118): a member of its cluster stands on a retired core or one that is emptied for a self-test,
or holds an attachment to a segment that leaves a retired unit. -/
def State.mustMove (s : State) (t : Nat) : Bool :=
  let c := (s.team t).ctx
  (s.members t).any fun m =>
    let tm := s.team m
    (s.core tm.core).retired || (s.core tm.core).draining || tm.attach.any fun a => ((s.ctx c).segs.getD a.handle {}).leaving

/-- A member of a team's cluster stands on a core that is emptied for a self-test (R162). -/
def State.drains (s : State) (t : Nat) : Bool := (s.members t).any fun m => (s.core (s.team m).core).draining

/-- A team is to be saved at its next stop point: for a pre-emption request that has reached it, or because it must move (R94, R118,
R158). -/
def State.asked (s : State) (t : Nat) : Bool := (s.team t).st == .resident && ((s.team t).preempt || s.mustMove t)

end Machine
end Sys2Proof
end

