-- ==== Sys2Proof/Machine/Engine.lean ====
section
/-! DEFINITION. What the engines share: their accesses to memory (R57, R229), what a post waits for (R228), and the records
of their halts (R257). -/

namespace Sys2Proof
namespace Machine

/-- Who an engine access is for: the die, the context, the team whose windows it resolves, the client of its page requests
and peers, the level of its scope, and its launch. -/
structure Eng where
  die : Nat
  ctx : Nat
  team : Nat
  client : Client
  level : Nat := 2
  /-- the launch that writes to a peer are owed to -/
  launch : Option Nat := none
  /-- the access is the I/O die's: it translates in that die's cache (Table 3.1) -/
  io : Bool := false
  /-- the handles that the team held at the post (R167) -/
  held : List Nat := []
  deriving DecidableEq, Repr

/-- What an engine access comes to. -/
inductive EngOut (α : Type) where
  | ok (s : State) (x : α)
  /-- a translation or a peer's answer is awaited -/
  | miss (s : State)
  | fault (s : State) (pages : List Nat) (a : Addr)
  | access (s : State) (a : Addr)

/-- The translation cache and the answers that serve an engine (Table 3.1). -/
def State.leafOf (s : State) (e : Eng) : List Xlat × List Answer :=
  if e.io then (s.link.tc, s.link.answers) else ((s.die e.die).tc, (s.die e.die).answers)

/-- Translation for an engine. -/
def State.trDie (s : State) (e : Eng) (a : Addr) (wr : Bool) : Tr :=
  let (tc, as) := s.leafOf e
  s.translate e.ctx [tc] (answersOf as e.client (s.ctx e.ctx).pasid) a wr

/-- An access of an engine uses what translates it: the cache's entry becomes the most recently used one (R59), and an answer that was
not installed serves this access alone (R61). -/
def State.useDie (s : State) (e : Eng) (a : Addr) (wr : Bool) : State :=
  if e.io then s.useAnswer e.client e.ctx a wr
  else (s.hitDie e.die e.ctx a wr).updDie e.die fun d =>
    { d with answers := d.answers.filter fun y => !y.isFor e.client (s.ctx e.ctx).pasid (a.toNat / 4096) }

/-- An engine's miss asks for a translation (R60). -/
def State.engAsk (s : State) (e : Eng) (a : Addr) (wr : Bool) : State :=
  if e.io then s.askLink e.client e.ctx a wr else s.askDie e.client e.die e.ctx [a.toNat / 4096] wr

/-- The pieces of a range that lie in one 4 KiB page each: addresses and lengths. -/
def pieces : Nat → Addr → Nat → List (Addr × Nat)
  | 0, _, _ => []
  | k + 1, a, n =>
    if n == 0 then []
    else
      let m := min n (4096 - a.toNat % 4096)
      (a, m) :: pieces k (a + BitVec.ofNat 64 m) (n - m)

/-- The pieces of n bytes from a. -/
def piecesOf (a : Addr) (n : Nat) : List (Addr × Nat) := pieces (n / 4096 + 2) a n

/-- The first location of a piece, for an access whose whole range has been checked where it lies in a window. -/
def State.engLoc (s : State) (e : Eng) (a : Addr) (n : Nat) (wr : Bool) : Tr :=
  if isWindow a then
    match s.winLoc e.team none a n e.held with
    | some b => .loc b
    | none => .access
  else s.trDie e a wr

/-- Sets the full-empty bits of on-chip granules that an engine writes, after the bytes (Table 7.4). -/
def State.engFill (s : State) (loc n : Nat) : State :=
  if isChip loc then s.fill ((List.range (n / 16 + 2)).filterMap fun k =>
    if (loc / 16 + k) * 16 < loc + n then some ((loc / 16 + k) * 16) else none) else s

/-- Reads from a peer, in operations of one flit's payload each (R49): all of them go out, and the bytes come once all have answered. -/
def State.engReadPeer (s : State) (e : Eng) (win : BitVec 128) (a : Addr) (n : Nat) : Option (Option (List (Byte × Bool))) × State :=
  (chunks a n).foldl (fun (got, s) (b, m) =>
    match s.fabAccess e.client (b.toNat * 128) e.ctx win .load b m [] false with
    | (none, s) => (none, s)
    | (some r, s) => (got.map fun g => if r.refused then none else g.map fun l => l ++ r.data.map fun x => (x, r.poisoned), s))
    (some (some []), s)

/-- Reads one piece: its bytes with their poison. At level 3 or 4 device and host memory are read at the home. -/
def State.engReadPiece (s : State) (e : Eng) (a : Addr) (n : Nat) : EngOut (List (Byte × Bool)) :=
  match s.engLoc e a n false with
  | .loc l =>
    let (bs, s) := (s.useDie e a false).readBytes (engPlace e.die l e.level) (s.tagOf e.ctx) (locsFrom l n)
    .ok s bs
  | .peer w =>
    match s.engReadPeer e w a n with
    | (none, s) => .miss s
    | (some none, s) => .access s a
    | (some (some bs), s) => .ok s bs
  | .access => .access (s.useDie e a false) a
  | .fault => .fault (s.useDie e a false) [a.toNat / 4096] a
  | .miss => .miss (s.engAsk e a false)

/-- Writes one piece, poisoned bytes as poisoned (R36). -/
def State.engWritePiece (s : State) (e : Eng) (a : Addr) (bs : List (Byte × Bool)) : EngOut Unit :=
  match s.engLoc e a bs.length true with
  | .loc l =>
    let s := s.useDie e a true
    let p := engPlace e.die l e.level
    let s := (bs.zipIdx).foldl (fun s ((b, bad), i) => s.writeByte p (s.tagOf e.ctx) (l + i) b bad) s
    .ok (s.engFill l bs.length) ()
  | .peer w =>
    .ok (s.fabStore e.ctx w a (bs.map Prod.fst) false e.launch) ()
  | .access => .access (s.useDie e a true) a
  | .fault => .fault (s.useDie e a true) [a.toNat / 4096] a
  | .miss => .miss (s.engAsk e a true)

/-- The pieces of an access that do not translate yet, first of all: every page that misses is asked for, and nothing is read or written
while one is awaited. Then ACCESS at the first piece that has it, or every page that faults, which one group requests (R62). -/
def engCheck (s : State) (e : Eng) (wr : Bool) (ps : List (Addr × Nat)) : EngOut Unit :=
  let rs := ps.map fun (a, n) => (a, s.engLoc e a n wr)
  let having (t : Tr) : List Addr := (rs.filter fun (_, r) => r == t).map Prod.fst
  let used (s : State) : State := (having .fault ++ having .access).foldl (fun s a => s.useDie e a wr) s
  match having .miss, having .access, having .fault with
  | m :: ms, _, _ => .miss ((m :: ms).foldl (fun s a => s.engAsk e a wr) s)
  | [], a :: _, _ => .access (used s) a
  | [], [], a :: as => .fault (used s) ((a :: as).map fun b => b.toNat / 4096) a
  | [], [], [] => .ok s ()

/-- Reads a list of pieces. -/
def engReadList (e : Eng) : List (Addr × Nat) → State → List (Byte × Bool) → EngOut (List (Byte × Bool))
  | [], s, acc => .ok s acc
  | (a, n) :: t, s, acc =>
    match s.engReadPiece e a n with
    | .ok s bs => engReadList e t s (acc ++ bs)
    | .miss s => .miss s
    | .fault s p b => .fault s p b
    | .access s b => .access s b

/-- Reads n bytes. -/
def State.engRead (s : State) (e : Eng) (a : Addr) (n : Nat) : EngOut (List (Byte × Bool)) :=
  match engCheck s e false (piecesOf a n) with
  | .ok s _ => engReadList e (piecesOf a n) s []
  | .miss s => .miss s
  | .fault s ps b => .fault s ps b
  | .access s b => .access s b

/-- Writes a list of pieces of one string of bytes. -/
def engWriteList (e : Eng) : List (Addr × Nat) → State → List (Byte × Bool) → EngOut Unit
  | [], s, _ => .ok s ()
  | (a, n) :: t, s, bs =>
    match s.engWritePiece e a (bs.take n) with
    | .ok s _ => engWriteList e t s (bs.drop n)
    | .miss s => .miss s
    | .fault s p b => .fault s p b
    | .access s b => .access s b

/-- Writes bytes. -/
def State.engWrite (s : State) (e : Eng) (a : Addr) (bs : List (Byte × Bool)) : EngOut Unit :=
  match engCheck s e true (piecesOf a bs.length) with
  | .ok s _ => engWriteList e (piecesOf a bs.length) s bs
  | r => r

/-- Some byte read is poisoned. -/
def anyBad (bs : List (Byte × Bool)) : Bool := bs.any Prod.snd
/-- The value of bytes read. -/
def engNat (bs : List (Byte × Bool)) : Nat := leNat (bs.map Prod.fst)

/-! ## Posts (R228, R463) -/

/-- The captured scope of an instruction whose BYTE[4:0] is a scope index. -/
def State.scopeCap (s : State) (w : Who) (byte : BitVec 8) : Capture := s.capture w (byte.toNat % 32)

/-- The scope that a post captures for its job: entries 0 to 2 are resolved as entry 2 of the die (R206). -/
def State.jobCap (s : State) (w : Who) (byte : BitVec 8) : Capture :=
  let i := byte.toNat % 32
  if i ≤ 2 then { index := i, set := s.fixedScope w 2 } else s.capture w i

/-- SCOPESTALE of a post or a wait (R211, R463). -/
def State.postStale (s : State) (w : Who) (cap : Capture) : Option Flow :=
  (s.stale w cap false (s.frag w).mask).map (.trap s)

/-- A post waits until every earlier store of its fragment is performed at the place of its level, with level 1 taken as
level 2 (R228). -/
def State.postDrain (s : State) (w : Who) (cap : Capture) : State :=
  (s.performWhere w.core fun p => p.slot == w.slot).cleanCore w.core cap.engLevel fun _ => true

/-- Runs a post: its stores are drained at once, or, while the fabric owes acknowledgements that the level or a posted release needs, the
fragment waits in SYNCWAIT for POST_ACCEPT. `unit` is the unit the post goes to, bound as the instruction issues (R118). -/
def State.posting (s : State) (w : Who) (cap : Capture) (k : State → Capture → Flow) (unit : Nat := 0) : Flow :=
  let f := s.frag w
  if f.st == .syncwait && f.wait.kind == .post then
    if f.wait.ready then k (s.postDrain w f.wait.cap) f.wait.cap else .hold s
  else
    match s.postStale w cap with
    | some fl => fl
    | none =>
      if s.mustWait w cap then .wait s { kind := .post, cap := cap, n := unit }
      else k (s.postDrain w cap) cap

/-- The acquire of a wait at its captured scope (R221, R463). -/
def State.waitAcquire (s : State) (w : Who) (cap : Capture) : State := s.acquire w cap none

/-- The unit number of role entry n of the issuing team (R117). -/
def State.roleOf (s : State) (w : Who) (n : Nat) : Option Nat := (s.team w.team).roles.get? n

/-- The unit that role n is bound to where the instruction issues, and, while it waits, the one that its wait of kind k holds (R118). -/
def State.unitOf (s : State) (w : Who) (k : WaitKind) (n : Nat) : Option Nat :=
  let f := s.frag w
  if f.st == .syncwait && f.wait.kind == k then some f.wait.n else s.roleOf w n

/-- A count n has been reached (R463). -/
def reached (done n : Word) : Bool := (done - n).toNat < 2 ^ 31

/-- An ENGHALT record (R257). -/
def State.engHalt (s : State) (l unit : Nat) (addr : Addr) (code discarded tile : Nat) : State :=
  s.launchRec l 6 (unit := unit) (addr := addr) (detail := code + min discarded 255 * 256 + tile * 65536)

end Machine
end Sys2Proof
end

