-- ==== Sys2Proof/Machine/Flags.lean ====
section
/-! DEFINITION. The flag rules: how the flags and legacy classes of an instruction's active lanes become %fpflags, FPEXC or
LEGACY, and the generator step of stochastic rounding. -/

namespace Sys2Proof
namespace Machine

/-- The exception trap enables of %fpmode as flag bits (Table 13.9). -/
def Wave.enables (wv : Wave) : Fl := (0 : BitVec 2) ++ wv.fpmode.extractLsb' 8 5

/-- ORs flags into %fpflags (R338, R339). -/
def Wave.orFlags (wv : Wave) (fl : Fl) : Wave := { wv with fpflags := wv.fpflags ||| ((0 : BitVec 25) ++ fl) }

/-- The union of flags of a list of results. -/
def flagUnion (outs : List (Nat × LaneOut)) : Fl := outs.foldl (fun f (_, o) => f ||| o.fl) 0
/-- The union of legacy classes. -/
def legUnion (outs : List (Nat × LaneOut)) : BitVec 16 := outs.foldl (fun f (_, o) => f ||| o.leg) 0
/-- Lanes that raise an enabled flag (R340). -/
def Wave.excLanes (wv : Wave) (outs : List (Nat × LaneOut)) : Mask := lanesWhere outs fun o => (o.fl &&& wv.enables) != 0

/-- The lowest bit set of a legacy mask. -/
def lowBit (m : BitVec 16) : Nat := ((List.range 16).find? fun i => m.getLsbD i).getD 0

/-- The mode of an instruction's rounding field after DYN is resolved (Table 13.6). -/
def Wave.mode (wv : Wave) (rnd : BitVec 3) : Nat := if rnd == 6 then (wv.fpmode.extractLsb' 0 3).toNat else rnd.toNat

/-- The converter's state after one step of a pipe (R335). -/
def State.stepped (s : State) (w : Who) : Word := stoStep ((s.core w.core).pipe (s.wave w).pipe).sr
/-- Takes the step (R335, R376). -/
def State.takeStep (s : State) (w : Who) : State :=
  s.updCore w.core fun c =>
    { c with pipes := c.pipes.upd (c.wave w.slot).pipe {} fun p => { p with sr := stoStep p.sr } }

/-- Completes a lane computation: LEGACY before any effect (R308, R345), then the generator's step, then FPEXC, which
writes no lane and sets no flag (R340), else the writes and the flags of the active lanes (R338). -/
def State.finish (s : State) (w : Who) (sto : Bool) (outs : List (Nat × LaneOut)) : Flow :=
  let wv := s.wave w
  let legs := legUnion outs &&& (s.ctx w.ctx).legmask
  let exc := wv.excLanes outs
  if legs != 0 then
    let ls := lanesWhere outs fun o => o.leg.getLsbD (lowBit legs)
    .trap s { code := 13, cause := lowBit legs, lanes := ls, pend := exc &&& ~~~ ls }
  else
    let s := if sto then s.takeStep w else s
    if exc != 0 then .trap s { code := 14, cause := (flagUnion outs).toNat, lanes := exc }
    else .done (s.updWave w fun wv => (wv.putLanes outs).orFlags (flagUnion outs))

/-- What a computation reads beside its operands: CTX_FPMODE, the resolved mode, SAT, and the generator's state. -/
structure FEnv where
  flush : Bool := false
  nancan : Bool := false
  minmax : Nat := 0
  acc : Nat := 0
  mode : Nat := 0
  sat : Bool := false
  x : Word := 0
  deriving DecidableEq, Repr, Inhabited

/-- The environment of a lane instruction. -/
def State.fenv (s : State) (w : Who) (rnd : BitVec 3) (sat : Bool) : FEnv :=
  let c := s.ctx w.ctx
  { flush := c.flush, nancan := c.nancan, minmax := c.minmax.toNat, acc := c.acc.toNat, mode := (s.wave w).mode rnd,
    sat := sat, x := s.stepped w }

/-- Runs a per-lane computation over the active lanes: every source is read before any destination is written (R376). -/
def State.perLane (s : State) (w : Who) (act : Mask) (sto : Bool) (f : Wave → Nat → LaneOut) : Flow :=
  s.finish w sto ((lanesOf act).map fun l => (l, f (s.wave w) l))

/-- A lane instruction with an optional E-mod word whose result is its lane's alone. -/
def laneOp (i : Instr) (f : LForm) (u : SrcUse) (g : EMod → Wave → Nat → LaneOut) (s : State) :
    Host.Outcome State Fault Refusal :=
  let e := i.extL f
  issue i (opsLane u f e) (fun s w => s.perLane w (s.active w e.gsense e.guard) false (g e)) s

/-- A floating-point or conversion instruction with an optional E-mod word: `rounds` says that it rounds. -/
def laneFp (i : Instr) (f : LForm) (u : SrcUse) (rounds : Bool) (g : EMod → FEnv → Wave → Nat → LaneOut) (s : State) :
    Host.Outcome State Fault Refusal :=
  let e := i.extL f
  issue i (opsLane u f e) (fun s w =>
    let n := s.fenv w e.rnd e.sat
    s.perLane w (s.active w e.gsense e.guard) (rounds && n.mode == 5) (g e n)) s

/-- A lane form marked (I): guard p0 (R384). -/
def laneImm (i : Instr) (f : LImm) (a : Bool) (g : Wave → Nat → LaneOut) (s : State) : Host.Outcome State Fault Refusal :=
  issue i (opsImm a f.va f.imm) (fun s w => s.perLane w (s.active w false 0) false g) s

/-- A lane form marked (F) (R391), with the low word of its converted immediate, and whether it adds the old destination. -/
def laneFlt (i : Instr) (f : LFlt) (b : Word) (c rounds : Bool) (g : FEnv → Wave → Nat → LaneOut) (s : State) :
    Host.Outcome State Fault Refusal :=
  issue i (opsFlt f b c) (fun s w =>
    let n := s.fenv w f.f.rnd f.f.sat
    s.perLane w (s.active w f.f.gsense f.f.guard) (rounds && n.mode == 5) (g n)) s

end Machine
end Sys2Proof
end

