-- ==== Sys2Proof/Machine/LaneInt.lean ====
section
/-! DEFINITION. The integer lane instructions (R378 to R384, Tables 15.1 and 15.2) and the moves of R364 and R383. -/

namespace Sys2Proof
namespace Machine

/-! ## Integer functions -/

/-- A format code of a signed integer (Table 13.1). -/
def signedFmt (c : Nat) : Bool := c < 4 || c == 8
/-- The integer a source stands for under a format's signedness (R321). -/
def extBy (sg : Bool) (bits x : Nat) : Int := if sg then toSigned bits x else ((x % 2 ^ bits : Nat) : Int)

/-- An exact integer as a result: saturated with SAT set where the clamp changes it, or its low bits (R321, R379). -/
def intOut (sg : Bool) (bits : Nat) (sat : Bool) (vd : Nat) (x : Int) : LaneOut :=
  let c := clampI (intRange bits sg).1 (intRange bits sg).2 x
  if sat then { v := regWords bits vd (wrapN bits c), fl := if c == x then 0 else Fl.sat }
  else { v := regWords bits vd (wrapN bits x) }

/-- R379: one exact function of a, b and c, then one saturation or wrap. -/
def intFn (h : Nat → Int → Int → Int → Int) (f : LForm) (e : EMod) (wv : Wave) (l : Nat) : LaneOut :=
  let bits := fmtBits e.fmt.toNat
  let sg := signedFmt e.fmt.toNat
  intOut sg bits e.sat f.vd.toNat
    (h bits (extBy sg bits (wv.src false bits l f.va.toNat)) (extBy sg bits (wv.src e.usrc bits l f.vb.toNat))
      (extBy sg bits (wv.src false bits l e.src3.toNat)))

/-- A function of a, b and c as bit strings of the format's width (R381, R382). -/
def bitFn (h : EMod → Nat → Nat → Nat → Nat → Nat) (f : LForm) (e : EMod) (wv : Wave) (l : Nat) : LaneOut :=
  let bits := fmtBits e.fmt.toNat
  { v := regWords bits f.vd.toNat (h e bits (wv.src false bits l f.va.toNat) (wv.src e.usrc bits l f.vb.toNat)
      (wv.src false bits l e.src3.toNat)) }

/-- R381: a count of a's bits, in a 32-bit destination. -/
def countFn (h : Nat → Nat → Nat) (f : LForm) (e : EMod) (wv : Wave) (l : Nat) : LaneOut :=
  let bits := fmtBits e.fmt.toNat
  { v := regWords 32 f.vd.toNat (h bits (wv.src false bits l f.va.toNat)) }

/-- Shift right with bit N - 1 entering. -/
def sarN (bits a s : Nat) : Nat := wrapN bits (toSigned bits a / (2 ^ s : Int))
/-- Rotate left. -/
def rotN (bits a s : Nat) : Nat := (a * 2 ^ s + a / 2 ^ (bits - s)) % 2 ^ bits
/-- Leading zeros. -/
def clzN (bits a : Nat) : Nat := if a == 0 then bits else bits - 1 - Nat.log2 a
/-- Bits in reverse. -/
def brevN : Nat → Nat → Nat
  | 0, _ => 0
  | n + 1, a => a % 2 * 2 ^ n + brevN n (a / 2)
/-- Bit by bit, the truth table's answer for a, b and c. -/
def lop3N (t : Nat) : Nat → Nat → Nat → Nat → Nat
  | 0, _, _, _ => 0
  | n + 1, a, b, c => t / 2 ^ (a % 2 + 2 * (b % 2) + 4 * (c % 2)) % 2 + 2 * lop3N t n (a / 2) (b / 2) (c / 2)
/-- Position and end of the field that b names (R382). -/
def fieldOf (bits b : Nat) : Nat × Nat :=
  let pos := b % 64 % bits
  (pos, min (pos + min (b / 256 % 128) bits) bits)
/-- BFX: the field, its top bit filling the upper bits under an i format; an empty field gives 0. -/
def bfxN (sg : Bool) (bits a b : Nat) : Nat :=
  let (pos, e) := fieldOf bits b
  let n := e - pos
  let x := a / 2 ^ pos % 2 ^ n
  if sg && n != 0 then wrapN bits (toSigned n x) else x
/-- BFI: c with the field replaced by the low bits of a. -/
def bfiN (bits a b c : Nat) : Nat :=
  let (pos, e) := fieldOf bits b
  let n := e - pos
  c % 2 ^ pos + a % 2 ^ n * 2 ^ pos + c / 2 ^ e * 2 ^ e
/-- One byte of PRMT. -/
def prmtByte (a b s : Nat) : Nat :=
  let j := s % 8
  let src := (if j < 4 then a / 256 ^ j else b / 256 ^ (j - 4)) % 256
  let x := if s / 8 % 2 == 1 then 0 else if s / 16 % 2 == 1 then (if src ≥ 128 then 255 else 0) else src
  if s / 32 % 2 == 1 then 255 - x else x
/-- PRMT (R382). -/
def prmtN (a b c : Nat) : Nat :=
  (List.range 4).foldl (fun acc k => acc + prmtByte a b (c / 256 ^ k % 256) * 256 ^ k) 0
/-- The conditions of ICMP and GCMP (R378). -/
def condI (c : Nat) (a b : Int) : Bool :=
  match c with
  | 0 => a == b | 1 => a != b | 2 => a < b | 3 => a ≤ b | 4 => a > b | _ => a ≥ b

/-- An (I) form: the immediate is b, at 32 bits without saturation (R384). -/
def immFn (sg : Bool) (h : Int → Int → Int) (f : LImm) (wv : Wave) (l : Nat) : LaneOut :=
  intOut sg 32 false f.vd.toNat (h (extBy sg 32 (wv.vreg l f.va.toNat).toNat) (extBy sg 32 f.imm.toNat))
/-- A logical (I) form. -/
def immBits (h : Word → Word → Word) (f : LImm) (wv : Wave) (l : Nat) : LaneOut :=
  { v := [(f.vd.toNat, h (wv.vreg l f.va.toNat) f.imm)] }

/-! ## Meanings -/

/-- IADD: a + b. -/
def execIadd (f : LForm) (s : State) := laneOp (.iadd f) f { a := true, b := true } (intFn (fun _ a b _ => a + b) f) s
/-- IADD (I). -/
def execIaddI (f : LImm) (s : State) := laneImm (.iaddI f) f true (immFn true (fun a b => a + b) f) s
/-- IADDC (R380): with p0, no carry comes in and the carry out is discarded. -/
def execIaddc (f : LForm) (s : State) :=
  laneOp (.iaddc f) f { a := true, b := true } (fun e wv l =>
    let pc := e.src3.toNat % 8
    let ci := if pc == 0 then 0 else if wv.pred l pc then 1 else 0
    let x := wv.src false 32 l f.va.toNat + wv.src e.usrc 32 l f.vb.toNat + ci
    { v := [(f.vd.toNat, BitVec.ofNat 32 x)], p := some (pc, x ≥ 2 ^ 32) }) s
/-- ISUB: a - b. -/
def execIsub (f : LForm) (s : State) := laneOp (.isub f) f { a := true, b := true } (intFn (fun _ a b _ => a - b) f) s
/-- IMUL: a × b. -/
def execImul (f : LForm) (s : State) := laneOp (.imul f) f { a := true, b := true } (intFn (fun _ a b _ => a * b) f) s
/-- IMULH: floor(a × b ÷ 2^N). -/
def execImulh (f : LForm) (s : State) :=
  laneOp (.imulh f) f { a := true, b := true } (intFn (fun n a b _ => a * b / (2 ^ n : Int)) f) s
/-- IMAD: a × b + c. -/
def execImad (f : LForm) (s : State) :=
  laneOp (.imad f) f { a := true, b := true, c := true } (intFn (fun _ a b c => a * b + c) f) s
/-- IMIN. -/
def execImin (f : LForm) (s : State) := laneOp (.imin f) f { a := true, b := true } (intFn (fun _ a b _ => min a b) f) s
/-- IMAX. -/
def execImax (f : LForm) (s : State) := laneOp (.imax f) f { a := true, b := true } (intFn (fun _ a b _ => max a b) f) s
/-- IABS. -/
def execIabs (f : LForm) (s : State) := laneOp (.iabs f) f { a := true } (intFn (fun _ a _ _ => (a.natAbs : Int)) f) s
/-- AND. -/
def execAnd (f : LForm) (s : State) := laneOp (.and f) f { a := true, b := true } (bitFn (fun _ _ a b _ => a &&& b) f) s
/-- OR. -/
def execOr (f : LForm) (s : State) := laneOp (.or f) f { a := true, b := true } (bitFn (fun _ _ a b _ => a ||| b) f) s
/-- XOR. -/
def execXor (f : LForm) (s : State) := laneOp (.xor f) f { a := true, b := true } (bitFn (fun _ _ a b _ => a ^^^ b) f) s
/-- LOP3: the table in BYTE, 0 without an extension word (R381). -/
def execLop3 (f : LForm) (s : State) :=
  laneOp (.lop3 f) f { a := true, b := true, c := true } (bitFn (fun e n a b c => lop3N e.byte.toNat n a b c) f) s
/-- SHL. -/
def execShl (f : LForm) (s : State) :=
  laneOp (.shl f) f { a := true, b := true } (bitFn (fun _ n a b _ => a * 2 ^ (b % n) % 2 ^ n) f) s
/-- SHR. -/
def execShr (f : LForm) (s : State) :=
  laneOp (.shr f) f { a := true, b := true } (bitFn (fun _ n a b _ => a / 2 ^ (b % n)) f) s
/-- SAR. -/
def execSar (f : LForm) (s : State) :=
  laneOp (.sar f) f { a := true, b := true } (bitFn (fun _ n a b _ => sarN n a (b % n)) f) s
/-- ROT: left, or right when MOD[0] is 1. -/
def execRot (f : LForm) (s : State) :=
  laneOp (.rot f) f { a := true, b := true } (bitFn (fun e n a b _ =>
    rotN n a (if e.mod.getLsbD 0 then (n - b % n) % n else b % n)) f) s
/-- BFX. -/
def execBfx (f : LForm) (s : State) :=
  laneOp (.bfx f) f { a := true, b := true } (bitFn (fun e n a b _ => bfxN (signedFmt e.fmt.toNat) n a b) f) s
/-- BFI. -/
def execBfi (f : LForm) (s : State) :=
  laneOp (.bfi f) f { a := true, b := true, c := true } (bitFn (fun _ n a b c => bfiN n a b c) f) s
/-- POPC. -/
def execPopc (f : LForm) (s : State) := laneOp (.popc f) f { a := true } (countFn popNat f) s
/-- CLZ. -/
def execClz (f : LForm) (s : State) := laneOp (.clz f) f { a := true } (countFn clzN f) s
/-- BREV. -/
def execBrev (f : LForm) (s : State) := laneOp (.brev f) f { a := true } (bitFn (fun _ n a _ _ => brevN n a) f) s
/-- PRMT. -/
def execPrmt (f : LForm) (s : State) :=
  laneOp (.prmt f) f { a := true, b := true, c := true } (fun e wv l =>
    { v := [(f.vd.toNat, BitVec.ofNat 32 (prmtN (wv.src false 32 l f.va.toNat) (wv.src e.usrc 32 l f.vb.toNat)
        (wv.src false 32 l e.src3.toNat)))] }) s
/-- ICMP (R383). -/
def execIcmp (f : LForm) (s : State) :=
  laneOp (.icmp f) f { a := true, b := true } (fun e wv l =>
    let bits := fmtBits e.fmt.toNat
    let sg := signedFmt e.fmt.toNat
    { p := some (f.vd.toNat % 8, condI e.mod.toNat (extBy sg bits (wv.src false bits l f.va.toNat))
        (extBy sg bits (wv.src e.usrc bits l f.vb.toNat))) }) s
/-- SEL (R383). -/
def execSel (f : LForm) (s : State) :=
  laneOp (.sel f) f { a := true, b := true } (fun e wv l =>
    let bits := fmtBits e.fmt.toNat
    { v := regWords bits f.vd.toNat
        (if wv.pred l (e.src3.toNat % 8) then wv.src false bits l f.va.toNat else wv.src e.usrc bits l f.vb.toNat) }) s
/-- MOV (R383). -/
def execMov (f : LForm) (s : State) := laneOp (.mov f) f { b := true } (bitFn (fun _ _ _ b _ => b) f) s
/-- MOV of %laneid or %quadid (R364). -/
def execMovSpecial (f : LForm) (s : State) :=
  laneOp (.movSpecial f) f {} (fun _ _ l =>
    { v := [(f.vd.toNat, BitVec.ofNat 32 (if f.vb == 0 then l else l / 4))] }) s
/-- MOVI. -/
def execMovi (f : LImm) (s : State) := laneImm (.movi f) f false (fun _ _ => { v := [(f.vd.toNat, f.imm)] }) s
/-- IMUL (I). -/
def execImulI (f : LImm) (s : State) := laneImm (.imulI f) f true (immFn true (fun a b => a * b) f) s
/-- AND (I). -/
def execAndI (f : LImm) (s : State) := laneImm (.andI f) f true (immBits (fun a b => a &&& b) f) s
/-- OR (I). -/
def execOrI (f : LImm) (s : State) := laneImm (.orI f) f true (immBits (fun a b => a ||| b) f) s
/-- XOR (I). -/
def execXorI (f : LImm) (s : State) := laneImm (.xorI f) f true (immBits (fun a b => a ^^^ b) f) s
/-- ICMP (I): the condition in VB[2:0], n32 under VB[3] (R384). -/
def execIcmpI (f : LImm) (s : State) :=
  laneImm (.icmpI f) f true (fun wv l =>
    let sg := !f.vb.getLsbD 3
    { p := some (f.vd.toNat % 8, condI (f.vb.toNat % 8) (extBy sg 32 (wv.vreg l f.va.toNat).toNat) (extBy sg 32 f.imm.toNat)) }) s
/-- IMIN (I). -/
def execIminI (f : LImm) (s : State) := laneImm (.iminI f) f true (immFn (!f.vb.getLsbD 3) (fun a b => min a b) f) s
/-- IMAX (I). -/
def execImaxI (f : LImm) (s : State) := laneImm (.imaxI f) f true (immFn (!f.vb.getLsbD 3) (fun a b => max a b) f) s

end Machine
end Sys2Proof
end

