-- ==== Sys2Proof/Machine/UniAlu.lean ====
section
/-! DEFINITION. The uniform ALU instructions (R433 to R435, Table 17.1). -/

namespace Sys2Proof
namespace Machine

/-- A uniform instruction with an optional E-mod word: under a guard that is false at its issue it only issues (R432). -/
def uniOp (i : Instr) (f : UForm) (u : SrcUse) (body : EMod → State → Who → Flow) (s : State) : Host.Outcome State Fault Refusal :=
  let e := i.extU f
  issue i (opsUni u f e) (fun s w => if (s.frag w).again || (s.wave w).uguard e then body e s w else .done s) s

/-- Writes a uniform result of `bits` bits. -/
def Wave.putG (wv : Wave) (bits n x : Nat) : Wave := (regWords bits n x).foldl (fun wv (i, v) => wv.setG i v) wv

/-- A uniform result that is a function of a and b as bit strings. -/
def uniFn (h : EMod → Nat → Nat → Nat → Nat) (f : UForm) (e : EMod) (s : State) (w : Who) : Flow :=
  let bits := fmtBits e.fmt.toNat
  let wv := s.wave w
  .done (s.updWave w fun x => x.putG bits f.gd.toNat (h e bits (wv.usrcG bits f.ga.toNat) (wv.usrcG bits f.gb.toNat) % 2 ^ bits))

/-- A uniform form with an immediate, at 32 bits (R435). -/
def uniImm (i : Instr) (f : UImm) (a : Bool) (h : Nat → Nat → Nat) (s : State) : Host.Outcome State Fault Refusal :=
  issue i (opsUImm a f) (fun s w =>
    .done (s.updWave w fun x => x.putG 32 f.gd.toNat (h (x.greg f.ga.toNat).toNat f.imm.toNat % 2 ^ 32))) s

/-- a - b in N bits. -/
def subN (bits a b : Nat) : Nat := (a + (2 ^ bits - b % 2 ^ bits)) % 2 ^ bits
/-- Shift right, arithmetic with .a. -/
def gshrN (arith : Bool) (bits a b : Nat) : Nat := if arith then sarN bits a (b % bits) else a / 2 ^ (b % bits)

/-- GADD. -/
def execGadd (f : UForm) (s : State) := uniOp (.gadd f) f { a := true, b := true } (uniFn (fun _ _ a b => a + b) f) s
/-- GADD (I). -/
def execGaddI (f : UImm) (s : State) := uniImm (.gaddI f) f true (fun a b => a + b) s
/-- GSUB. -/
def execGsub (f : UForm) (s : State) := uniOp (.gsub f) f { a := true, b := true } (uniFn (fun _ n a b => subN n a b) f) s
/-- GSUB (I). -/
def execGsubI (f : UImm) (s : State) := uniImm (.gsubI f) f true (subN 32) s
/-- GMUL. -/
def execGmul (f : UForm) (s : State) := uniOp (.gmul f) f { a := true, b := true } (uniFn (fun _ _ a b => a * b) f) s
/-- GMUL (I). -/
def execGmulI (f : UImm) (s : State) := uniImm (.gmulI f) f true (fun a b => a * b) s
/-- GAND. -/
def execGand (f : UForm) (s : State) := uniOp (.gand f) f { a := true, b := true } (uniFn (fun _ _ a b => a &&& b) f) s
/-- GAND (I). -/
def execGandI (f : UImm) (s : State) := uniImm (.gandI f) f true (fun a b => a &&& b) s
/-- GOR. -/
def execGor (f : UForm) (s : State) := uniOp (.gor f) f { a := true, b := true } (uniFn (fun _ _ a b => a ||| b) f) s
/-- GOR (I). -/
def execGorI (f : UImm) (s : State) := uniImm (.gorI f) f true (fun a b => a ||| b) s
/-- GXOR. -/
def execGxor (f : UForm) (s : State) := uniOp (.gxor f) f { a := true, b := true } (uniFn (fun _ _ a b => a ^^^ b) f) s
/-- GXOR (I). -/
def execGxorI (f : UImm) (s : State) := uniImm (.gxorI f) f true (fun a b => a ^^^ b) s
/-- GSHL. -/
def execGshl (f : UForm) (s : State) := uniOp (.gshl f) f { a := true, b := true } (uniFn (fun _ n a b => a * 2 ^ (b % n)) f) s
/-- GSHL (I). -/
def execGshlI (f : UImm) (s : State) := uniImm (.gshlI f) f true (fun a b => a * 2 ^ (b % 32)) s
/-- GSHR: arithmetic when MOD[0] is 1. -/
def execGshr (f : UForm) (s : State) :=
  uniOp (.gshr f) f { a := true, b := true } (uniFn (fun e n a b => gshrN (e.mod.getLsbD 0) n a b) f) s
/-- GSHR (I): arithmetic when GB[0] is 1. -/
def execGshrI (f : UImm) (s : State) := uniImm (.gshrI f) f true (gshrN (f.gb.getLsbD 0) 32) s
/-- GCMP: qd takes the condition; a write to q0 is ignored. -/
def execGcmp (f : UForm) (s : State) :=
  uniOp (.gcmp f) f { a := true, b := true } (fun e s w =>
    let bits := fmtBits e.fmt.toNat
    let sg := signedFmt e.fmt.toNat
    let wv := s.wave w
    let t := condI e.mod.toNat (extBy sg bits (wv.usrcG bits f.ga.toNat)) (extBy sg bits (wv.usrcG bits f.gb.toNat))
    .done (s.updWave w fun x => x.setQ (f.gd.toNat % 8) t)) s
/-- GCMP (I): the condition in GB[2:0], n32 under GB[3]. -/
def execGcmpI (f : UImm) (s : State) :=
  issue (.gcmpI f) (opsUImm true f) (fun s w =>
    let sg := !f.gb.getLsbD 3
    let t := condI (f.gb.toNat % 8) (extBy sg 32 ((s.wave w).greg f.ga.toNat).toNat) (extBy sg 32 f.imm.toNat)
    .done (s.updWave w fun x => x.setQ (f.gd.toNat % 8) t)) s
/-- GSEL. -/
def execGsel (f : UForm) (s : State) :=
  uniOp (.gsel f) f { a := true, b := true } (fun e s w =>
    let bits := fmtBits e.fmt.toNat
    let wv := s.wave w
    let x := if wv.qpred (e.src3.toNat % 8) then wv.usrcG bits f.ga.toNat else wv.usrcG bits f.gb.toNat
    .done (s.updWave w fun wv => wv.putG bits f.gd.toNat x)) s
/-- GMOV. -/
def execGmov (f : UForm) (s : State) := uniOp (.gmov f) f { b := true } (uniFn (fun _ _ _ b => b) f) s
/-- GMOVI. -/
def execGmovi (f : UImm) (s : State) := uniImm (.gmovi f) f false (fun _ b => b) s

end Machine
end Sys2Proof
end

