-- ==== Sys2Proof/Machine/CopyTask.lean ====
section
/-! DEFINITION. Copy channels and the task scheduler: cards, records, edges, the walk of a chain, halts, arms and releases
(R220 to R241, R257), and the instructions CPYGO, CPYWT, TASKPOST and TASKWT (R471 to R475). -/

namespace Sys2Proof
namespace Machine

/-! ## Cards (R226, R227, R229) -/

/-- Field of n bits at bit `lo`. -/
def bitsAt (x lo n : Nat) : Nat := x / 2 ^ lo % 2 ^ n

/-- The fields of a job card (Table 9.1). -/
structure Card where
  kind : Nat
  ver : Nat
  scope : Nat
  nread : Nat
  nwrite : Nat
  dectask : Option Nat
  head : Addr
  tasknum : Nat
  init : Nat
  pkt : Addr
  regions : List Region6
  rsv : Bool
  deriving DecidableEq, Repr

/-- The card of 128 bytes. -/
def cardOf (bs : List Byte) : Card :=
  let x := leNat bs
  let nr := bitsAt x 13 3
  let nw := bitsAt x 16 2
  let used := List.range (min nr 4) ++ (List.range (min nw 2)).map (· + 4)
  let task := bitsAt x 0 4 == 2
  { kind := bitsAt x 0 4, ver := bitsAt x 4 4, scope := bitsAt x 8 5, nread := nr, nwrite := nw,
    dectask := if bitsAt x 44 1 == 1 then some (bitsAt x 32 12) else none, head := BitVec.ofNat 64 (bitsAt x 64 64),
    tasknum := bitsAt x 896 12, init := bitsAt x 912 16, pkt := BitVec.ofNat 64 (bitsAt x 960 64),
    regions := used.map fun i => { base := BitVec.ofNat 64 (bitsAt x (128 * i + 128) 64), len := bitsAt x (128 * i + 192) 40, write := i ≥ 4 },
    rsv := bitsAt x 18 14 != 0 || bitsAt x 45 19 != 0 || used.any (fun i => bitsAt x (128 * i + 232) 24 != 0) ||
      (if task then bitsAt x 64 64 != 0 || bitsAt x 908 4 != 0 || bitsAt x 928 32 != 0 else bitsAt x 896 128 != 0) }

/-- The engine of a die acting for a job, at its post's captured scope. -/
def jobEng (d : Nat) (j : Job) : Eng :=
  { die := d, ctx := j.ctx, team := j.team, client := .job d j.id, level := j.cap.engLevel, launch := some j.launch, held := j.held }

/-- A window range fails its check against the posting team, with the handles that it held at the post (R167, R229). -/
def State.badWin (s : State) (j : Job) (a : Addr) (n : Nat) : Bool := isWindow a && (s.winLoc j.team none a n j.held).isNone

/-- The lowest of a list of codes. -/
def lowestCode : List Nat → Option Nat
  | [] => none
  | c :: t => some (t.foldl min c)

/-- Codes of Table 9.7 that a card meets. A HEAD of 0 is an empty chain (R235). -/
def State.cardCodes (s : State) (j : Job) (c : Card) : List Nat :=
  (if c.kind != (if j.task then 2 else 1) || c.ver != 1 || c.scope != j.cap.index then [1] else []) ++
  (if c.rsv then [2] else []) ++
  (if (if j.task then c.pkt else c.head).toNat % 64 != 0 then [3] else []) ++
  (if c.nread > 4 || c.nwrite == 3 || c.regions.any (fun r => r.len == 0 || r.base.toNat + r.len > 2 ^ 64) then [5] else []) ++
  (if c.regions.any (fun r => s.badWin j r.base r.len) || s.badWin j (if j.task then c.pkt else c.head) 64 then [8] else [])

/-- Changes job `id` of a die. -/
def State.updJob (s : State) (d id : Nat) (f : Job → Job) : State :=
  s.updDie d fun x => { x with jobs := x.jobs.map fun j => if j.id == id then f j else j }
/-- Job `id` of a die. -/
def State.job (s : State) (d id : Nat) : Option Job := (s.die d).jobs.find? fun j => j.id == id

/-- What reading a card comes to. -/
inductive CardOut where
  | ok (s : State) (j : Job) (c : Card)
  | wait (s : State)
  | fault (s : State) (pages : List Nat)
  | bad (s : State) (code : Nat) (a : Addr)

/-- Reads a job's card once, with its footprint (R220, R226). A card that is not aligned is not read; poisoned bytes of a
card count as ACCESS. -/
def State.readCard (s : State) (d : Nat) (j : Job) : CardOut :=
  if !j.cardBytes.isEmpty then .ok s j (cardOf j.cardBytes)
  else if j.card.toNat % 128 != 0 then .bad s 3 j.card
  else
    match s.engRead (jobEng d j) j.card 128 with
    | .miss s => .wait s
    | .fault s ps _ => .fault s ps
    | .access s a => .bad s 9 a
    | .ok s bs =>
      let s := s.fabForget (.job d j.id)
      if anyBad bs then .bad s 9 j.card
      else
        let c := cardOf (bs.map Prod.fst)
        let j := { j with cardBytes := bs.map Prod.fst, regions := c.regions, dectask := c.dectask, tasknum := c.tasknum, recA := c.head }
        .ok (s.updJob d j.id fun _ => j) j c

/-! ## Edges (R222) -/

/-- Two regions overlap. -/
def Region6.meets (a b : Region6) : Bool := a.base.toNat < b.base.toNat + b.len && b.base.toNat < a.base.toNat + a.len
/-- A job must wait for an earlier one: one of them writes what the other reads or writes. -/
def edge (i j : List Region6) : Bool := i.any fun a => j.any fun b => (a.write || b.write) && a.meets b

/-- The jobs of its context that a die tracks before job j and that have not ended. -/
def State.earlier (s : State) (d : Nat) (j : Job) : List Job :=
  (s.die d).jobs.filter fun i => i.ctx == j.ctx && i.id < j.id && !i.ended

/-- The cards of the earlier jobs are read for their footprints; a card that cannot be read yet leaves the edge undecided. -/
def readEarlier (d : Nat) : List Job → State → State × Bool
  | [], s => (s, true)
  | i :: t, s =>
    match s.readCard d i with
    | .ok s _ _ => readEarlier d t s
    | .bad s _ _ => readEarlier d t s
    | .wait s => ((readEarlier d t s).1, false)
    | .fault s _ => ((readEarlier d t s).1, false)

/-- Job j, whose footprint is known, may begin. -/
def State.mayBegin (s : State) (d : Nat) (j : Job) : State × Bool :=
  let (s, known) := readEarlier d (s.earlier d j) s
  (s, known && !((s.earlier d j).any fun i => edge i.regions j.regions))

/-! ## The ends of jobs (R231, R237) -/

/-- Key of a channel's counts for a context. -/
def chanKey (ch c : Nat) : Nat := ch * 64 + c
/-- The counts of a channel for a context. -/
def State.chan (s : State) (d ch c : Nat) : Chan := (s.die d).chans.getD (chanKey ch c) {}
/-- Changes the counts. -/
def State.updChan (s : State) (d ch c : Nat) (f : Chan → Chan) : State :=
  s.updDie d fun x => { x with chans := x.chans.set (chanKey ch c) (f (x.chans.getD (chanKey ch c) {})) }

/-- Takes the ended jobs at the head of a channel's context off, and counts them. -/
def countEnded (ch c : Nat) : List Job → List Job × Nat
  | [] => ([], 0)
  | j :: t =>
    if j.task || j.chan != ch || j.ctx != c then let (l, n) := countEnded ch c t; (j :: l, n)
    else if j.ended then let (l, n) := countEnded ch c t; (l, n + 1)
    else (j :: t, 0)

/-- DONE advances over the jobs that have ended in post order (R231). -/
def State.settleChan (s : State) (d ch c : Nat) : State :=
  let (l, n) := countEnded ch c (s.die d).jobs
  (s.updDie d fun x => { x with jobs := l }).updChan d ch c fun x => { x with done := x.done + BitVec.ofNat 32 n }

/-- The location of an address that a party on a die writes holds its release (R213, R221), with its write footprint. -/
def State.dieRelease (s : State) (e : Eng) (set : ScopeEntry) (a : Addr) (foot : List (Addr × Nat)) : State :=
  match s.engLoc e a 1 true with
  | .loc l => s.noteRelease { loc := l, place := engPlace e.die l e.level, party := .die e.die, set := set, foot := foot }
  | _ => s

/-- The regions that a job may write. -/
def Job.writes (j : Job) : List (Addr × Nat) := (j.regions.filter fun r => r.write).map fun r => (r.base, r.len)

/-- A job ends: completed, or failed or discarded (R237). -/
def State.endJob (s : State) (d : Nat) (j : Job) (ok : Bool) : State :=
  let s := s.fabForget (.job d j.id)
  let s := if j.task then s.updDie d fun x => { x with jobs := x.jobs.filter fun i => i.id != j.id }
    else
      let s := s.updJob d j.id fun i => { i with ended := true, running := false, slow := false, parked := false }
      let s := if ok then s else s.updChan d j.chan j.ctx fun x => { x with failed := true }
      s.settleChan d j.chan j.ctx
  let s := match (if ok then j.dectask else none) with
    | none => s
    | some t => s.updCtx j.ctx fun x => { x with tasks := x.tasks.upd t {} fun k => { k with count := k.count - 1 } }
  (s.unowe j.team).subCount j.launch 1

/-- An ill-formed card or record halts the jobs of its context on its channel: it and those queued behind it are discarded
(R257). -/
def State.haltJob (s : State) (d : Nat) (j : Job) (code : Nat) (a : Addr) : State :=
  let gone := if j.task then [j] else
    (s.die d).jobs.filter fun i => !i.task && i.chan == j.chan && i.ctx == j.ctx && i.id ≥ j.id && !i.ended && (i.id == j.id || (!i.slow && !i.running))
  let s := s.engHalt j.launch (0x8000 + d) a code gone.length (if j.task then 0 else j.chan)
  gone.foldl (fun s i => s.endJob d i false) s

/-- A job on the slow path fails: SLOWFAIL with the failing address, and FAULT (R237). -/
def State.failJob (s : State) (d : Nat) (j : Job) (a : Addr) : State :=
  ((s.launchRec j.launch 7 (addr := a)).blame j.launch .fault).endJob d j false

/-- A job parks at a page fault (R62, R236); at its 16th round the fault counts as ACCESS (R64). -/
def State.parkJob (s : State) (d : Nat) (j : Job) (pages : List Nat) (wr : Bool) : State :=
  (s.updJob d j.id fun i => { i with parked := true }).parkGroup (.job d j.id) j.ctx pages wr j.launch

/-! ## Transfer records (R232 to R234) -/

/-- The fields of a transfer record (Table 9.2). -/
structure TRec where
  own : Bool
  next : Addr
  word0 : Nat
  op : Nat
  esize : Nat
  src : Addr
  dst : Addr
  len0 : Nat
  cnt1 : Nat
  cnt2 : Nat
  bound : Nat
  sstr1 : Int
  sstr2 : Int
  dstr1 : Int
  dstr2 : Int
  idx : Addr
  cnt : Addr
  rsv : Bool
  deriving DecidableEq, Repr

/-- The record of 64 bytes. -/
def recOf (bs : List Byte) : TRec :=
  let x := leNat bs
  let i32 (lo : Nat) : Int := toSigned 32 (bitsAt x lo 32)
  { own := bitsAt x 0 1 == 1, next := BitVec.ofNat 64 (bitsAt x 6 58 * 64), word0 := bitsAt x 0 64, op := bitsAt x 64 3,
    esize := bitsAt x 67 3, src := BitVec.ofNat 64 (bitsAt x 128 64), dst := BitVec.ofNat 64 (bitsAt x 192 64),
    len0 := bitsAt x 256 32, cnt1 := bitsAt x 288 32, cnt2 := bitsAt x 320 32, bound := bitsAt x 352 32,
    sstr1 := i32 384, sstr2 := i32 416, dstr1 := i32 448, dstr2 := i32 480,
    idx := BitVec.ofNat 64 (bitsAt x 384 64), cnt := BitVec.ofNat 64 (bitsAt x 448 64),
    rsv := bitsAt x 4 2 != 0 || bitsAt x 70 58 != 0 }

/-- Bytes of an element. -/
def TRec.e (r : TRec) : Nat := 2 ^ r.esize

/-- Rows or elements of a record; a length or count of 0 has no data effect. -/
def TRec.units (r : TRec) : Nat :=
  match r.op with
  | 0 => if r.len0 == 0 then 0 else 1
  | 1 => if r.len0 == 0 then 0 else r.cnt1 * r.cnt2
  | 2 => r.len0
  | 3 => if r.len0 == 0 then 0 else 1
  | _ => if r.len0 == 0 then 0 else r.len0 + 1

/-- A range of addresses as integers: first and length. -/
abbrev Span := Int × Int

/-- The hull of strided rows. -/
def hull (a : Addr) (len cnt1 cnt2 : Nat) (s1 s2 : Int) : Span :=
  let d1 := ((cnt1 : Int) - 1) * s1
  let d2 := ((cnt2 : Int) - 1) * s2
  let lo := (a.toNat : Int) + min 0 d1 + min 0 d2
  let hi := (a.toNat : Int) + max 0 d1 + max 0 d2 + len
  (lo, hi - lo)

/-- The bytes a record may read and may write (R234). -/
def TRec.spans (r : TRec) : List Span × List Span :=
  let at_ (a : Addr) (n : Nat) : Span := (a.toNat, n)
  if r.units == 0 then ([], [])
  else match r.op with
    | 0 => ([at_ r.src r.len0], [at_ r.dst r.len0])
    | 1 => ([hull r.src r.len0 r.cnt1 r.cnt2 r.sstr1 r.sstr2], [hull r.dst r.len0 r.cnt1 r.cnt2 r.dstr1 r.dstr2])
    | 2 => ([at_ r.idx (4 * r.len0), at_ r.src (r.bound * r.e)], [at_ r.dst (r.len0 * r.e)])
    | 3 => ([], [at_ r.dst r.len0])
    | _ => ([at_ r.src (r.len0 * r.e)], [at_ r.dst (r.len0 * r.e), at_ r.cnt 4])

/-- Every byte of a span lies in one of the regions. -/
def spanIn (rs : List Region6) : Nat → Int → Int → Bool
  | 0, _, n => n ≤ 0
  | k + 1, a, n =>
    n ≤ 0 || match rs.find? fun r => (r.base.toNat : Int) ≤ a && a < r.base.toNat + r.len with
      | none => false
      | some r => let m := (r.base.toNat : Int) + r.len - a; spanIn rs k (a + m) (n - m)

/-- The footprint check fails (R234). -/
def outFootprint (rs : List Region6) (r : TRec) : Bool :=
  let (rd, wr) := r.spans
  rd.any (fun (a, n) => !spanIn rs 7 a n) || wr.any fun (a, n) => !spanIn (rs.filter (·.write)) 7 a n

/-- A window span fails its check. -/
def State.badSpan (s : State) (j : Job) (x : Span) : Bool :=
  0 < x.2 && 0 ≤ x.1 && x.1 < 2 ^ 64 && s.badWin j (BitVec.ofInt 64 x.1) x.2.toNat

/-- Codes of Table 9.7 that a record meets. -/
def State.recCodes (s : State) (j : Job) (r : TRec) : List Nat :=
  let off (a : Addr) (n : Nat) : Bool := a.toNat % n != 0
  let (rd, wr) := r.spans
  (if r.rsv then [2] else []) ++
  (if (r.op == 2 && (off r.src r.e || off r.dst r.e || off r.idx 4)) || (r.op == 3 && (off r.dst r.e || r.len0 % r.e != 0)) ||
      (r.op == 4 && (off r.dst r.e || off r.cnt 4)) then [3] else []) ++
  (if r.op > 4 || r.esize > 4 || (r.op == 3 && r.esize > 3) || (r.op == 2 && r.bound > 0xFFFFFFFE) then [4] else []) ++
  (if outFootprint j.regions r then [6] else []) ++
  (if (rd ++ wr).any (s.badSpan j) || s.badWin j r.next 64 then [8] else [])

/-! ## Performing a record (Table 9.3, R235, R236) -/

/-- What one row or element comes to: the elements written so far, whether one was skipped, whether the record ends. -/
inductive Unit1 where
  | ok (s : State) (out : Nat) (skip stop : Bool)
  | wait (s : State)
  | fault (s : State) (pages : List Nat) (a : Addr) (wr : Bool)
  | bad (s : State) (a : Addr)

/-- The address of the first poisoned byte of those read from a. -/
def badAt (a : Addr) (bs : List (Byte × Bool)) : Addr := a + BitVec.ofNat 64 (bs.findIdx fun b => b.2)

/-- A read of a row or element; poisoned data counts as a failure at its address. -/
def unitRead (s : State) (e : Eng) (a : Addr) (n : Nat) (k : State → List (Byte × Bool) → Unit1) : Unit1 :=
  match s.engRead e a n with
  | .ok s bs => if anyBad bs then .bad s (badAt a bs) else k s bs
  | .miss s => .wait s
  | .fault s ps b => .fault s ps b false
  | .access s b => .bad s b

/-- A write of a row or element. -/
def unitWrite (s : State) (e : Eng) (a : Addr) (bs : List (Byte × Bool)) (k : State → Unit1) : Unit1 :=
  match s.engWrite e a bs with
  | .ok s _ => k s
  | .miss s => .wait s
  | .fault s ps b => .fault s ps b true
  | .access s b => .bad s b

/-- Address a plus an integer offset. -/
def plus (a : Addr) (d : Int) : Addr := a + BitVec.ofInt 64 d

/-- Source and destination bytes of a record may overlap (Table 9.3). -/
def TRec.overlaps (r : TRec) : Bool :=
  let src : Option Span := if r.op == 2 then r.spans.1[1]? else r.spans.1.head?
  match src, r.spans.2.head? with
  | some (a, n), some (b, m) => a < b + m && b < a + n
  | _, _ => false

/-- A choice that the manual leaves open, free each time it comes up. -/
def State.freeBit (s : State) (i : Nat) : Bool := (Config.freeWord (s.free + i)).getLsbD 0

/-- Source bytes that the record has overwritten: of each, the byte written or the original one, freely (Table 9.3). -/
def State.blend (s : State) (orig : Tbl Byte) (a : Addr) (bs : List (Byte × Bool)) : State × List (Byte × Bool) :=
  if orig.isEmpty then (s, bs)
  else ({ s with free := s.free + bs.length }, bs.zipIdx.map fun ((b, bad), i) =>
    match orig.get? (a + BitVec.ofNat 64 i).toNat with
    | some o => (if s.freeBit i then o else b, bad)
    | none => (b, bad))

/-- A row whose destination lies d bytes above its source, d below its length: byte i holds source byte i or, from byte d on, the byte
written d places before, freely. -/
def State.slide (s : State) (d : Nat) (bs : List (Byte × Bool)) : List (Byte × Bool) :=
  bs.zipIdx.foldl (fun acc (b, i) => acc ++ [if d ≤ i && s.freeBit i then acc.getD (i - d) b else b]) []

/-- The bytes that a row from src leaves at dst. -/
def State.rowBytes (s : State) (src dst : Addr) (bs : List (Byte × Bool)) : State × List (Byte × Bool) :=
  let up := (dst - src).toNat
  let down := (src - dst).toNat
  let t := { s with free := s.free + bs.length }
  if 0 < up && up < bs.length then (t, s.slide up bs)
  else if 0 < down && down < bs.length then (t, (s.slide down bs.reverse).reverse)
  else (s, bs)

/-- Keeps what the n bytes from a hold before the record first writes them. -/
def State.keepOrig (s : State) (d id : Nat) (e : Eng) (a : Addr) (n : Nat) : State :=
  match s.engRead e a n with
  | .ok _ bs => s.updJob d id fun j => { j with orig := bs.zipIdx.foldl (fun t ((b, _), i) =>
      let k := (a + BitVec.ofNat 64 i).toNat
      if (t.get? k).isSome then t else Tbl.set t k b) j.orig }
  | _ => s

/-- A read of a source row or element. -/
def srcRead (d id : Nat) (s : State) (e : Eng) (a : Addr) (n : Nat) (k : State → List (Byte × Bool) → Unit1) : Unit1 :=
  unitRead s e a n fun s bs =>
    match s.job d id with
    | some j =>
      let (s, bs) := s.blend j.orig a bs
      k s bs
    | none => k s bs

/-- A write of a row or element that was read at src. -/
def TRec.put (r : TRec) (d id : Nat) (s : State) (e : Eng) (src dst : Addr) (bs : List (Byte × Bool)) (k : State → Unit1) : Unit1 :=
  if r.overlaps then
    let (s, bs) := s.rowBytes src dst bs
    unitWrite (s.keepOrig d id e dst bs.length) e dst bs k
  else unitWrite s e dst bs k

/-- Row or element k of a record. -/
def TRec.unit (r : TRec) (d id : Nat) (e : Eng) (s : State) (k out : Nat) : Unit1 :=
  match r.op with
  | 0 => srcRead d id s e r.src r.len0 fun s bs => r.put d id s e r.src r.dst bs fun s => .ok s out false false
  | 1 =>
    let i1 : Int := (k % r.cnt1 : Nat)
    let i2 : Int := (k / r.cnt1 : Nat)
    let a := plus r.src (i1 * r.sstr1 + i2 * r.sstr2)
    srcRead d id s e a r.len0 fun s bs =>
      r.put d id s e a (plus r.dst (i1 * r.dstr1 + i2 * r.dstr2)) bs fun s => .ok s out false false
  | 2 =>
    unitRead s e (plus r.idx (4 * k : Nat)) 4 fun s bs =>
      let i := engNat bs
      if i == 0xFFFFFFFF then .ok s out false true
      else if i ≥ r.bound then .ok s out true false
      else srcRead d id s e (plus r.src (i * r.e : Nat)) r.e fun s bs =>
        r.put d id s e (plus r.src (i * r.e : Nat)) (plus r.dst (k * r.e : Nat)) bs fun s => .ok s out false false
  | 3 => unitWrite s e r.dst ((List.range r.len0).map fun b => (r.src.extractLsb' (8 * (b % r.e)) 8, false)) fun s => .ok s out false false
  | _ =>
    if k == r.len0 then unitWrite s e r.cnt ((natBytes 4 out).map fun b => (b, false)) fun s => .ok s out false false
    else srcRead d id s e (plus r.src (k * r.e : Nat)) r.e fun s bs =>
      if engNat bs == 0 then .ok s out false false
      else r.put d id s e (plus r.src (k * r.e : Nat)) (plus r.dst (out * r.e : Nat)) bs fun s => .ok s (out + 1) false false

/-- Rows or elements of a record from the job's place on, `n` at most. -/
def runUnits (d id : Nat) (r : TRec) (e : Eng) : Nat → State → Unit1
  | 0, s => .ok s 0 false true
  | n + 1, s =>
    match s.job d id with
    | none => .ok s 0 false true
    | some j =>
      match r.unit d id e s j.pos j.outN with
      | .ok s out skip stop =>
        let s := (s.fabForget e.client).updJob d id fun j =>
          { j with pos := if stop then r.units else j.pos + 1, outN := out, skipped := j.skipped || skip, begun := true, rounds := 0 }
        if stop then .ok s out skip true else runUnits d id r e n s
      | .wait s => .wait s
      | .fault s ps a wr => .fault s ps a wr
      | .bad s a => .bad s a

/-! ## The walk (R235) -/

/-- What the record at hand of a job comes to. -/
inductive Walk where
  | next (s : State)
  | ends (s : State)
  | wait (s : State)
  | fault (s : State) (pages : List Nat) (a : Addr) (wr data : Bool)
  | bad (s : State) (a : Addr) (data : Bool)
  | halt (s : State) (code : Nat) (a : Addr)

/-- Clears OWN and sets STATUS in a record, once its writes are performed (R56, R235). -/
def State.clearOwn (s : State) (d : Nat) (j : Job) (r : TRec) : Walk :=
  if j.cap.set.hostfab && s.fabBusy j.ctx then .wait s
  else
    let st := (if j.slow then 2 else 0) + (if j.skipped then 1 else 0)
    let w := r.word0 / 64 * 64 + st * 2
    match s.engWrite (jobEng d j) j.recA ((natBytes 8 w).map fun b => (b, false)) with
    | .ok s _ =>
      let s := s.dieRelease (jobEng d j) j.cap.set j.recA j.writes
      .next ((s.fabForget (.job d j.id)).updJob d j.id fun j =>
        { j with recA := r.next, recBytes := [], pos := 0, outN := 0, skipped := false, orig := [], rounds := 0 })
    | .miss s => .wait s
    | .fault s ps a => .fault s ps a true true
    | .access s a => .bad s a true

/-- Performs a record that has passed its checks, from the job's place on. -/
def State.performRec (s : State) (d : Nat) (j : Job) (r : TRec) : Walk :=
  match runUnits d j.id r (jobEng d j) (r.units - j.pos) s with
  | .wait s => .wait s
  | .fault s ps a wr => .fault s ps a wr true
  | .bad s a => .bad s a true
  | .ok s _ _ _ =>
    match s.job d j.id with
    | some j => s.clearOwn d j r
    | none => .ends s

/-- The record at hand: read once, checked, performed, and given back. -/
def State.walkRec (s : State) (d : Nat) (j : Job) : Walk :=
  if j.recA == 0 then .ends s
  else if !j.recBytes.isEmpty then s.performRec d j (recOf j.recBytes)
  else
    match s.engRead (jobEng d j) j.recA 64 with
    | .miss s => .wait s
    | .fault s ps a => .fault s ps a false false
    | .access s a => .bad s a false
    | .ok s bs =>
      let s := s.fabForget (.job d j.id)
      if anyBad bs then .bad s (badAt j.recA bs) false
      else
        let r := recOf (bs.map Prod.fst)
        if !r.own then .ends s
        else if j.count + 1 > 65536 then .halt s 7 j.recA
        else match lowestCode (s.recCodes j r) with
          | some code => .halt s code j.recA
          | none =>
            let j := { j with count := j.count + 1, recBytes := bs.map Prod.fst, pos := 0, outN := 0, skipped := false, orig := [], rounds := 0 }
            (s.updJob d j.id fun _ => j).performRec d j r

/-- A job on a channel or on the slow path goes on by at most n records. Page faults of a job that has not begun, and of the
slow path, park it; a job that has begun is handed to the slow path, which meets the failure itself (R236, R237). A job of a context that is
torn down stops at the end of its record (R96). -/
def runJob (d id : Nat) : Nat → State → State
  | 0, s => s
  | n + 1, s =>
    match s.job d id with
    | none => s
    | some j =>
      let torn := s.tearing j.ctx
      match s.walkRec d j with
      | .next s => if torn then s.endJob d j false else runJob d id n s
      | .ends s => s.endJob d j true
      | .wait s => s
      | .halt s code a => if torn then s.endJob d j false else s.haltJob d j code a
      | .fault s ps a wr data =>
        let spent := j.rounds ≥ 16
        if torn then s.endJob d j false
        else if j.slow then
          if spent then s.failJob d j a else s.parkJob d j ps wr
        else if j.begun || data then s.updJob d id fun j => { j with running := false, slow := true }
        else if spent then s.haltJob d j 9 j.recA
        else s.parkJob d j ps wr
      | .bad s a data =>
        if torn then s.endJob d j false
        else if j.slow then s.failJob d j a
        else if data then s.updJob d id fun j => { j with running := false, slow := true }
        else s.haltJob d j 9 a

/-- The job that runs on a channel. -/
def State.chanJob (s : State) (d ch : Nat) : Option Job :=
  (s.die d).jobs.find? fun j => !j.task && s.serves d ch j.chan && j.running
/-- The next job in a channel's queue. -/
def State.chanHead (s : State) (d ch : Nat) : Option Job :=
  (s.die d).jobs.find? fun j => !j.task && s.serves d ch j.chan && !j.running && !j.slow && !j.ended

/-- A job that begins on a die sees what the jobs before it have written at whatever place (R222): the lines of its context leave the die's
L2, written back where they are dirty. -/
def State.beginJob (s : State) (d c : Nat) : State :=
  let tag := s.tagOf c
  ((s.die d).l2.filter fun (_, ln) => ln.key == tag).foldl (fun s (n, _) => s.dropL2 d n) s

/-- COPY_JOB_START (R226, R230): a free channel reads the card of the next job and, once its edges allow, begins it. Input:
unit the die, item the channel. -/
def execCopyJobStart (s : State) : Host.Outcome State Fault Refusal :=
  let d := s.inp.unit
  .next (match s.chanJob d s.inp.item, s.chanHead d s.inp.item with
    | none, some j =>
      if j.parked then s
      else match s.readCard d j with
        | .wait s => s
        | .fault s ps => if j.rounds ≥ 16 then s.haltJob d j 9 j.card else s.parkJob d j ps false
        | .bad s code a => s.haltJob d j code a
        | .ok s j c =>
          match lowestCode (s.cardCodes j c) with
          | some code => s.haltJob d j code j.card
          | none =>
            let (s, go) := s.mayBegin d j
            if go then (s.beginJob d j.ctx).updJob d j.id fun j => { j with running := true, rounds := 0 } else s
    | _, _ => s)

/-- COPY_RECORD_DONE (R235): the running job's record is performed, its OWN cleared, and the chain goes on. Input: unit the
die, item the channel. -/
def execCopyRecordDone (s : State) : Host.Outcome State Fault Refusal :=
  let d := s.inp.unit
  .next (match s.chanJob d s.inp.item with
    | some j => if j.parked then s else runJob d j.id 1 s
    | none => s)

/-- SLOW_PATH_JOB_END (R236, R237): the slow path performs the remainder of a job. Input: unit the die, id the job. -/
def execSlowPathJobEnd (s : State) : Host.Outcome State Fault Refusal :=
  let d := s.inp.unit
  .next (match s.job d s.inp.id with
    | some j => if j.slow && !j.parked then runJob d j.id 65538 s else s
    | none => s)

/-! ## The task scheduler (R238 to R241) -/

/-- Answers the fragment that waits at TASKPOST. -/
def State.answerPost (s : State) (j : Job) (code : Nat) : State :=
  match j.poster with
  | some (c, e) =>
    let f := (s.core c).frag e
    if f.st == .syncwait && f.wait.kind == .task && f.wait.n == j.id then
      (s.updCore c fun x => x.updFrag e fun f => { f with wait := { f.wait with m := code, ready := true } }).push [.issue c e]
    else s
  | none => s

/-- A refused task job. -/
def State.refuseTask (s : State) (d : Nat) (j : Job) (code : Nat) (a : Addr) : State :=
  (s.answerPost j code).haltJob d j code a

/-- TASK_ARM (R240): the I/O die receives a task job, and arms its entry or refuses it. Input: unit the die, id the job. -/
def execTaskArm (s : State) : Host.Outcome State Fault Refusal :=
  let d := s.inp.unit
  .next (match s.job d s.inp.id with
    | none => s
    | some j =>
      if !j.task || j.parked || j.answer.isSome then s
      else
        let park (s : State) (ps : List Nat) : State := if j.rounds ≥ 16 then s.refuseTask d j 9 j.card else s.parkJob d j ps false
        match s.readCard d j with
        | .wait s => s
        | .fault s ps => park s ps
        | .bad s code a => s.refuseTask d j code a
        | .ok s j c =>
          let k := (s.ctx j.ctx).tasks.getD c.tasknum {}
          match lowestCode (s.cardCodes j c) with
          | some code => s.refuseTask d j code j.card
          | none =>
            if k.st != .idle then s.refuseTask d j 10 j.card
            else if k.count + c.init > 65535 then s.refuseTask d j 11 j.card
            else match s.engRead { jobEng d j with io := true } c.pkt 64 with
              | .miss s => s
              | .fault s ps _ => park s ps
              | .access s a => s.refuseTask d j 9 a
              | .ok s bs =>
                let s := s.fabForget (.job d j.id)
                if anyBad bs then s.refuseTask d j 9 c.pkt
                else if (engNat bs) % 16 == 6 then s.refuseTask d j 1 j.card
                else
                  let k' : Task := { k with count := k.count + c.init, packet := bs.map Prod.fst, st := .armed, die := d, job := j.id }
                  let s := s.updCtx j.ctx fun x => { x with tasks := x.tasks.set c.tasknum k' }
                  (s.updJob d j.id fun j => { j with answer := some 0 }).answerPost j 0)

/-- TASK_RELEASE (R241): an ARMED entry whose COUNT is 0 and whose job may begin is released to Woad. Input: unit the
context, item the task. -/
def execTaskRelease (s : State) : Host.Outcome State Fault Refusal :=
  let c := s.inp.unit
  let k := (s.ctx c).tasks.getD s.inp.item {}
  .next (if k.st == .armed && k.count == 0 then
    match s.job k.die k.job with
    | none => s
    | some j =>
      let (s', go) := s.mayBegin k.die j
      if go then s'.updCtx c fun x => { x with tasks := x.tasks.set s.inp.item { k with st := .released }, taskQ := x.taskQ ++ [s.inp.item] }
      else s'
  else s)

/-! ## Instructions (R471 to R475) -/

/-- The channel of copy role n (R117) as it is bound where the instruction issues, of one that waits as its wait of kind k holds it. -/
def State.copyRole (s : State) (w : Who) (k : WaitKind) (n : Nat) : Option Nat := (s.unitOf w k (30 + n)).map fun u => u % 16

/-- A job joins its die's tracker, owed to its launch and its team (R91, R170, R222). -/
def State.postJob (s : State) (w : Who) (task : Bool) (card : Addr) (cap : Capture) (ch number : Nat)
    (poster : Option (Nat × Nat)) : Nat × State :=
  let (id, s) := s.fresh
  let j : Job := { id := id, ctx := w.ctx, launch := w.launch, team := w.team, task := task, card := card, cap := cap, chan := ch,
                   number := number, held := s.heldBy w.team, poster := poster }
  let s := s.addCount w.launch 1
  let s := s.updTeam w.team fun t => { t with owed := t.owed + 1 }
  (id, s.updDie w.die fun d => { d with jobs := d.jobs ++ [j] })

/-- A channel's queue of 64 is full (R230). -/
def State.chanFull (s : State) (d ch : Nat) : Bool :=
  64 ≤ ((s.die d).jobs.filter fun j => !j.task && j.chan == ch && !j.running && !j.slow && !j.ended).length

/-- CPYGO (R471): gd := the new POSTED. -/
def execCpygo (f : UForm) (s : State) :=
  uniOp (.cpygo f) f { a := true } (fun e s w =>
    let fr := s.frag w
    let cap := s.jobCap w e.byte
    match (if fr.again then none else s.postStale w cap) with
    | some fl => fl
    | none =>
      match s.copyRole w .post (e.mod.toNat % 2) with
      | none => .trap s { code := 5, lanes := fr.mask }
      | some ch =>
        let was := s
        s.posting w cap (unit := ch) fun s cap =>
          if s.chanFull w.die ch then .hold was
          else
            let n := (s.chan w.die ch w.ctx).posted + 1
            let (_, s) := s.postJob w false ((was.regs w).g64 f.ga.toNat) cap ch n.toNat none
            .done ((s.updChan w.die ch w.ctx fun x => { x with posted := n }).updWave w fun wv => wv.setG f.gd.toNat n)) s

/-- CPYWT (R472): DONE and FAILED of a channel. Where nothing is waited for the result returns later (R147); a fragment that has waited leaves
SYNCWAIT with it. -/
def execCpywt (f : UForm) (s : State) :=
  uniOp (.cpywt f) f { a := true } (fun e s w =>
    let fr := s.frag w
    let waiting := fr.st == .syncwait && fr.wait.kind == .copy
    let cap := if waiting then fr.wait.cap else s.scopeCap w e.byte
    match (if waiting then none else s.postStale w cap) with
    | some fl => fl
    | none =>
      match s.copyRole w .copy (e.mod.toNat % 2) with
      | none => .trap s { code := 5, lanes := fr.mask }
      | some ch =>
        let x := s.chan w.die ch w.ctx
        let n := if waiting then BitVec.ofNat 32 fr.wait.m else (s.wave w).greg f.ga.toNat
        let nw := e.mod.getLsbD 2
        if !nw && !reached x.done n then
          if waiting then .hold s else .wait s { kind := .copy, n := ch, m := n.toNat, cap := cap }
        else
          let s := s.waitAcquire w cap
          let s := if e.mod.getLsbD 1 then s.updChan w.die ch w.ctx fun x => { x with failed := false } else s
          let fl : Word := if x.failed then 1 else 0
          let gd := f.gd.toNat
          .done (if waiting then s.updWave w fun wv => (wv.setG gd x.done).setG (gd + 1) fl else s.laterG w [(gd, x.done), (gd + 1, fl)])) s

/-- TASKPOST (R474): the fragment waits until the I/O die has armed or refused the job; gd := 0 or the halt code. -/
def execTaskpost (f : UForm) (s : State) :=
  uniOp (.taskpost f) f { a := true } (fun e s w =>
    let fr := s.frag w
    if fr.st == .syncwait && fr.wait.kind == .task then
      if fr.wait.ready then .done (s.updWave w fun wv => wv.setG f.gd.toNat (BitVec.ofNat 32 fr.wait.m)) else .hold s
    else
      let card := (s.regs w).g64 f.ga.toNat
      s.posting w (s.jobCap w e.byte) fun s cap =>
        let (id, s) := s.postJob w true card cap 0 0 (some (w.core, w.entry))
        .wait s { kind := .task, n := id, cap := cap }) s

/-- TASKWT (R475): the status of the last completion of a task that is IDLE. Where nothing is waited for the result returns later (R147); a
fragment that has waited leaves SYNCWAIT with it. -/
def execTaskwt (f : UForm) (s : State) :=
  uniOp (.taskwt f) f { a := true } (fun e s w =>
    let fr := s.frag w
    let waiting := fr.st == .syncwait && fr.wait.kind == .taskDone
    let cap := if waiting then fr.wait.cap else s.scopeCap w e.byte
    match (if waiting then none else s.postStale w cap) with
    | some fl => fl
    | none =>
      let t := if waiting then fr.wait.n else ((s.wave w).greg f.ga.toNat).toNat
      let nw := e.mod.getLsbD 2
      let give (s : State) (x : Word) : Flow :=
        .done (s.giveG w waiting f.gd.toNat x)
      if t ≥ 4096 then .trap s { code := 5, lanes := fr.mask }
      else
        let k := (s.ctx w.ctx).tasks.getD t {}
        if k.st == .idle then give (s.waitAcquire w cap) (BitVec.ofNat 32 k.status)
        else if nw then give s 0xFFFFFFFE
        else if waiting then .hold s
        else .wait s { kind := .taskDone, n := t, cap := cap }) s

end Machine
end Sys2Proof
end

