-- ==== Sys2Proof/Machine/IndigoMath.lean ====
section
/-! DEFINITION. The arithmetic of the Indigo engines: exact numbers in units of 2^-149, nodes, rays, the exact tests and the
interval test of a beam (R261 to R270). -/

namespace Sys2Proof
namespace Machine

/-! ## Exact numbers -/

/-- An end of an interval, in units of 2^-149. -/
inductive Ext where
  | ninf
  | fin (n : Int)
  | pinf
  deriving DecidableEq, Repr, Inhabited

/-- A finite fp32 or fp16 code in units of 2^-149. -/
def units (f : Fmt) (c : Nat) : Int :=
  match decodeCode f false c with
  | .num x => x.toInt * 2 ^ (x.e + 149).toNat
  | _ => 0

/-- A code is finite. -/
def finiteCode (f : Fmt) (c : Nat) : Bool := match decodeCode f false c with | .num _ => true | _ => false

/-- The exact quotient n/d rounded to fp32: mode 0 nearest even, 1 down, 2 up. -/
def roundQ (mode : Nat) (n : Int) (d : Nat) : Ext :=
  let neg : Bool := n < 0
  let m := n.natAbs / d
  let sh := if m < 2 ^ 24 then 0 else Nat.log2 m - 23
  let g := d * 2 ^ sh
  let q := n.natAbs / g
  let r := n.natAbs % g
  let away : Bool := match mode with
    | 0 => 2 * r > g || (2 * r == g && q % 2 == 1)
    | 1 => neg && r != 0
    | _ => !neg && r != 0
  let mag := (if away then q + 1 else q) * 2 ^ sh
  if mag ≥ 2 ^ 277 then
    if mode == 0 || (mode == 1) == neg then (if neg then .ninf else .pinf)
    else .fin (if neg then -((2 ^ 24 - 1) * 2 ^ 253 : Nat) else ((2 ^ 24 - 1) * 2 ^ 253 : Nat))
  else .fin (if neg then -(mag : Int) else mag)

/-- The number of an end that is finite. -/
def Ext.num : Ext → Int
  | .fin n => n
  | _ => 0

/-- The fp32 code of a number of units that fp32 holds. -/
def codeOfUnits (n : Int) : Word :=
  let a := n.natAbs
  let s := if n < 0 then 2 ^ 31 else 0
  let e := if a < 2 ^ 24 then 0 else Nat.log2 a - 23
  BitVec.ofNat 32 (s + e * 2 ^ 23 + a / 2 ^ e)

/-- The fp32 code, nearest even, of an exact quotient. -/
def fpOfQ (n : Int) (d : Nat) : Word :=
  match roundQ 0 n d with
  | .fin k => codeOfUnits k
  | .pinf => 0x7F800000
  | .ninf => 0xFF800000

/-- A vector of three. -/
structure V3 where
  x : Int
  y : Int
  z : Int
  deriving DecidableEq, Repr, Inhabited

/-- Difference, dot product and cross product. -/
def V3.sub (a b : V3) : V3 := { x := a.x - b.x, y := a.y - b.y, z := a.z - b.z }
/-- Dot product. -/
def V3.dot (a b : V3) : Int := a.x * b.x + a.y * b.y + a.z * b.z
/-- Cross product. -/
def V3.cross (a b : V3) : V3 := { x := a.y * b.z - a.z * b.y, y := a.z * b.x - a.x * b.z, z := a.x * b.y - a.y * b.x }
/-- Component i. -/
def V3.at (a : V3) (i : Nat) : Int := if i == 0 then a.x else if i == 1 then a.y else a.z

/-! ## Nodes (R261 to R263) -/

/-- Field of n bits at bit `lo`. -/
def fieldAt (x lo n : Nat) : Nat := x / 2 ^ lo % 2 ^ n

/-- A child: its planes, whether it is empty, and its reference. -/
structure Child where
  lo : List Nat
  hi : List Nat
  ref : Addr
  kind : Nat
  count : Nat
  deriving DecidableEq, Repr, Inhabited

/-- Some axis of the box is empty. -/
def Child.empty (c : Child) : Bool := (List.range 3).any fun a => c.hi.getD a 0 < c.lo.getD a 0

/-- A node with its rotation: column a of M as a vector, in units of 1 / (16129 × 2^149). -/
structure Node where
  org : V3
  scale : Int
  cols : List V3
  kids : List Child
  deriving DecidableEq, Repr, Inhabited

/-- The unit of M's entries: 16129 × 2^149. -/
def rotUnit : Nat := 16129 * 2 ^ 149

/-- Child k of a node's bytes. -/
def childOf (x k : Nat) : Child :=
  let p := fieldAt x (192 + 48 * k) 48
  let r := fieldAt x (512 + 64 * k) 64
  { lo := [fieldAt p 0 8, fieldAt p 16 8, fieldAt p 32 8], hi := [fieldAt p 8 8, fieldAt p 24 8, fieldAt p 40 8],
    ref := BitVec.ofNat 64 (r / 128 * 128), kind := fieldAt r 5 2, count := fieldAt r 0 5 }

/-- The fp32 value w of the quaternion, in units of 2^-149, from 127² - QX² - QY² - QZ² (R262). -/
def quatW (k : Int) : Int :=
  if k ≤ 0 then 0
  else
    -- sqrt (k / 16129) = sqrt k / 127, with 200 fraction bits and a sticky one
    let r := isqrt (k.toNat * 2 ^ 400)
    let odd : Nat := if r * r == k.toNat * 2 ^ 400 then 0 else 1
    (roundQ 0 (((2 * r + odd) * 2 ^ 149 : Nat) : Int) (127 * 2 ^ 201)).num

/-- The node of 128 bytes, none where it is ill-formed (R263). -/
def nodeOf (x : Nat) : Option Node :=
  let n := fieldAt x 128 3
  let sc := toSigned 8 (fieldAt x 96 8)
  let q (i : Nat) : Int := toSigned 8 (fieldAt x (104 + 8 * i) 8)
  let o (i : Nat) : Nat := fieldAt x (32 * i) 32
  let kids := (List.range n).map (childOf x)
  if fieldAt x 131 61 != 0 || fieldAt x 480 32 != 0 || fieldAt x 896 128 != 0 || !((List.range 3).all fun i => finiteCode fp32 (o i)) ||
      sc < -126 || (List.range 3).any (fun i => q i == -128) || n == 7 ||
      kids.any fun c => c.kind == 0 || c.kind == 3 || (c.kind == 1 && c.count != 0) then none
  else
    let a := q 0
    let b := q 1
    let c := q 2
    let w := quatW (16129 - a * a - b * b - c * c)
    let one : Int := 2 ^ 149
    let m (i j : Int) : Int := 2 * i * j * one
    let d (i j : Int) : Int := (16129 - 2 * (i * i + j * j)) * one
    -- column j of M, whose row i is M[i][j]
    some { org := { x := units fp32 (o 0), y := units fp32 (o 1), z := units fp32 (o 2) }, scale := sc, kids := kids,
           cols := [{ x := d b c, y := m a b + 254 * c * w, z := m a c - 254 * b * w },
                    { x := m a b - 254 * c * w, y := d a c, z := m b c + 254 * a * w },
                    { x := m a c + 254 * b * w, y := m b c - 254 * a * w, z := d a b }] }

/-- A plane of a child in units of 2^-149: n × 2^(e - 8). -/
def Node.plane (nd : Node) (n : Nat) : Int := n * 2 ^ (nd.scale + 141).toNat

/-! ## Query records and rays (R265 to R267) -/

/-- A query record's fields. -/
structure QRec where
  cone : Bool
  mode : Nat
  gxl : Nat
  gyl : Nat
  maxhl : Nat
  apex : V3
  /-- none: +infinity -/
  tmin : Option Int
  /-- none: +infinity -/
  tmax : Option Int
  root : Addr
  corners : List V3
  deriving DecidableEq, Repr, Inhabited

/-- Slots per ray. -/
def QRec.slots (q : QRec) : Nat := if q.mode == 2 then 2 ^ q.maxhl else 1
/-- Rays of the grid. -/
def QRec.rays (q : QRec) : Nat := 2 ^ q.gxl * 2 ^ q.gyl

/-- Component of a cone's corner: a + h (s1 u' |a| + s2 v') / |u'|, rounded RNE to fp32, in units of 2^-149. The roots are
taken to 1,024 fraction bits; that their bounds round to one value is log entry 30. -/
def conePart (a u v h : Int) (aa uu : Nat) (s1 s2 : Int) : Int :=
  let k := 1024
  let bound (x : Nat) : Int × Int :=
    let r := isqrt (x * 2 ^ (2 * k))
    (r, if r * r == x * 2 ^ (2 * k) then r else r + 1)
  let times (c : Int) (b : Int × Int) : Int × Int := if c < 0 then (c * b.2, c * b.1) else (c * b.1, c * b.2)
  let t1 := times (h * s1 * u) (bound (aa * uu))
  let t2 := times (h * s2 * v) (bound uu)
  let base := a * uu * 2 ^ (k + 24)
  let den := uu * 2 ^ (k + 24)
  let lo := (roundQ 0 ((base + t1.1 + t2.1) * 2 ^ 125) den).num
  let hi := (roundQ 0 ((base + t1.2 + t2.2) * 2 ^ 125) den).num
  if lo == hi then lo else if Config.undecided lo.natAbs hi.natAbs % 2 == 0 then lo else hi

/-- The corners of a cone (R267) from its axis and tangent in units of 2^-24. -/
def coneCorners (a : V3) (h : Int) : List V3 :=
  let m (x : Int) : Nat := x.natAbs
  let u : V3 := if m a.z ≤ max (m a.x) (m a.y) then { x := -a.y, y := a.x, z := 0 } else { x := 0, y := -a.z, z := a.y }
  let v := a.cross u
  let aa := (a.dot a).toNat
  let uu := (u.dot u).toNat
  let c (s1 s2 : Int) : V3 :=
    { x := conePart a.x u.x v.x h aa uu s1 s2, y := conePart a.y u.y v.y h aa uu s1 s2, z := conePart a.z u.z v.z h aa uu s1 s2 }
  [c (-1) (-1), c 1 (-1), c (-1) 1, c 1 1]

/-- The record of 64 bytes, none where R265 or R266 refuses it. -/
def qrecOf (x : Nat) : Option QRec :=
  let cone := fieldAt x 4 1 == 1
  let mode := fieldAt x 5 2
  let gxl := fieldAt x 7 3
  let gyl := fieldAt x 10 3
  let mh := fieldAt x 13 2
  let apex (i : Nat) : Nat := fieldAt x (32 + 32 * i) 32
  let h16 (i : Nat) : Nat := fieldAt x (256 + 16 * i) 16
  let tmin := fieldAt x 128 32
  let tmax := fieldAt x 160 32
  let never := tmin == 0x7F800000
  let root := fieldAt x 192 64
  let inf := tmax == 0x7F800000
  let v (i : Nat) : V3 := { x := units fp16 (h16 i), y := units fp16 (h16 (i + 1)), z := units fp16 (h16 (i + 2)) }
  let axis : V3 := { x := units fp16 (h16 0) / 2 ^ 125, y := units fp16 (h16 1) / 2 ^ 125, z := units fp16 (h16 2) / 2 ^ 125 }
  if fieldAt x 0 4 != 1 || mode == 3 || gxl > 4 || gyl > 4 || (mode != 2 && mh != 0) || fieldAt x 15 17 != 0 || fieldAt x 448 64 != 0 ||
      (cone && fieldAt x 320 128 != 0) || !((List.range 3).all fun i => finiteCode fp32 (apex i)) ||
      (!never && (!finiteCode fp32 tmin || units fp32 tmin < 0)) ||
      (!inf && (never || !finiteCode fp32 tmax || units fp32 tmax < units fp32 tmin)) || root % 128 != 0 || root == 0 ||
      !((List.range (if cone then 4 else 12)).all fun i => finiteCode fp16 (h16 i)) ||
      (cone && (axis == { x := 0, y := 0, z := 0 } || units fp16 (h16 3) ≤ 0)) then none
  else
    some { cone := cone, mode := mode, gxl := gxl, gyl := gyl, maxhl := mh,
           apex := { x := units fp32 (apex 0), y := units fp32 (apex 1), z := units fp32 (apex 2) }, tmin := if never then none else some (units fp32 tmin),
           tmax := if inf then none else some (units fp32 tmax), root := BitVec.ofNat 64 root,
           corners := if cone then coneCorners axis (units fp16 (h16 3) / 2 ^ 125) else [v 0, v 3, v 6, v 9] }

/-- Exact direction of ray (x, y), in units of 2^-149 over `dirDen` (R267). -/
def QRec.exact (q : QRec) (x y : Nat) : V3 :=
  let gx : Int := 2 * 2 ^ q.gxl
  let gy : Int := 2 * 2 ^ q.gyl
  let u : Int := 2 * x + 1
  let v : Int := 2 * y + 1
  let c (i : Nat) : V3 := q.corners.getD i default
  let f (g : V3 → Int) : Int :=
    (gx - u) * (gy - v) * g (c 0) + u * (gy - v) * g (c 1) + (gx - u) * v * g (c 2) + u * v * g (c 3)
  { x := f V3.x, y := f V3.y, z := f V3.z }
/-- The denominator of exact directions. -/
def QRec.dirDen (q : QRec) : Nat := 4 * 2 ^ q.gxl * 2 ^ q.gyl

/-- Direction of ray (x, y): each component rounded RNE to fp32 (R267). -/
def QRec.dir (q : QRec) (x y : Nat) : V3 :=
  let e := q.exact x y
  let f (n : Int) : Int := (roundQ 0 n q.dirDen).num
  { x := f e.x, y := f e.y, z := f e.z }

/-! ## The exact tests (R268) -/

/-- A quotient with a positive denominator. -/
structure Frac where
  n : Int
  d : Nat
  deriving DecidableEq, Repr, Inhabited

/-- n / d for a denominator that is not 0. -/
def fracOf (n d : Int) : Frac := if d < 0 then { n := -n, d := d.natAbs } else { n := n, d := d.toNat }
/-- a ≤ b. -/
def Frac.le (a b : Frac) : Bool := a.n * b.d ≤ b.n * a.d
/-- a < b. -/
def Frac.lt (a b : Frac) : Bool := a.n * b.d < b.n * a.d
/-- A number of units as a quotient. -/
def fracUnits (n : Int) : Frac := { n := n, d := 2 ^ 149 }

/-- A ray meets a child's box (R268). -/
def meetsBox (q : QRec) (dir : V3) (nd : Node) (c : Child) : Bool :=
  let p := q.apex.sub nd.org
  let axes := (List.range 3).map fun a =>
    let m := nd.cols.getD a default
    -- the rotated origin and direction, and the planes in the same unit
    (m.dot p, m.dot dir, nd.plane (c.lo.getD a 0) * rotUnit, nd.plane (c.hi.getD a 0) * rotUnit)
  let outside := axes.any fun (o, d, lo, hi) => d == 0 && (o < lo || hi < o)
  let ends := axes.filterMap fun (o, d, lo, hi) =>
    if d == 0 then none else if d > 0 then some (fracOf (lo - o) d, fracOf (hi - o) d) else some (fracOf (hi - o) d, fracOf (lo - o) d)
  let enters := (q.tmin.map fracUnits).toList ++ ends.map Prod.fst
  let exits := (q.tmax.map fracUnits).toList ++ ends.map Prod.snd
  !c.empty && !outside && (q.tmin.isSome || exits.isEmpty) && enters.all fun e => exits.all fun x => e.le x

/-- A triangle's vertices and primitive number, none where a coordinate is not finite (R264). -/
def triOf (x : Nat) : Option (V3 × V3 × V3 × Word) :=
  let f (i : Nat) : Nat := fieldAt x (32 * i) 32
  if !((List.range 9).all fun i => finiteCode fp32 (f i)) then none
  else
    let v (i : Nat) : V3 := { x := units fp32 (f i), y := units fp32 (f (i + 1)), z := units fp32 (f (i + 2)) }
    some (v 0, v 3, v 6, BitVec.ofNat 32 (fieldAt x 288 32))

/-- A ray hits a triangle: t, u and v as quotients over one denominator (R268). -/
def hitsTri (q : QRec) (dir v0 v1 v2 : V3) : Option (Frac × Frac × Frac) :=
  let e1 := v1.sub v0
  let e2 := v2.sub v0
  let s := q.apex.sub v0
  let pv := dir.cross e2
  let det := e1.dot pv
  if det == 0 then none
  else
    let qv := s.cross e1
    let u := fracOf (s.dot pv) det
    let v := fracOf (dir.dot qv) det
    let t := fracOf (e2.dot qv) det
    if u.n < 0 || v.n < 0 || u.n + v.n > u.d || (match q.tmin with | some m => t.lt (fracUnits m) | none => true) || (match q.tmax with | some m => (fracUnits m).lt t | none => false)
    then none else some (t, u, v)

/-- A quotient as fp32, nearest even. -/
def Frac.fp (a : Frac) : Word := fpOfQ (a.n * 2 ^ 149) a.d

/-! ## The beam test (R270) -/

/-- An interval. -/
structure Ival where
  lo : Ext
  hi : Ext
  deriving DecidableEq, Repr, Inhabited

/-- a ≤ b for ends. -/
def Ext.le : Ext → Ext → Bool
  | .ninf, _ => true
  | _, .pinf => true
  | .fin a, .fin b => a ≤ b
  | _, _ => false
/-- The smaller and the larger end. -/
def Ext.min (a b : Ext) : Ext := if a.le b then a else b
/-- The larger end. -/
def Ext.max (a b : Ext) : Ext := if a.le b then b else a
/-- The end of the opposite sign. -/
def Ext.neg : Ext → Ext
  | .ninf => .pinf
  | .pinf => .ninf
  | .fin a => .fin (-a)
/-- Sign of an end. -/
def Ext.sign : Ext → Int
  | .ninf => -1
  | .pinf => 1
  | .fin a => if a < 0 then -1 else if a > 0 then 1 else 0

/-- The exact number n / d as an interval. -/
def ivalQ (n : Int) (d : Nat) : Ival := { lo := roundQ 1 n d, hi := roundQ 2 n d }
/-- Sum, rounded outward. -/
def Ival.add (a b : Ival) : Ival :=
  { lo := match a.lo, b.lo with
      | .fin x, .fin y => roundQ 1 (x + y) 1
      | _, _ => .ninf,
    hi := match a.hi, b.hi with
      | .fin x, .fin y => roundQ 2 (x + y) 1
      | _, _ => .pinf }
/-- The interval of the opposite sign. -/
def Ival.neg (a : Ival) : Ival := { lo := a.hi.neg, hi := a.lo.neg }
/-- Product of two ends; 0 times anything is 0. -/
def mulEnd (mode : Nat) (a b : Ext) : Ext :=
  match a, b with
  | .fin x, .fin y => roundQ mode (x * y) (2 ^ 149)
  | _, _ => let s := a.sign * b.sign; if s < 0 then .ninf else if s > 0 then .pinf else .fin 0
/-- Product, rounded outward. -/
def Ival.mul (a b : Ival) : Ival :=
  { lo := ((mulEnd 1 a.lo b.lo).min (mulEnd 1 a.lo b.hi)).min ((mulEnd 1 a.hi b.lo).min (mulEnd 1 a.hi b.hi)),
    hi := ((mulEnd 2 a.lo b.lo).max (mulEnd 2 a.lo b.hi)).max ((mulEnd 2 a.hi b.lo).max (mulEnd 2 a.hi b.hi)) }
/-- Quotient of an end by one above 0. -/
def divEnd (mode : Nat) (a b : Ext) : Ext :=
  match a, b with
  | .fin x, .fin y => roundQ mode (x * 2 ^ 149) y.toNat
  | .fin _, _ => .fin 0
  | _, _ => a
/-- Quotient by an interval above 0, rounded outward. -/
def Ival.divPos (a d : Ival) : Ival :=
  { lo := divEnd 1 a.lo (if a.lo.sign < 0 then d.lo else d.hi), hi := divEnd 2 a.hi (if a.hi.sign < 0 then d.hi else d.lo) }

/-- Column a of M against three intervals, summed in order. -/
def rotIval (nd : Node) (a : Nat) (x y z : Ival) : Ival :=
  let m := nd.cols.getD a default
  let e (k : Int) (v : Ival) : Ival := (ivalQ (k * 2 ^ 149) rotUnit).mul v
  ((e m.x x).add (e m.y y)).add (e m.z z)

/-- What a beam test comes to. -/
inductive Beam where
  | miss | contains | mixed
  deriving DecidableEq, Repr

/-- The exact components of the directions of a beam's four corner rays span this interval. -/
def QRec.span (q : QRec) (x0 y0 w h : Nat) (g : V3 → Int) : Ival :=
  let ds := [q.exact x0 y0, q.exact (x0 + w - 1) y0, q.exact x0 (y0 + h - 1), q.exact (x0 + w - 1) (y0 + h - 1)].map g
  let lo := ds.foldl min (ds.headD 0)
  let hi := ds.foldl max (ds.headD 0)
  { lo := roundQ 1 lo q.dirDen, hi := roundQ 2 hi q.dirDen }

/-- The beam test of a child for a rectangle of rays. -/
def beamTest (q : QRec) (x0 y0 w h : Nat) (nd : Node) (c : Child) : Beam :=
  if w == 1 && h == 1 then (if meetsBox q (q.dir x0 y0) nd c then .contains else .miss)
  else if c.empty then .miss
  else
    let one (n : Int) : Ival := ivalQ n 1
    let o (g : V3 → Int) : Ival := (one (g q.apex)).add (one (g nd.org)).neg
    let d (g : V3 → Int) : Ival := q.span x0 y0 w h g
    let axes := (List.range 3).map fun a =>
      let p := rotIval nd a (o V3.x) (o V3.y) (o V3.z)
      let dv := rotIval nd a (d V3.x) (d V3.y) (d V3.z)
      let lo := (one (nd.plane (c.lo.getD a 0))).add p.neg
      let hi := (one (nd.plane (c.hi.getD a 0))).add p.neg
      if dv.lo.sign > 0 then some (lo.divPos dv, hi.divPos dv)
      else if dv.hi.sign < 0 then some (hi.neg.divPos dv.neg, lo.neg.divPos dv.neg)
      else none
    let tmin : Ext := match q.tmin with | some n => .fin n | none => .pinf
    let tmax : Ext := match q.tmax with | some n => .fin n | none => .pinf
    let r := axes.foldl (fun (el, eh, xl, xh) a =>
      match a with
      | some (e, x) => (Ext.max el e.lo, Ext.max eh e.hi, Ext.min xl x.lo, Ext.min xh x.hi)
      | none => (el, Ext.pinf, Ext.ninf, xh)) (tmin, tmin, tmax, tmax)
    if !(r.1.le r.2.2.2) then .miss
    else if r.2.1.le r.2.2.1 then .contains else .mixed

/-- The quadrants of a split beam, in row-major order: corner and logarithms of the sides (R272). -/
def quadrants (x0 y0 wl hl : Nat) : List (Nat × Nat × Nat × Nat) :=
  let w := wl - 1
  let h := hl - 1
  (if hl == 0 then [y0] else [y0, y0 + 2 ^ h]).flatMap fun y => (if wl == 0 then [x0] else [x0, x0 + 2 ^ w]).map fun x => (x, y, w, h)

end Machine
end Sys2Proof
end

