-- ==== Sys2Proof/Machine/Access.lean ====
section
/-! DEFINITION. The accesses of a memory instruction: how lanes are sorted by what their translations give (R63, R302), how
bytes are read and written at their places (R172, R408, R409), and the orders of R198 to R219 around them. -/

namespace Sys2Proof
namespace Machine

/-- One access: its lane (0 for a uniform one), its address and its bytes. -/
structure Acc where
  lane : Nat
  addr : Addr
  n : Nat
  deriving DecidableEq, Repr

/-- How an instruction's accesses are made. -/
structure How where
  /-- one access for the fragment: no lane-private slice, and conditions concern the whole MASK (R302, R437) -/
  uni : Bool := false
  /-- the access needs write permission -/
  wr : Bool := false
  pol : BitVec 2 := 0
  /-- performed at .l2 where .l1 is named (R172) -/
  atomic : Bool := false
  order : Nat := 0
  cap : Capture := {}
  deriving DecidableEq, Repr

/-- The lanes of an instruction by the condition each meets, with the pages that fault. -/
structure Seen where
  acc : Mask := 0
  mis : Mask := 0
  bnd : Mask := 0
  ecc : Mask := 0
  flt : Mask := 0
  pages : List Nat := []
  deriving DecidableEq, Repr, Inhabited

/-- Lanes that meet some condition. -/
def Seen.any (x : Seen) : Mask := x.acc ||| x.mis ||| x.bnd ||| x.ecc ||| x.flt

/-- The conditions of two phases of one instruction. -/
def Seen.join (x y : Seen) : Seen :=
  { acc := x.acc ||| y.acc, mis := x.mis ||| y.mis, bnd := x.bnd ||| y.bnd, ecc := x.ecc ||| y.ecc, flt := x.flt ||| y.flt,
    pages := (x.pages ++ y.pages).eraseDups }

/-- What the conditions come to, once the lanes without one are done (R302): the first condition traps with the lanes of
later ones pending, and page faults alone park. `all` is the MASK of a uniform instruction, `adr` a lane's address. -/
def Seen.flow (x : Seen) (s : State) (wr : Bool) (all : Option Mask) (adr : Nat → Addr) : Flow :=
  let t (code : Nat) (ls rest : Mask) : Flow :=
    .trap s { code := code, lanes := all.getD ls, pend := if all.isSome then 0 else rest &&& ~~~ ls, addr := adr (lowestLane ls), whole := all.isSome }
  if x.acc != 0 then t 5 x.acc (x.mis ||| x.bnd ||| x.ecc ||| x.flt)
  else if x.mis != 0 then t 3 x.mis (x.bnd ||| x.ecc ||| x.flt)
  else if x.bnd != 0 then t 15 x.bnd (x.ecc ||| x.flt)
  else if x.ecc != 0 then t 16 x.ecc x.flt
  else if x.flt != 0 then .park s (all.getD x.flt) x.pages wr (adr (lowestLane x.flt))
  else .done s

/-- What an instruction comes to whose lanes `rest` still wait for translations or for a peer (R60): it goes on with those and with the
lanes that have met a condition; with none, the conditions decide. -/
def Seen.finish (x : Seen) (rest : Mask) (s : State) (wr : Bool) (all : Option Mask) (adr : Nat → Addr) : Flow :=
  if rest != 0 then .part s (all.getD (rest ||| x.any)) else x.flow s wr all adr

/-- An access with what translation makes of it. -/
abbrev Placed := Acc × LaneTr

/-- The key of an operation at a peer: lanes that meet on an address and size share it (R203, R409). -/
def Acc.key (a : Acc) : Nat := a.addr.toNat * 1024 + a.n

/-- An operation of a fragment at a peer has been sent: it completes under the window it was sent with (R54). -/
def State.isSent (s : State) (w : Who) (key : Nat) : Bool := s.fab.replies.any fun r => r.client == .frag w.core w.entry && r.key == key

/-- Translates every access. -/
def State.sortAccs (s : State) (w : Who) (h : How) (as : List Acc) : List Placed :=
  as.map fun a => (a, if s.isSent w a.key then .peer 0 else s.laneTr w (if h.uni then none else some a.lane) a.addr a.n h.wr)

/-- Lanes with an access that meets a test. -/
def lanesThat (rs : List Placed) (p : Placed → Bool) : Mask := rs.foldl (fun m r => if p r then m ||| laneBit r.1.lane else m) 0

/-- Pages whose translation is not yet known (R60). -/
def missPages (rs : List Placed) : List Nat :=
  (rs.flatMap fun r => match r.2 with | .miss ps => ps | _ => []).eraseDups

/-- Lanes that wait for a translation. -/
def missLanes (rs : List Placed) : Mask := lanesThat rs fun r => match r.2 with | .miss _ => true | _ => false

/-- The die asks for what accesses miss. -/
def State.askFor (s : State) (w : Who) (rs : List Placed) (wr : Bool) : State :=
  match missPages rs with
  | [] => s
  | ps => s.askPages w ps wr

/-- Lanes with ACCESS, and lanes that fault with their pages. -/
def seenOf (rs : List Placed) : Seen :=
  let acc := lanesThat rs fun r => r.2 == .access
  let isFault (r : Placed) : Bool := match r.2 with | .fault _ => true | _ => false
  { acc := acc, flt := lanesThat rs isFault &&& ~~~ acc,
    pages := (rs.flatMap fun r => match r.2 with
      | .fault ps => if acc.getLsbD r.1.lane then [] else ps
      | _ => []).eraseDups }

/-- The accesses of lanes outside a set. -/
def without (m : Mask) (rs : List Placed) : List Placed := rs.filter fun r => !m.getLsbD r.1.lane

/-- What comes of reading one access: its bytes with their poison, a peer's refusal, or nothing yet. -/
inductive Byt where
  | data (bs : List Byte) (bad : Bool)
  | refused
  | waits
  deriving DecidableEq, Repr

/-- Joins what is read of the bytes of one access: all of them must have come. -/
def Byt.join : Byt → Byt → Byt
  | .waits, _ | _, .waits => .waits
  | .refused, _ | _, .refused => .refused
  | .data a x, .data b y => .data (a ++ b) (x || y)

/-- Performs what an access to these locations comes after (R408); `false` when a release among that must still wait. -/
def State.settlePosts (s : State) (w : Who) (p : Place) (locs : List Nat) : Bool × State :=
  let f (q : Post) : Bool := q.slot == w.slot && q.place.same p && q.op.locs.any fun l => locs.contains l
  if s.hindered w.core f then (false, s) else (true, s.performWhere w.core f)

/-- The accesses of single bytes that an access over the edge of a fabric window is made of (R202). -/
def bytePieces (a : Acc) (bs : List (Addr × Tr)) : List Placed :=
  bs.map fun (b, t) => ({ a with addr := b, n := 1 }, match t with | .loc l => .ok [l] | .peer e => .peer e | _ => .access)

/-- Reads one piece of an access at its place. `memo` holds the bytes that the instruction has read already: lanes that read the same
bytes receive one value of them (R409); an access for the whole fragment has no other lane beside it. -/
def State.readPiece (s : State) (w : Who) (h : How) (memo : Tbl (Byte × Bool)) (r : Placed) : Byt × Tbl (Byte × Bool) × State :=
  match r.2 with
  | .ok locs =>
    let p := placeOf w.core (locs.headD 0) h.pol h.atomic
    match s.settlePosts w p locs with
    | (false, s) => (.waits, memo, s)
    | (true, s) =>
      if h.uni then
        let (bs, s) := s.readBytes p (s.tagOf w.ctx) locs
        (.data (bs.map Prod.fst) (bs.any Prod.snd), memo, s)
      else
        let new := locs.filter fun l => (memo.get? l).isNone
        let (bs, s) := s.readBytes p (s.tagOf w.ctx) new
        let memo := (new.zip bs).foldl (fun t (l, b) => t.set l b) memo
        let got := locs.map fun l => (memo.get? l).getD (0, false)
        (.data (got.map Prod.fst) (got.any Prod.snd), memo, s)
  | .peer e =>
    match s.fabAccess (.frag w.core w.entry) r.1.key w.ctx e .load r.1.addr r.1.n [] (ordRel h.order) with
    | (none, s) => (.waits, memo, s)
    | (some g, s) => (if g.refused then .refused else .data g.data g.poisoned, memo, s)
  | _ => (.refused, memo, s)

/-- Reads one access. -/
def State.readAcc (s : State) (w : Who) (h : How) (memo : Tbl (Byte × Bool)) (r : Placed) : Byt × Tbl (Byte × Bool) × State :=
  match r.2 with
  | .mixed bs => (bytePieces r.1 bs).foldl (fun (b, memo, s) r =>
      let (c, memo, s) := s.readPiece w h memo r
      (b.join c, memo, s)) (.data [] false, memo, s)
  | _ => s.readPiece w h memo r

/-- Reads a list of accesses in lane order. -/
def State.readAccs (s : State) (w : Who) (h : Nat → How) (memo : Tbl (Byte × Bool)) : List Placed → List (Acc × Byt) × State
  | [] => ([], s)
  | r :: t =>
    let (b, memo, s) := s.readAcc w (h r.1.lane) memo r
    let (bs, s) := State.readAccs s w h memo t
    ((r.1, b) :: bs, s)

/-- What comes of the accesses of a reading instruction: the conditions met, the bytes read for the lanes all of whose accesses are
complete, and the lanes that still wait. -/
structure Gather where
  s : State
  x : Seen := {}
  bytes : List (Acc × List Byte) := []
  rest : Mask := 0

/-- The lanes of what was read that meet a test. -/
def bytLanes (bs : List (Acc × Byt)) (p : Byt → Bool) : Mask := bs.foldl (fun m r => if p r.2 then m ||| laneBit r.1.lane else m) 0

/-- Data that are poisoned. -/
def Byt.isBad : Byt → Bool
  | .data _ b => b
  | _ => false

/-- The posts that a release of x covers: earlier releases of the wave, and its writes to the regions bound to x (R219). -/
def State.covers (s : State) (w : Who) (x : Addr) (q : Post) : Bool :=
  q.slot == w.slot && (q.rel.isSome || (s.bound w x).any fun (b, _) => b.meets q.addr q.op.locs.length)

/-- The release half before an access: the covered writes are performed and raised, and the record goes (R211, R219). -/
def State.releaseFor (s : State) (w : Who) (cap : Capture) (x : Addr) : State :=
  let s := s.performWhere w.core (s.covers w x)
  (s.cleanCore w.core cap.set.level (s.coversOf w.core w.ctx ((s.bound w x).map Prod.fst))).updWave w fun wv => wv.clearAcq cap.index

/-- A FENCE.sc at the scope of a seq_cst access (R218). -/
def State.fenceSc (s : State) (w : Who) (cap : Capture) : State := (s.drain w cap).acquire w cap none

/-- Reads accesses that are sorted: those that miss are asked for, and the lanes without a condition read. -/
def State.gatherPlaced (s : State) (w : Who) (h : Nat → How) (wr : Bool) (rs : List Placed) : Gather :=
  let s := s.askFor w rs wr
  let miss := missLanes rs
  let x := seenOf rs
  let go := without (x.acc ||| x.flt ||| miss) rs
  let (bs, s) := (s.fillCore w (go.map fun r => r.1.addr) wr).readAccs w h [] go
  let ref := bytLanes bs (· == .refused)
  let rest := (miss ||| bytLanes bs (· == .waits)) &&& ~~~ ref &&& ~~~ x.acc
  let bad := bytLanes bs Byt.isBad &&& ~~~ (ref ||| rest)
  let out := ref ||| bad ||| rest
  { s := s, x := { x with acc := x.acc ||| ref, ecc := bad, flt := x.flt &&& ~~~ out }, rest := rest,
    bytes := bs.filterMap fun r => match r.2 with
      | .data b _ => if out.getLsbD r.1.lane then none else some (r.1, b)
      | _ => none }

/-- Sorts and reads relaxed accesses. -/
def State.gather (s : State) (w : Who) (h : How) (as : List Acc) : Gather := s.gatherPlaced w (fun _ => h) h.wr (s.sortAccs w h as)

/-- The bytes of a lane's k-th access. -/
def bytesAt (bs : List (Acc × List Byte)) (lane k : Nat) : List Byte :=
  ((bs.filter fun r => r.1.lane == lane)[k]?.map Prod.snd).getD []
/-- The value of a lane's k-th access. -/
def valAt (bs : List (Acc × List Byte)) (lane k : Nat) : Nat := leNat (bytesAt bs lane k)
/-- The lanes whose accesses were all read. -/
def lanesGot (bs : List (Acc × List Byte)) : Mask := bs.foldl (fun m r => m ||| laneBit r.1.lane) 0

/-- The address of a lane among an instruction's accesses. -/
def addrOf (as : List Acc) (lane : Nat) : Addr := ((as.find? fun a => a.lane == lane).map fun a => a.addr).getD 0

/-- Lanes with a misaligned access. -/
def misLanes (as : List Acc) : Mask := as.foldl (fun m a => if a.addr.toNat % a.n != 0 then m ||| laneBit a.lane else m) 0

/-- An ordered or indivisible access with misaligned lanes (R202): ACCESS first where a lane has it, as R302 orders them; no
lane has any effect. -/
def misTrap (s : State) (rs : List Placed) (all : Option Mask) : Option Flow :=
  let as := rs.map Prod.fst
  let x := seenOf rs
  let m := misLanes as &&& ~~~ x.acc
  if m == 0 then none
  else if x.acc != 0 then none
  else some (Seen.flow { x with mis := m, flt := x.flt &&& ~~~ m } s false all (addrOf as))

/-- Lanes kept out of an access as misaligned when another lane's ACCESS is reported. -/
def Seen.withMis (x : Seen) (m : Mask) : Seen := { x with mis := m &&& ~~~ x.acc, flt := x.flt &&& ~~~ m, ecc := x.ecc &&& ~~~ m }

/-- How an instruction whose BYTE holds an order and scope makes its accesses (R198, R207). -/
def State.how (s : State) (w : Who) (byte : BitVec 8) (pol : BitVec 2) (h : How) : How :=
  let o := ordOf byte
  let cap := s.captured w (scopeOf byte)
  { h with order := o, cap := cap, pol := if o == 0 then pol else raisePol pol cap.set.level }

/-- SCOPESTALE of an ordered access, as it issues (R211). -/
def State.staleFlow (s : State) (w : Who) (h : How) (lanes : Mask) : Option Flow :=
  if h.order == 0 || (s.frag w).issued.isSome then none else (s.stale w h.cap (ordRel h.order) lanes).map (.trap s)

/-- The location of an access and its place, none at a peer. -/
def whereIs (w : Who) (h : How) (r : Placed) : Option (Nat × Place) :=
  match r.2 with
  | .ok locs => some (locs.headD 0, placeOf w.core (locs.headD 0) h.pol h.atomic)
  | _ => none

/-- The acquire half of the accesses that were read. -/
def State.acquireEach (s : State) (w : Who) (h : How) (rs : List Placed) : State :=
  if ordAcq h.order then ((rs.map fun r => (r.1.addr, whereIs w h r)).eraseDups).foldl (fun s x => s.acquire w h.cap (some x)) s else s

/-- The acquire half for the lanes that were read, and the closing FENCE.sc of a seq_cst access. -/
def State.acquireAll (s : State) (w : Who) (h : How) (rs : List Placed) : State :=
  let s := s.acquireEach w h rs
  if h.order == 4 then s.fenceSc w h.cap else s

/-- The accesses of a list that were read. -/
def readOf (rs : List Placed) (bs : List (Acc × List Byte)) : List Placed := rs.filter fun r => bs.any fun b => b.1 == r.1

/-- A table of register values by key. -/
def keyed (ks : List (Nat × Word)) : Tbl Word := ks.foldl (fun t (k, v) => t.set k v) []

/-- A load (LD, LDS, GLD): every lane reads at its place; values return later as `words` lays them out. An ordered or uniform one reads
once everything it needs is known. -/
def State.loadFlow (s : State) (w : Who) (h : How) (all : Option Mask) (act : Mask) (eligible : Bool) (as : List Acc)
    (words : Nat → Nat → List (Nat × Word)) : Flow :=
  match s.staleFlow w h (all.getD act) with
  | some f => f
  | none =>
    let rs := s.sortAccs w h as
    if (h.order != 0 || h.uni) && !(missPages rs).isEmpty then .part (s.askFor w rs h.wr) (all.getD act)
    else if h.order == 4 && s.mustWait w h.cap then .part s (all.getD act)
    else
      match (if h.order == 0 then none else misTrap s rs all) with
      | some f => f
      | none =>
        let mis := if h.order == 0 then 0 else misLanes as
        let s := if h.order == 4 then s.fenceSc w h.cap else s
        let g := s.gatherPlaced w (fun _ => h) h.wr (without mis rs)
        if (h.order != 0 || h.uni) && g.rest != 0 then .part g.s (all.getD act)
        else
          let s := g.s.acquireAll w h (readOf rs g.bytes)
          let vals := keyed (g.bytes.flatMap fun (a, b) => words a.lane (leNat b))
          let s := if g.bytes.isEmpty then s else s.later w h.uni eligible (if h.uni then 0 else lanesGot g.bytes) vals
          (g.x.withMis mis).finish g.rest s h.wr all (addrOf as)

/-- The values of lane registers as the entries of a pending result. -/
def laneKeys (lane : Nat) (ws : List (Nat × Word)) : List (Nat × Word) := ws.map fun (r, x) => (r * 64 + lane, x)

/-! ## Posted accesses (R91, R314, R409) -/

/-- A post enters its core's list: it is owed to the launch, and to the team's storage where it goes there (R91, R170). -/
def State.postOp (s : State) (w : Who) (h : How) (loc : Nat) (addr : Addr) (op : PostOp) : State :=
  let (id, s) := s.fresh
  let rel := ordRel h.order
  let p : Post :=
    { id := id, slot := w.slot, team := w.team, launch := w.launch, ctx := w.ctx, place := placeOf w.core loc h.pol h.atomic,
      op := op, addr := addr, rel := if rel then some h.cap else none, binds := if rel then s.bound w addr else [] }
  let s := (s.updCore w.core fun c => { c with posts := c.posts ++ [p] }).addCount w.launch 1
  let s := if isChip loc then s.updTeam w.team fun t => { t with owed := t.owed + 1 } else s
  if h.order == 4 then s.performPost w.core p else s

/-- The bytes that an access stores, by where they go: a location, or 2^128 and the address in a fabric window. -/
def storeCells (r : Placed × List Byte) : List (Nat × Byte) :=
  match r.1.2 with
  | .ok locs => locs.zip r.2
  | .peer _ => ((List.range r.1.1.n).map fun i => 2 ^ 128 + (r.1.1.addr + BitVec.ofNat 64 i).toNat).zip r.2
  | _ => []

/-- The bytes that each access stores: of a byte that several lanes write, the highest lane's value (R409). -/
def storeBytes (rs : List (Placed × List Byte)) : List (Placed × Tbl Byte) :=
  let win : Tbl Nat := rs.foldl (fun t r => (storeCells r).foldl (fun t (l, _) => Tbl.set t l r.1.1.lane) t) []
  rs.map fun r => (r.1, ((storeCells r).filter fun (l, _) => win.get? l == some r.1.1.lane).foldl (fun t (l, b) => Tbl.set t l b) [])

/-- A misaligned store over the edge of a fabric window is made of stores of single bytes (R202). -/
def storePieces (r : Placed × List Byte) : List (Placed × List Byte) :=
  match r.1.2 with
  | .mixed bs => (bytePieces r.1.1 bs).zip (r.2.map fun b => [b])
  | _ => [r]

/-- A store to a peer: one operation, or one for each byte that no higher lane writes where only some are left (R409). -/
def State.storePeer (s : State) (w : Who) (h : How) (win : BitVec 128) (a : Acc) (bs : Tbl Byte) : State :=
  let one (s : State) (a : Addr) (n : Nat) (data : List Byte) : State :=
    (s.addCount w.launch 1).fabSend w.ctx win .store a n data (ordRel h.order) none (some w.launch)
  if bs.length == a.n then one s a.addr a.n bs.vals
  else bs.foldl (fun s (k, b) => one s (BitVec.ofNat 64 (k - 2 ^ 128)) 1 [b]) s

/-- A store by the lanes without a condition, each as `h` says: one post for each access, or an operation of the window's stream (R54). -/
def State.storeAccs (s : State) (w : Who) (h : Nat → How) (fe : Bool) (rs : List (Placed × List Byte)) : State :=
  (storeBytes (rs.flatMap storePieces)).foldl (fun s r =>
    if r.2.isEmpty then s
    else match r.1.2 with
    | .ok locs => s.postOp w (h r.1.1.lane) (locs.headD 0) r.1.1.addr (if fe then .storeFe r.2 else .store r.2)
    | .peer e => s.storePeer w (h r.1.1.lane) e r.1.1 r.2
    | _ => s) s

/-- Some access goes to a peer. -/
def anyPeer (rs : List Placed) : Bool := rs.any fun r => match r.2 with | .peer _ | .mixed _ => true | _ => false

/-- What a release half does before the stores of an instruction: a seq_cst one is fenced, one that goes to a peer waits for every earlier
write (R224), and the record goes. -/
def State.preStore (s : State) (w : Who) (h : How) (go : List Placed) : State :=
  if h.order == 4 then s.fenceSc w h.cap
  else if ordRel h.order && anyPeer go then s.drain w h.cap
  else if ordRel h.order && !go.isEmpty then s.updWave w fun wv => wv.clearAcq h.cap.index
  else s

/-- A store (ST, STS, STF, GST) of `data`. A seq_cst store that goes to a peer waits for the acknowledgement before its
closing fence (R218). -/
def State.storeFlow (s : State) (w : Who) (h : How) (fe : Bool) (all : Option Mask) (act : Mask) (as : List Acc)
    (data : Nat → List Byte) : Flow :=
  let f := s.frag w
  if f.st == .syncwait && f.wait.kind == .reply then
    if s.fabBusy w.ctx || s.mustWait w f.wait.cap then .hold s else .done (s.fenceSc w f.wait.cap)
  else
    match s.staleFlow w h (all.getD act) with
    | some f => f
    | none =>
      let rs := s.sortAccs w h as
      let strict := h.order != 0 || fe
      if (strict || h.uni) && !(missPages rs).isEmpty then .part (s.askFor w rs true) (all.getD act)
      else if (h.order == 4 || (ordRel h.order && anyPeer rs)) && s.mustWait w h.cap then .part s (all.getD act)
      else
        match (if strict then misTrap s rs all else none) with
        | some f => f
        | none =>
          let mis := if strict then misLanes as else 0
          let x := seenOf rs
          let rest := missLanes rs &&& ~~~ x.acc
          let go := without (x.acc ||| x.flt ||| mis ||| rest) rs
          let s := (((s.askFor w rs true).fillCore w (go.map fun r => r.1.addr) true).preStore w h go).storeAccs w (fun _ => h) fe
            (go.map fun r => (r, data r.1.lane))
          if h.order == 4 && (x.any ||| mis) == 0 && !go.isEmpty then
            if anyPeer go then .wait s { kind := .reply, cap := h.cap } else .done (s.fenceSc w h.cap)
          else ({ x with flt := x.flt &&& ~~~ rest }.withMis mis).finish rest s true all (addrOf as)

/-! ## Lines brought near (R415) -/

/-- Brings the line of a location to the place a policy names. -/
def State.prefetch (s : State) (w : Who) (loc : Nat) (pol : BitVec 2) : State :=
  match pol.toNat with
  | 0 => (s.l1Line w.core (s.tagOf w.ctx) (loc / Config.lineBytes)).2
  | 1 => (s.l2Line w.die (s.tagOf w.ctx) (loc / Config.lineBytes)).2
  | _ => s

end Machine
end Sys2Proof
end

