-- ==== Sys2Proof/Machine/LaneMem.lean ====
section
/-! DEFINITION. Lane loads and stores, window accesses, full-empty accesses and prefetch (R405 to R415). -/

namespace Sys2Proof
namespace Machine

/-! ## Addresses (R405, R406, R412) -/

/-- The sources of an address form: the base, and the index where it has one (R305, R405). -/
def memUse (e : EMod) : SrcUse := { base := true, b := e.src3.toNat / 32 != 0 }
/-- The sources of a window form (R412). -/
def winUse (e : EMod) : SrcUse := { base := true, b := e.mod.getLsbD 2 }

/-- The accesses of the active lanes. -/
def accsOf (act : Mask) (s : Nat) (adr : Nat → Addr) : List Acc := (lanesOf act).map fun l => { lane := l, addr := adr l, n := s }

/-- The bytes that a lane stores from its data register. -/
def dataOf (e : EMod) (wv : Wave) (vd l : Nat) : List Byte :=
  natBytes (accSize e) (wv.image false (fmtBits e.fmt.toNat) e.x2 l vd)

/-! ## Loads and stores -/

/-- A lane load from the addresses `adr` gives. -/
def loadLanes (i : Instr) (f : LForm) (u : EMod → SrcUse) (adr : EMod → Wave → Nat → Addr) (se byte : EMod → Bool × BitVec 8)
    (s : State) : Host.Outcome State Fault Refusal :=
  let e := i.extL f
  issue i (opsLane (u e) f e) (fun s w =>
    let act := s.active w e.gsense e.guard
    let h := s.how w (byte e).2 (e.mod.extractLsb' 0 2) {}
    s.loadFlow w h none act (se e).1 (accsOf act (accSize e) (adr e (s.regs w))) fun l x =>
      laneKeys l (loadWords e.fmt.toNat e.x2 f.vd.toNat x)) s

/-- A lane store to the addresses `adr` gives. -/
def storeLanes (i : Instr) (f : LForm) (u : EMod → SrcUse) (adr : EMod → Wave → Nat → Addr) (byte : EMod → BitVec 8)
    (s : State) : Host.Outcome State Fault Refusal :=
  let e := i.extL f
  issue i (opsLane (u e) f e) (fun s w =>
    let act := s.active w e.gsense e.guard
    let wv := s.regs w
    let h := s.how w (byte e) (e.mod.extractLsb' 0 2) { wr := true }
    s.storeFlow w h false none act (accsOf act (accSize e) (adr e wv)) fun l => dataOf e wv f.vd.toNat l) s

/-- LD. MOD[2] is .se (R411). -/
def execLd (f : LForm) (s : State) :=
  loadLanes (.ld f) f memUse (fun e => laneAddr f e (accSize e)) (fun e => (e.mod.getLsbD 2, 0))
    (fun e => (false, e.byte)) s
/-- ST. -/
def execSt (f : LForm) (s : State) :=
  storeLanes (.st f) f memUse (fun e => laneAddr f e (accSize e)) (fun e => e.byte) s
/-- LDS: relaxed, in a window. -/
def execLds (f : LForm) (s : State) :=
  loadLanes (.lds f) f winUse (fun e => windowAddr f e (accSize e)) (fun _ => (false, 0)) (fun _ => (false, 0)) s
/-- STS. -/
def execSts (f : LForm) (s : State) :=
  storeLanes (.sts f) f winUse (fun e => windowAddr f e (accSize e)) (fun _ => 0) s

/-! ## Full-empty access (R175 to R178, R413, R414) -/

/-- A granule is full. -/
def State.isFull (s : State) (g : Nat) : Bool := (s.mem.empties.get? g).isNone
/-- Makes granules empty. -/
def State.empty (s : State) (gs : List Nat) : State :=
  { s with mem := { s.mem with empties := gs.foldl (fun e g => e.set g ()) s.mem.empties } }

/-- An instruction blocked before `stamp` waits on a granule (R177). Wait.n is an instruction's stamp, Wait.gran its blocked
lanes' granules. -/
def State.olderWaits (s : State) (g stamp : Nat) : Bool :=
  s.cores.any fun (_, c) => c.frags.any fun (_, f) =>
    f.st == .syncwait && f.wait.kind == .fullEmpty && f.wait.n < stamp && f.wait.gran.any fun (_, x) => x == g

/-- A window access only: a virtual address is ACCESS (R178). -/
def windowsOnly (rs : List Placed) : List Placed := rs.map fun r => if isWindow r.1.addr then r else (r.1, .access)

/-- What LDF has served: values, lanes of poisoned granules, lanes left with their granules. -/
structure Served where
  s : State
  vals : List (Acc × Nat) := []
  ecc : Mask := 0
  left : Tbl Nat := []

/-- Serves the lanes of one LDF whose granules are full, in lane order (R177): each read, with its test and clear, is one
step. -/
def serveLanes (w : Who) (clear : Bool) (stamp : Nat) (rs : List Placed) (s : State) : Served :=
  rs.foldl (fun (z : Served) r =>
    match r.2 with
    | .ok locs =>
      let g := locs.headD 0 / 16
      match z.s.settlePosts w .scratch locs with
      | (false, s) => { z with s := s, left := z.left.set r.1.lane g }
      | (true, s) =>
        if !s.isFull g || s.olderWaits g stamp then { z with s := s, left := z.left.set r.1.lane g }
        else
          let (bs, s) := s.readBytes .scratch 0 locs
          let s := if clear then s.empty [g] else s
          if bs.any Prod.snd then { z with s := s, ecc := z.ecc ||| laneBit r.1.lane }
          else { z with s := s, vals := z.vals ++ [(r.1, leNat (bs.map Prod.fst))] }
    | _ => z) { s := s }

/-- LDF (LD.fe, LD.fec). Wait.n is the stamp of the instruction and Wait.lanes its blocked lanes. -/
def execLdf (f : LForm) (s : State) :=
  let i : Instr := .ldf f
  let e := i.extL f
  issue i (opsLane (memUse e) f e) (fun s w =>
    let fr := s.frag w
    let more := fr.st == .syncwait && fr.wait.kind == .fullEmpty
    let act := if more then fr.wait.lanes else s.active w e.gsense e.guard
    let as := accsOf act (accSize e) (laneAddr f e (accSize e) (s.regs w))
    let h := s.how w e.byte 0 {}
    match s.staleFlow w h act with
    | some fl => fl
    | none =>
      let rs := windowsOnly (s.sortAccs w h as)
      let x := seenOf rs
      if !more && h.order == 4 && s.mustWait w h.cap then .part s act
      else match misTrap s rs none with
      | some fl => fl
      | none =>
        let mis := misLanes as &&& ~~~ x.acc
        let s := if h.order == 4 && !more then s.fenceSc w h.cap else s
        let (stamp, s) := if more then (fr.wait.n, s) else s.fresh
        let go := without (x.acc ||| mis) rs
        let z := serveLanes w (e.mod.getLsbD 2) stamp go s
        let vals := keyed (z.vals.flatMap fun (a, v) => laneKeys a.lane (loadWords e.fmt.toNat e.x2 f.vd.toNat v))
        let got := z.vals.foldl (fun m r => m ||| laneBit r.1.lane) (0 : Mask)
        let s := z.s.acquireAll w h (go.filter fun r => got.getLsbD r.1.lane)
        let s := if got == 0 then s else s.later w false false got vals
        let left := z.left.foldl (fun m r => m ||| laneBit r.1) (0 : Mask)
        if x.acc != 0 then
          .trap s { code := 5, lanes := x.acc, pend := mis ||| z.ecc ||| left, addr := addrOf as (lowestLane x.acc) }
        else if z.ecc != 0 then .trap s { code := 16, lanes := z.ecc, pend := left, addr := addrOf as (lowestLane z.ecc) }
        else if left != 0 then .wait s { kind := .fullEmpty, n := stamp, lanes := left, cap := h.cap, gran := z.left }
        else .done s) s

/-- STF (ST.fe). -/
def execStf (f : LForm) (s : State) :=
  let i : Instr := .stf f
  let e := i.extL f
  issue i (opsLane (memUse e) f e) (fun s w =>
    let act := s.active w e.gsense e.guard
    let wv := s.regs w
    let as := accsOf act (accSize e) (laneAddr f e (accSize e) wv)
    let h := s.how w e.byte 0 { wr := true }
    let out := as.foldl (fun m a => if isWindow a.addr then m else m ||| laneBit a.lane) (0 : Mask)
    if out == 0 then s.storeFlow w h true none act as fun l => dataOf e wv f.vd.toNat l
    else
      match s.staleFlow w h act with
      | some fl => fl
      | none =>
        let rs := windowsOnly (s.sortAccs w h as)
        let x := seenOf rs
        let mis := misLanes as &&& ~~~ x.acc
        let go := without (x.acc ||| mis) rs
        if h.order == 4 && s.mustWait w h.cap then .part s act
        else
          (x.withMis mis).flow ((s.preStore w h go).storeAccs w (fun _ => h) true (go.map fun r => (r, dataOf e wv f.vd.toNat r.1.lane)))
            true none (addrOf as)) s

/-- The granules of a range. -/
def granules (loc n : Nat) : List Nat := (List.range (n / 16)).map fun k => loc / 16 + k

/-- SFILL: each active lane's range becomes empty. A host virtual address is ACCESS (R178), and so is a range outside its window; a
range whose address or length is not a multiple of 16 is MISALIGN, after ACCESS; an empty one does nothing (R302, R414). -/
def execSfill (f : LForm) (s : State) :=
  let i : Instr := .sfill f
  let e := i.extL f
  issue i (opsLane (memUse e) f e) (fun s w =>
    let act := s.active w e.gsense e.guard
    let wv := s.regs w
    let rs := (lanesOf act).map fun l => (l, laneAddr f e 16 wv l, (wv.vreg l f.vd.toNat).toNat)
    let pick (p : Addr → Nat → Nat → Bool) : Mask := rs.foldl (fun m (l, a, n) => if p a n l then m ||| laneBit l else m) 0
    let loc (a : Addr) (n l : Nat) : Option Nat := if isWindow a then s.winLoc w.team (some (wv.idx, l)) a n else none
    let acc := pick fun a n l => !isWindow a || (n != 0 && (loc a n l).isNone)
    let mis := pick (fun a n _ => a.toNat % 16 != 0 || n % 16 != 0) &&& ~~~ acc
    let go := rs.filterMap fun (l, a, n) => if (acc ||| mis).getLsbD l || n == 0 then none else (loc a n l).map fun b => (b, n)
    let (ok, s') := go.foldl (fun (ok, s) (b, n) =>
      let (k, s) := s.settlePosts w .scratch (locsFrom b n)
      (ok && k, s)) (true, s)
    if !ok then .part s' act
    else
      let ran := go.foldl (fun s (b, n) => s.empty (granules b n)) s'
      if acc != 0 then .trap ran { code := 5, lanes := acc, pend := mis }
      else if mis != 0 then .trap s { code := 3, lanes := mis }
      else .done ran) s

/-! ## Prefetch (R415) -/

/-- PREF: the line of each aligned, translated address comes to the place named; nothing else happens. -/
def execPref (f : LForm) (s : State) :=
  let i : Instr := .pref f
  let e := i.extL f
  issue i (opsLane (memUse e) f e) (fun s w =>
    let act := s.active w e.gsense e.guard
    .done ((accsOf act (accSize e) (laneAddr f e (accSize e) (s.regs w))).foldl (fun s a =>
      if isWindow a.addr || a.addr.toNat % a.n != 0 then s
      else match s.trFrag w a.addr false with
        | .loc l => s.prefetch w l (e.mod.extractLsb' 0 2)
        | _ => s) s)) s

end Machine
end Sys2Proof
end

