-- ==== Sys2Proof/Machine/Transcend.lean ====
section
/-! DEFINITION. The transcendental functions of R389: a fixed-point enclosure of the exact value, narrow enough to decide
the rounding, or the exact value where the function has one. -/

namespace Sys2Proof
namespace Machine

/-- Fraction bits of the fixed-point values. -/
def fxBits : Nat := 672
/-- One in fixed point. -/
def fxOne : Nat := 2 ^ fxBits
/-- Half-width of the enclosures, in units of 2^-fxBits, above the sum of the truncations. -/
def fxErr : Nat := 2 ^ 16

/-- Product of fixed-point values. -/
def fxMul (a b : Nat) : Nat := a * b / fxOne

/-- Sum of t, t·y/(k+1), t·y²/((k+1)(k+2)), ...: `n` terms. -/
def expTail : Nat → Nat → Nat → Nat → Nat
  | 0, _, _, _ => 0
  | n + 1, y, k, t => t + expTail n y (k + 1) (fxMul t y / (k + 1))
/-- e^y for y below 1. -/
def fxExp (y : Nat) : Nat := expTail 160 y 0 fxOne

/-- Sum of z^k / k over odd k, with z2 the square: `n` terms. -/
def atanhTail : Nat → Nat → Nat → Nat → Nat
  | 0, _, _, _ => 0
  | n + 1, z2, k, zk => zk / k + atanhTail n z2 (k + 2) (fxMul zk z2)
/-- ln m for m in fixed point from 1 to 2: 2·atanh((m - 1)/(m + 1)). -/
def fxLn (m : Nat) : Nat :=
  let z := (m - fxOne) * fxOne / (m + fxOne)
  2 * atanhTail 230 (fxMul z z) 1 z
/-- ln 2. -/
def fxLn2 : Nat := fxLn (2 * fxOne)

/-- Alternating sum of 1/(k·x^k) over odd k: sums of the terms added and taken away. -/
def atanTail : Nat → Nat → Nat → Nat → Nat × Nat
  | 0, _, _, _ => (0, 0)
  | n + 1, x2, k, p =>
    let (a, b) := atanTail n x2 (k + 2) (p / x2)
    (p / k + b, a)
/-- arctan(1/x). -/
def fxAtanInv (x : Nat) : Nat := let (a, b) := atanTail 160 (x * x) 1 (fxOne / x); a - b
/-- π, by Machin's formula. -/
def fxPi : Nat := 16 * fxAtanInv 5 - 4 * fxAtanInv 239

/-- Alternating Taylor sum: terms added and taken away. -/
def sinTail : Nat → Nat → Nat → Nat → Nat × Nat
  | 0, _, _, _ => (0, 0)
  | n + 1, y2, k, t =>
    let (a, b) := sinTail n y2 (k + 2) (fxMul t y2 / ((k + 1) * (k + 2)))
    (t + b, a)
/-- sin y for y from 0 to π/2. -/
def fxSin (y : Nat) : Nat := let (a, b) := sinTail 90 (fxMul y y) 1 y; a - b
/-- cos y for y from 0 to π/2. -/
def fxCos (y : Nat) : Nat := let (a, b) := sinTail 90 (fxMul y y) 0 fxOne; a - b

/-- A function value: exact, or between two magnitudes of the same sign and scale. -/
inductive Encl where
  | exact (v : Val)
  | between (neg : Bool) (lo hi : Nat) (e : Int)
  deriving DecidableEq, Repr

/-- The enclosure of a fixed-point approximation with its error. -/
def encl (neg : Bool) (x : Nat) (e : Int) : Encl := .between neg (x - fxErr) (x + fxErr) e

/-- A finite value as fixed point with its fraction, for a magnitude with no bits below the fixed point. -/
def RVal.fx (x : RVal) : Nat :=
  let k := x.e + (fxBits : Int)
  if k ≥ 0 then x.m * 2 ^ k.toNat else x.m / 2 ^ (-k).toNat

/-- 2^a. Beyond ±4096 the exponent is held there: every format rounds both alike. -/
def exp2E (x : RVal) : Encl :=
  let big := (Nat.log2 x.m : Int) + x.e ≥ 12
  let k : Int := if big then (if x.neg then -4096 else 4096) else
    (let w : Int := (x.fx / fxOne : Nat); if x.neg then (if x.fx % fxOne == 0 then -w else -w - 1) else w)
  let fr := if x.neg then (fxOne - x.fx % fxOne) % fxOne else x.fx % fxOne
  if fr == 0 then .exact (.num { neg := false, m := 1, e := k })
  else encl false (fxExp (fxMul fr fxLn2)) (k - (fxBits : Int))

/-- log2 of a positive value. -/
def log2E (x : RVal) : Encl :=
  let t := Nat.log2 x.m
  let k : Int := x.e + (t : Int)
  if x.m == 2 ^ t then .exact (intV k)
  else
    let m := if t ≤ fxBits then x.m * 2 ^ (fxBits - t) else x.m / 2 ^ (t - fxBits)
    let l : Int := (fxLn m * fxOne / fxLn2 : Nat)
    let y := k * (fxOne : Int) + l
    encl (y < 0) y.natAbs (-(fxBits : Int))

/-- sin(π·a): the turn is reduced exactly, then the quadrant. -/
def sinPiE (x : RVal) : Encl :=
  let r := if x.e ≥ 1 then 0 else x.fx % (2 * fxOne)
  let half := fxOne / 2
  if r % fxOne == 0 then .exact (zeroV x.neg)
  else
    let up := r > fxOne
    let t := r % fxOne
    let neg := x.neg != up
    if t == half then .exact (.num { neg := neg, m := 1, e := 0 })
    else
      let u := if t > half then fxOne - t else t
      encl neg (fxSin (fxMul fxPi u)) (-(fxBits : Int))

/-- cos(π·a). -/
def cosPiE (x : RVal) : Encl :=
  let r := if x.e ≥ 1 then 0 else x.fx % (2 * fxOne)
  let half := fxOne / 2
  if r == 0 then .exact (.num { neg := false, m := 1, e := 0 })
  else if r == fxOne then .exact (.num { neg := true, m := 1, e := 0 })
  else if r % fxOne == half then .exact (zeroV false)
  else
    let u := if r > fxOne then 2 * fxOne - r else r
    let neg := u > half
    let v := if neg then fxOne - u else u
    encl neg (fxCos (fxMul fxPi v)) (-(fxBits : Int))

/-- tanh a = 1 - 2/(e^2a + 1). -/
def tanhE (x : RVal) : Encl :=
  if (Nat.log2 x.m : Int) + x.e ≥ 7 then .between x.neg (fxOne - 2 ^ 500) (fxOne - 1) (-(fxBits : Int))
  else
    let q := 2 * x.fx * fxOne / fxLn2
    let big := fxExp (fxMul (q % fxOne) fxLn2) * 2 ^ (q / fxOne)
    encl x.neg ((big - fxOne) * fxOne / (big + fxOne)) (-(fxBits : Int))

/-- Rounds an enclosed value: both ends round alike, or the answer is left to a free value (log entry 30). -/
def roundEncl (f : Fmt) (mode : Nat) (sat flush nancan : Bool) (r : Nat) (x : Encl) : Rounded :=
  match x with
  | .exact v => roundVal f mode sat flush nancan r v
  | .between neg lo hi e =>
    let a := roundVal f mode sat flush nancan r (.num { neg := neg, m := lo, e := e, st := true })
    let b := roundVal f mode sat flush nancan r (.num { neg := neg, m := hi, e := e, st := true })
    if a == b then a else { a with code := if Config.undecided a.code b.code % 2 == 0 then a.code else b.code }

end Machine
end Sys2Proof
end

