-- ==== Sys2Proof/Machine/LaneFloat.lean ====
section
/-! DEFINITION. The floating-point lane instructions (R385 to R391, Table 15.3), with MINMAX and ACC (R343, R344) and the
legacy classes they show (R345). -/

namespace Sys2Proof
namespace Machine

/-! ## Operands and results with their legacy classes -/

/-- A float operand: its value under FLUSH, and whether its code is subnormal (R341, R345). -/
structure FOpd where
  v : Val
  sub : Bool := false
  deriving DecidableEq, Repr, Inhabited

/-- The operand that a code stands for. -/
def fopd (f : Fmt) (flush : Bool) (code : Nat) : FOpd := { v := decodeCode f flush code, sub := isSubnormal f code }

/-- A float immediate: read in its own format, converted exactly to the operation's, then an operand of it; a NaN becomes
the operation's canonical quiet NaN (R365). -/
def fimm (src dst : Fmt) (flush : Bool) (code : Nat) : FOpd :=
  match decodeCode src false code with
  | .nan _ _ => { v := newNan }
  | v => fopd dst flush (roundVal dst 0 false false true 0 v).code

/-- A bit of a legacy mask. -/
def legBit (n : Nat) (b : Bool) : BitVec 16 := if b then BitVec.ofNat 16 (2 ^ n) else 0
/-- A NaN that signals. -/
def Val.snan : Val → Bool
  | .nan true _ => true
  | _ => false

/-- Classes 0, 1, 2 and 4, of the operands. -/
def legOpds (os : List FOpd) : BitVec 16 :=
  legBit 0 (os.any fun o => o.v.isNan) ||| legBit 1 (os.any fun o => o.v.snan) ||| legBit 2 (os.any fun o => o.sub) |||
    legBit 4 (os.any fun o => o.v.isInf)
/-- Classes 3, 14 and 15, of the result that would be written. -/
def legRes (f : Fmt) (os : List FOpd) (r : Rounded) : BitVec 16 :=
  let (neg, mag) := f.split r.code
  legBit 3 r.tiny ||| legBit 14 (f.negZero && neg && mag == 0) |||
    legBit 15 (f.inf == some mag && !(os.any fun o => o.v.isNan || o.v.isInf))
/-- Classes 11 and 12, of the resolved mode. -/
def legMode (mode : Nat) : BitVec 16 := legBit 11 (mode != 0) ||| legBit 12 (mode == 5)
/-- Class 13, of an arithmetic instruction in fp16 or bf16. -/
def legHalf (fmt : Nat) : BitVec 16 := legBit 13 (fmt == 12 || fmt == 13)

/-- The rounding of an exact value in an environment, on a lane. -/
def FEnv.round (n : FEnv) (f : Fmt) (l : Nat) (v : Val) : Rounded := roundVal f n.mode n.sat n.flush n.nancan (laneRand n.x l) v

/-- One element's result: code, flags and classes. -/
abbrev Elem := Nat × Fl × BitVec 16

/-- R386: the exact result of the operands, rounded once. -/
def arith (n : FEnv) (f : Fmt) (l : Nat) (os : List FOpd) (x : ValF) (leg : BitVec 16) : Elem :=
  let r := n.round f l x.1
  (r.code, x.2 ||| r.fl, leg ||| legOpds os ||| legRes f os r ||| legMode n.mode)

/-- The sign of an exact zero sum of unlike signs (IEEE 754): minus under RDN alone. -/
def FEnv.zneg (n : FEnv) : Bool := n.mode == 3

/-- a + b. -/
def fAdd (n : FEnv) (f : Fmt) (l : Nat) (a b : FOpd) (leg : BitVec 16) : Elem := arith n f l [a, b] (addV a.v b.v n.zneg) leg
/-- a × b. -/
def fMul (n : FEnv) (f : Fmt) (l : Nat) (a b : FOpd) (leg : BitVec 16) : Elem := arith n f l [a, b] (mulV a.v b.v) leg
/-- a × b + c. -/
def fFma (n : FEnv) (f : Fmt) (l : Nat) (a b c : FOpd) (leg : BitVec 16) : Elem :=
  arith n f l [a, b, c] (fmaV a.v b.v c.v n.zneg) (leg ||| legBit 9 true)

/-- An element as a lane's result. -/
def elemOut (bits vd : Nat) (x : Elem) : LaneOut := { v := regWords bits vd x.1, fl := x.2.1, leg := x.2.2 }

/-- A scalar instruction of three sources in the format of FMT. -/
def scalar (h : FEnv → Fmt → Nat → FOpd → FOpd → FOpd → BitVec 16 → Elem) (f : LForm) (e : EMod) (n : FEnv) (wv : Wave) (l : Nat) :
    LaneOut :=
  let c := e.fmt.toNat
  let fm := fmtOf false c
  let o (usrc : Bool) (i : Nat) : FOpd := fopd fm n.flush (wv.srcLow usrc fm.bits l i)
  elemOut fm.bits f.vd.toNat (h n fm l (o false f.va.toNat) (o e.usrc f.vb.toNat) (o false e.src3.toNat) (legHalf c))

/-- An fp64 instruction of three pairs. -/
def double (h : FEnv → Fmt → Nat → FOpd → FOpd → FOpd → BitVec 16 → Elem) (f : LForm) (e : EMod) (n : FEnv) (wv : Wave) (l : Nat) :
    LaneOut :=
  let o (usrc : Bool) (i : Nat) : FOpd := fopd fp64 n.flush (wv.src usrc 64 l i)
  elemOut 64 f.vd.toNat (h n fp64 l (o false f.va.toNat) (o e.usrc f.vb.toNat) (o false e.src3.toNat) 0)

/-- An fp32 form with an immediate: a, the immediate, and the old destination. -/
def single (h : FEnv → Fmt → Nat → FOpd → FOpd → FOpd → BitVec 16 → Elem) (f : LFlt) (n : FEnv) (wv : Wave) (l : Nat) : LaneOut :=
  let o (i : Nat) : FOpd := fopd fp32 n.flush (wv.vreg l i).toNat
  elemOut 32 f.vd.toNat (h n fp32 l (o f.va.toNat) (fimm bf16 fp32 n.flush f.f.imm16.toNat) (o f.vd.toNat) 0)

/-- HFMA2: the halves of the registers, apart (R386). -/
def halves (n : FEnv) (fm : Fmt) (l a b c vd : Nat) (bi : Option FOpd) : LaneOut :=
  let half (k : Nat) : Elem :=
    let o (x : Nat) : FOpd := fopd fm n.flush (x / 65536 ^ k % 65536)
    fFma n fm l (o a) (bi.getD (o b)) (o c) (legBit 13 true)
  let h0 := half 0
  let h1 := half 1
  { v := [(vd, BitVec.ofNat 32 (h0.1 + 65536 * h1.1))], fl := h0.2.1 ||| h1.2.1, leg := h0.2.2 ||| h1.2.2 }

/-! ## Minimum, maximum and comparison (R343, R387) -/

/-- Order of two values that are no NaN, −0 below +0. -/
def lessZ (a b : Val) : Bool := cmpV a b < 0 || (a.isZero && b.isZero && a.neg && !b.neg)

/-- Minimum or maximum under MINMAX (Table 13.10): the value and its flags. -/
def minmaxV (mm : Nat) (isMax : Bool) (a b : Val) : ValF :=
  if mm == 2 then
    let pick := !a.isNan && !b.isNan && (if isMax then cmpV a b > 0 else cmpV a b < 0)
    (quiet (if pick then a else b), 0)
  else if a.isNan || b.isNan then
    if mm == 1 && !a.snan && !b.snan && !(a.isNan && b.isNan) then (if a.isNan then b else a, 0)
    else ((firstNan [a, b]).getD newNan, snans [a, b])
  else (if isMax then (if lessZ a b then b else a) else (if lessZ b a then b else a), 0)

/-- FMIN and FMAX on one element: the value chosen, which needs no rounding. -/
def fMinMax (isMax : Bool) (n : FEnv) (f : Fmt) (_ : Nat) (a b _ : FOpd) (leg : BitVec 16) : Elem :=
  let x := minmaxV n.minmax isMax a.v b.v
  let r := roundVal f 0 false false n.nancan 0 x.1
  (r.code, x.2, leg ||| legOpds [a, b] ||| legRes f [a, b] r ||| legBit 8 (a.v.isZero && b.v.isZero && a.v.neg != b.v.neg))

/-- The conditions of FCMP with their flags (R387). -/
def condF (c : Nat) (a b : Val) : Bool × Fl :=
  let un := a.isNan || b.isNan
  let fl := if 2 ≤ c && c ≤ 5 then (if un then Fl.nv else 0) else snans [a, b]
  let d := cmpV a b
  (match c with
   | 0 => !un && d == 0 | 1 => un || d != 0 | 2 => !un && d < 0 | 3 => !un && d ≤ 0 | 4 => !un && d > 0 | 5 => !un && d ≥ 0
   | 6 => un | _ => !un, fl)

/-! ## Reciprocal, roots, and rounding to integral (R344, R388, R390) -/

/-- The special results of FRCP (0), FRSQ (1) and FSQRT (2), none for a finite operand with a finite result. -/
def recipSpecial (op : Nat) (a : Val) : Option ValF :=
  match a with
  | .nan _ _ => some ((firstNan [a]).getD newNan, snans [a])
  | .inf neg => some (match op with
      | 0 => (zeroV neg, 0)
      | 1 => if neg then (newNan, Fl.nv) else (zeroV false, 0)
      | _ => if neg then (newNan, Fl.nv) else (.inf false, 0))
  | .num x =>
    if x.isZero then some (if op == 2 then (a, 0) else (.inf x.neg, Fl.dz))
    else if x.neg && op != 0 then some (newNan, Fl.nv)
    else none

/-- The exact value for a finite operand, with a sticky mark where it does not end. -/
def recipExact (op : Nat) (x : RVal) : RVal :=
  let one : RVal := { neg := false, m := 1, e := 0 }
  match op with
  | 0 => divR one x
  | 1 =>
    -- 1/√x: the exact root where x is a square, else the root of a quotient
    let r := sqrtR x
    if r.st then sqrtR (divR one x) else divR one r
  | _ => sqrtR x

/-- ACC 2: fraction bits below the 12 most significant cleared in fp32 and fp64; NX where this changes the value (R344). -/
def accClear (acc : Nat) (f : Fmt) (r : Rounded) : Rounded :=
  if acc == 2 && (f.p == 24 || f.p == 53) then
    let c := r.code / 2 ^ (f.p - 13) * 2 ^ (f.p - 13)
    { r with code := c, fl := r.fl ||| (if c == r.code then 0 else if r.tiny then Fl.uf ||| Fl.nx else Fl.nx) }
  else r

/-- FRCP, FRSQ and FSQRT on one element. -/
def fRecip (op : Nat) (n : FEnv) (f : Fmt) (l : Nat) (a _ _ : FOpd) (leg : BitVec 16) : Elem :=
  let neg := match a.v with | .num x => x.neg && !x.isZero | .inf s => s | _ => false
  let leg := leg ||| legOpds [a] ||| legMode n.mode ||| legBit 5 (a.v.isZero || neg || a.v.isInf)
  match recipSpecial op a.v, a.v with
  | some (v, fl), _ =>
    let r := n.round f l v
    (r.code, fl ||| r.fl, leg ||| legRes f [a] r)
  | none, .num x =>
    let m := if n.acc == 0 then n.mode else 1
    let r := accClear n.acc f (roundVal f m n.sat n.flush n.nancan (laneRand n.x l) (.num (recipExact op x)))
    (r.code, r.fl, leg ||| legRes f [a] r)
  | none, _ => (0, 0, leg)

/-- FRND on one element: the integral value with a's sign, no flag but NV of a signalling NaN (R390). -/
def fRnd (n : FEnv) (f : Fmt) (l : Nat) (a _ _ : FOpd) (leg : BitVec 16) : Elem :=
  let v := match a.v with
    | .num x => if x.isZero then a.v else
        .num { neg := x.neg, m := (roundInt n.mode (laneRand n.x l) x).1.natAbs, e := 0 }
    | v => quiet v
  let r := roundVal f 0 false false n.nancan 0 v
  (r.code, snans [a.v], leg ||| legOpds [a] ||| legRes f [a] r ||| legMode n.mode)

/-! ## Transcendental functions (R389) -/

/-- FEXP2 (0), FLOG2 (1), FSIN (2), FCOS (3) and FTANH (4) on one element. -/
def fTrans (op : Nat) (n : FEnv) (f : Fmt) (l : Nat) (a _ _ : FOpd) (leg : BitVec 16) : Elem :=
  let special : Option ValF := match a.v with
    | .nan _ _ => some ((firstNan [a.v]).getD newNan, snans [a.v])
    | .inf neg => some (match op with
        | 0 => (if neg then zeroV false else .inf false, 0)
        | 1 => if neg then (newNan, Fl.nv) else (.inf false, 0)
        | 2 | 3 => (newNan, Fl.nv)
        | _ => (.num { neg := neg, m := 1, e := 0 }, 0))
    | .num x =>
      if x.isZero then some (match op with
        | 0 | 3 => (.num { neg := false, m := 1, e := 0 }, 0)
        | 1 => (.inf true, Fl.dz)
        | _ => (a.v, 0))
      else if op == 1 && x.neg then some (newNan, Fl.nv)
      else none
  let leg := leg ||| legOpds [a] ||| legMode n.mode ||| legBit 10 true
  match special, a.v with
  | some (v, fl), _ =>
    let r := n.round f l v
    (r.code, fl ||| r.fl, leg ||| legRes f [a] r)
  | none, .num x =>
    let y := match op with | 0 => exp2E x | 1 => log2E x | 2 => sinPiE x | 3 => cosPiE x | _ => tanhE x
    let r := roundEncl f n.mode n.sat n.flush n.nancan (laneRand n.x l) y
    (r.code, r.fl, leg ||| legRes f [a] r)
  | none, _ => (0, 0, leg)

/-! ## Meanings -/

/-- FADD. -/
def execFadd (f : LForm) (s : State) :=
  laneFp (.fadd f) f { a := true, b := true } true (scalar (fun n fm l a b _ g => fAdd n fm l a b g) f) s
/-- FADD (F). -/
def execFaddF (f : LFlt) (s : State) := laneFlt (.faddF f) f (immSingle f.f.imm16) false true (single (fun n fm l a b _ g => fAdd n fm l a b g) f) s
/-- FMUL. -/
def execFmul (f : LForm) (s : State) :=
  laneFp (.fmul f) f { a := true, b := true } true (scalar (fun n fm l a b _ g => fMul n fm l a b g) f) s
/-- FMUL (F). -/
def execFmulF (f : LFlt) (s : State) := laneFlt (.fmulF f) f (immSingle f.f.imm16) false true (single (fun n fm l a b _ g => fMul n fm l a b g) f) s
/-- FFMA. -/
def execFfma (f : LForm) (s : State) := laneFp (.ffma f) f { a := true, b := true, c := true } true (scalar fFma f) s
/-- FFMA (F): a × b + vd. -/
def execFfmaF (f : LFlt) (s : State) := laneFlt (.ffmaF f) f (immSingle f.f.imm16) true true (single fFma f) s
/-- FMIN. -/
def execFmin (f : LForm) (s : State) := laneFp (.fmin f) f { a := true, b := true } false (scalar (fMinMax false) f) s
/-- FMAX. -/
def execFmax (f : LForm) (s : State) := laneFp (.fmax f) f { a := true, b := true } false (scalar (fMinMax true) f) s
/-- FCMP. -/
def execFcmp (f : LForm) (s : State) :=
  laneFp (.fcmp f) f { a := true, b := true } false (fun e n wv l =>
    let fm := fmtOf false e.fmt.toNat
    let a := fopd fm n.flush (wv.srcLow false fm.bits l f.va.toNat)
    let b := fopd fm n.flush (wv.srcLow e.usrc fm.bits l f.vb.toNat)
    let (t, fl) := condF e.mod.toNat a.v b.v
    { p := some (f.vd.toNat % 8, t), fl := fl, leg := legOpds [a, b] ||| legHalf e.fmt.toNat }) s
/-- FCMP (F): the condition in VB[2:0]. -/
def execFcmpF (f : LFlt) (s : State) :=
  laneFlt (.fcmpF f) f (immSingle f.f.imm16) false false (fun n wv l =>
    let a := fopd fp32 n.flush (wv.vreg l f.va.toNat).toNat
    let b := fimm bf16 fp32 n.flush f.f.imm16.toNat
    let (t, fl) := condF (f.vb.toNat % 8) a.v b.v
    { p := some (f.vd.toNat % 8, t), fl := fl, leg := legOpds [a, b] }) s
/-- FRND. -/
def execFrnd (f : LForm) (s : State) := laneFp (.frnd f) f { a := true } true (scalar fRnd f) s
/-- FRCP. -/
def execFrcp (f : LForm) (s : State) := laneFp (.frcp f) f { a := true } true (scalar (fRecip 0) f) s
/-- FRSQ. -/
def execFrsq (f : LForm) (s : State) := laneFp (.frsq f) f { a := true } true (scalar (fRecip 1) f) s
/-- FSQRT. -/
def execFsqrt (f : LForm) (s : State) := laneFp (.fsqrt f) f { a := true } true (scalar (fRecip 2) f) s
/-- FEXP2. -/
def execFexp2 (f : LForm) (s : State) := laneFp (.fexp2 f) f { a := true } true (scalar (fTrans 0) f) s
/-- FLOG2. -/
def execFlog2 (f : LForm) (s : State) := laneFp (.flog2 f) f { a := true } true (scalar (fTrans 1) f) s
/-- FSIN. -/
def execFsin (f : LForm) (s : State) := laneFp (.fsin f) f { a := true } true (scalar (fTrans 2) f) s
/-- FCOS. -/
def execFcos (f : LForm) (s : State) := laneFp (.fcos f) f { a := true } true (scalar (fTrans 3) f) s
/-- FTANH. -/
def execFtanh (f : LForm) (s : State) := laneFp (.ftanh f) f { a := true } true (scalar (fTrans 4) f) s
/-- DADD. -/
def execDadd (f : LForm) (s : State) :=
  laneFp (.dadd f) f { a := true, b := true } true (double (fun n fm l a b _ g => fAdd n fm l a b g) f) s
/-- DMUL. -/
def execDmul (f : LForm) (s : State) :=
  laneFp (.dmul f) f { a := true, b := true } true (double (fun n fm l a b _ g => fMul n fm l a b g) f) s
/-- DFMA. -/
def execDfma (f : LForm) (s : State) := laneFp (.dfma f) f { a := true, b := true, c := true } true (double fFma f) s
/-- DADD (F). -/
def execDaddF (f : LFlt) (s : State) :=
  laneFlt (.daddF f) f 0 false true (fun n wv l =>
    elemOut 64 f.vd.toNat (fAdd n fp64 l (fopd fp64 n.flush (wv.v64 l f.va.toNat).toNat)
      (fimm bf16 fp64 n.flush f.f.imm16.toNat) 0)) s
/-- HFMA2. -/
def execHfma2 (f : LForm) (s : State) :=
  laneFp (.hfma2 f) f { a := true, b := true, c := true } true (fun e n wv l =>
    halves n (fmtOf false e.fmt.toNat) l (wv.src false 32 l f.va.toNat) (wv.src e.usrc 32 l f.vb.toNat)
      (wv.src false 32 l e.src3.toNat) f.vd.toNat none) s
/-- HFMA2 (F): each half a × b + vd in fp16. -/
def execHfma2F (f : LFlt) (s : State) :=
  laneFlt (.hfma2F f) f (immHalves f.f.imm16) true true (fun n wv l =>
    halves n fp16 l (wv.src false 32 l f.va.toNat) 0 (wv.src false 32 l f.vd.toNat) f.vd.toNat
      (some (fimm fp16 fp16 n.flush f.f.imm16.toNat))) s

end Machine
end Sys2Proof
end

