-- ==== Sys2Proof/Machine/LaneNarrow.lean ====
section
/-! DEFINITION. The narrow, dot and convert lane instructions (R392 to R398, Table 15.4). -/

namespace Sys2Proof
namespace Machine

/-! ## Sums of products (R346, R347) -/

/-- The exact sum of terms: NaN, or an infinity, by R347's group-sum rules; an exact zero is −0 only when every term is −0. -/
def sumV (ts : List Val) : ValF :=
  match firstNan ts with
  | some v => (v, 0)
  | none =>
    let pos := ts.any fun v => v.isInf && !v.neg
    let neg := ts.any fun v => v.isInf && v.neg
    if pos && neg then (newNan, Fl.nv)
    else if pos then (.inf false, 0)
    else if neg then (.inf true, 0)
    else if !ts.isEmpty && ts.all (fun v => v.isZero && v.neg) then (zeroV true, 0)
    else
      (.num (ts.foldl (fun a v => match v with
        | .num x => if x.isZero then a else if a.isZero then x else addR a x false
        | _ => a) { neg := false, m := 0, e := 0 }), 0)

/-- The products of two lists of elements with the flags of invalid ones. -/
def products (as bs : List Val) : List Val × Fl :=
  let ps := List.zipWith (fun a b => mulV a b) as bs
  (ps.map Prod.fst, ps.foldl (fun f p => f ||| p.2) 0)

/-- Element j of w bits of a register value. -/
def elemAt (w x j : Nat) : Nat := x / 2 ^ (w * j) % 2 ^ w

/-- A value times 2^k. -/
def scaleV (v : Val) (k : Int) : Val :=
  match v with
  | .num x => .num { x with e := x.e + k }
  | v => v

/-- The element of an MX block (R327): NaN under a NaN scale. -/
def mxElem (f : Fmt) (scale code : Nat) : Val :=
  if scale == 0xFF then newNan else scaleV (decodeCode f false code) ((scale : Int) - 127)

/-- Bits an MX element takes in a lane's register (R329). -/
def mxWidth (f : Fmt) : Nat := if f.bits == 4 then 4 else 8

/-- VDOT4 on a lane (R396). -/
def vdot4 (f : LForm) (e : EMod) (n : FEnv) (wv : Wave) (l : Nat) : LaneOut :=
  let fm := fmtOf true e.fmt.toNat
  let as := (List.range 4).map fun j => decodeCode fm false (elemAt 8 (wv.src false 32 l f.va.toNat) j)
  let bs := (List.range 4).map fun j => decodeCode fm false (elemAt 8 (wv.src e.usrc 32 l f.vb.toNat) j)
  let c := fopd fp32 n.flush (wv.vreg l e.src3.toNat).toNat
  let ps := products as bs
  let x := sumV (c.v :: ps.1)
  let os := c :: (as ++ bs).map fun v => ({ v := v } : FOpd)
  elemOut 32 f.vd.toNat (arith n fp32 l os (x.1, x.2 ||| ps.2 ||| snanFl c.v) 0)

/-- VDOT8 on a lane (R396). -/
def vdot8 (f : LForm) (e : EMod) (wv : Wave) (l : Nat) : LaneOut :=
  let c := e.fmt.toNat
  let w := if c == 0 || c == 4 then 8 else 4
  let sa := signedFmt c
  let sb := sa != e.mod.getLsbD 0
  let a := wv.src false (8 * w) l f.va.toNat
  let b := wv.src e.usrc (8 * w) l f.vb.toNat
  let sum := (List.range 8).foldl (fun (x : Int) j => x + extBy sa w (elemAt w a j) * extBy sb w (elemAt w b j))
    (toSigned 32 (wv.vreg l e.src3.toNat).toNat)
  intOut true 32 e.sat f.vd.toNat sum

/-- The formats of CVT: source and destination (R393). -/
def cvtFmts (e : EMod) : Fmt × Fmt := (fmtOf (e.src3.getLsbD 5) (e.src3.toNat % 32), fmtOf (e.src3.getLsbD 6) e.fmt.toNat)
/-- A format is an integer format. -/
def Fmt.isInt (f : Fmt) : Bool := match f.kind with | .int _ => true | _ => false
/-- An integer format is signed. -/
def Fmt.isSigned (f : Fmt) : Bool := match f.kind with | .int s => s | _ => false

/-- CVT and CVTSR on a lane: `r` is the generator word or the supplied word (R393, R394). -/
def convert (f : LForm) (e : EMod) (n : FEnv) (r : Nat) (wv : Wave) (l : Nat) : LaneOut :=
  let (sf, df) := cvtFmts e
  let x := wv.src false sf.bits l f.va.toNat % 2 ^ sf.bits
  let o := fopd sf n.flush x
  if sf.isInt && df.isInt then
    let out := intOut df.isSigned df.bits e.sat f.vd.toNat (extBy sf.isSigned sf.bits x)
    { out with leg := legMode n.mode }
  else
    let y := roundVal df n.mode n.sat n.flush n.nancan r o.v
    let narrow := df.bits ≤ 16 && !df.isInt
    let leg := legOpds [o] ||| legMode n.mode ||| legBit 6 (df.isInt && (y.fl &&& Fl.nv) != 0) ||| legBit 7 (narrow && y.ovf) |||
      (if df.isInt then 0 else legRes df [o] y)
    { v := regWords df.bits f.vd.toNat y.code, fl := y.fl, leg := leg }

/-- Width in bits of a PACK or UNPK element. -/
def packWidth (m : BitVec 3) : Nat := 16 / 2 ^ (m.toNat % 4)

/-- Smallest lane of the block of a lane (R329). -/
def blockLane (l : Nat) : Nat := l / 8 * 8
/-- Byte i of a word. -/
def wordByte (x : Word) (i : Nat) : Nat := x.toNat / 256 ^ i % 256

/-- MXDOT on a lane (R397). -/
def mxdot (f : LForm) (e : EMod) (n : FEnv) (wv : Wave) (l : Nat) : LaneOut :=
  let fm := fmtOf false e.fmt.toNat
  let sc := wv.vreg (blockLane l) e.src3.toNat
  let w := mxWidth fm
  let el (reg i : Nat) : List Val := (List.range 4).map fun k => mxElem fm (wordByte sc i) (elemAt w (wv.vreg l reg).toNat k)
  let as := el f.va.toNat (e.byte.toNat / 16 % 4)
  let bs := el f.vb.toNat (e.byte.toNat / 64)
  let c := fopd fp32 n.flush (wv.vreg l f.vd.toNat).toNat
  let ps := products as bs
  let x := sumV ps.1
  let y := addV c.v x.1 n.zneg
  let os := c :: (as ++ bs).map fun v => ({ v := v } : FOpd)
  elemOut 32 f.vd.toNat (arith n fp32 l os (y.1, y.2 ||| x.2 ||| ps.2) 0)

/-- Position of the leading bit of a finite value: floor(log2 |x|). -/
def ilog2 (x : RVal) : Int := x.e + (Nat.log2 x.m : Int)

/-- emax of an MX element format (Table 13.5). -/
def emaxOf (code : Nat) : Int := match code with | 16 => 8 | 17 => 15 | 18 => 4 | 19 => 2 | 20 => 2 | _ => 0

/-- The scale code of a block (R328). -/
def mxScale (code : Nat) (vs : List Val) : Nat :=
  if vs.any (fun v => v.isNan || v.isInf) then 0xFF
  else
    let ls := vs.filterMap fun v => match v with
      | .num x => if x.isZero then none else some (ilog2 x)
      | _ => none
    match ls with
    | [] => 0x7F
    | t :: r => (clampI 0 254 (r.foldl max t - emaxOf code + 127)).toNat

/-- QNT on the lanes given (R398): element codes for active lanes, and the scale byte of every block with one. -/
def quantise (f : LForm) (e : EMod) (n : FEnv) (wv : Wave) (act : Mask) : List (Nat × LaneOut) :=
  let c := e.fmt.toNat
  let fm := fmtOf false c
  let w := mxWidth fm
  let src (l k : Nat) : FOpd := fopd fp32 n.flush (wv.vreg l (f.va.toNat + k)).toNat
  let scaleOf (b : Nat) : Nat := mxScale c ((List.range 32).map fun j => (src (8 * b + j / 4) (j % 4)).v)
  let codes := (lanesOf act).map fun l =>
    let sc := scaleOf (l / 8)
    let os := (List.range 4).map (src l)
    let ys := os.map fun o =>
      if sc == 0xFF then ({ code := 0, fl := 0 } : Rounded) else n.round fm l (scaleV o.v (127 - (sc : Int)))
    let word := (ys.zipIdx).foldl (fun acc (y, k) => acc + y.code * 2 ^ (w * k)) 0
    (l, ({ v := [(f.vd.toNat, BitVec.ofNat 32 word)], fl := ys.foldl (fun a y => a ||| y.fl) 0,
           leg := legOpds os ||| legMode n.mode ||| (List.zipWith (fun o y => legRes fm [o] y ||| legBit 7 y.ovf) os ys).foldl (· ||| ·) 0 } : LaneOut))
  let blocks := ((lanesOf act).map (· / 8)).eraseDups
  let scales := blocks.map fun b =>
    let vs := e.src3.toNat
    let i := e.byte.toNat / 16 % 4
    let old : Nat := if vs == f.vd.toNat && act.getLsbD (8 * b) then
        ((codes.find? fun x => x.1 == 8 * b).map fun x => (x.2.v.headD (0, 0)).2.toNat).getD 0
      else (wv.vreg (8 * b) vs).toNat
    (8 * b, ({ v := [(vs, BitVec.ofNat 32 (old - old / 256 ^ i % 256 * 256 ^ i + scaleOf b * 256 ^ i))] } : LaneOut))
  codes ++ scales

/-! ## Meanings -/

/-- VDOT4. -/
def execVdot4 (f : LForm) (s : State) := laneFp (.vdot4 f) f { a := true, b := true, c := true } true (vdot4 f) s
/-- VDOT8. -/
def execVdot8 (f : LForm) (s : State) := laneOp (.vdot8 f) f { a := true, b := true, c := true } (vdot8 f) s
/-- MXDOT, after the forced fuse of R142. -/
def execMxdot (f : LForm) (s : State) :=
  let i := Instr.mxdot f
  let e := i.extL f
  let ops := opsLane { a := true, b := true, c := true } f e
  issue i ops (fun s w =>
    s.forced w (insOf i (ops s w)) (e.byte.toNat % 8) fun s =>
      let n := s.fenv w e.rnd e.sat
      s.perLane w (s.active w e.gsense e.guard) (n.mode == 5) (mxdot f e n)) s
/-- CVT. -/
def execCvt (f : LForm) (s : State) :=
  laneFp (.cvt f) f { a := true } true (fun e n wv l => convert f e n (laneRand n.x l) wv l) s
/-- CVTSR: STO's decision with the word in vb; the converter is not stepped (R394). -/
def execCvtsr (f : LForm) (s : State) :=
  laneFp (.cvtsr f) f { a := true, b := true } false (fun e n wv l =>
    convert f e { n with mode := 5 } (wv.src e.usrc 32 l f.vb.toNat) wv l) s
/-- PACK (R395). -/
def execPack (f : LForm) (s : State) :=
  laneOp (.pack f) f { a := true, b := true } (fun e wv l =>
    let w := packWidth e.mod
    let lo := 2 * e.byte.toNat * w
    let d := (wv.vreg l f.vd.toNat).toNat
    let x := wv.src false 32 l f.va.toNat % 2 ^ w + wv.src e.usrc 32 l f.vb.toNat % 2 ^ w * 2 ^ w
    { v := [(f.vd.toNat, BitVec.ofNat 32 (d % 2 ^ lo + x * 2 ^ lo + d / 2 ^ (lo + 2 * w) * 2 ^ (lo + 2 * w)))] }) s
/-- UNPK (R395). -/
def execUnpk (f : LForm) (s : State) :=
  laneOp (.unpk f) f { a := true } (fun e wv l =>
    let w := packWidth e.mod
    let x := elemAt w (wv.src false 32 l f.va.toNat) e.byte.toNat
    { v := [(f.vd.toNat, BitVec.ofNat 32 (if e.mod.getLsbD 2 then wrapN 32 (toSigned w x) else x))] }) s
/-- QNT, after the forced fuse of R142. -/
def execQnt (f : LForm) (s : State) :=
  let i := Instr.qnt f
  let e := i.extL f
  let ops := opsLane { a := true, c := true } f e
  issue i ops (fun s w =>
    s.forced w (insOf i (ops s w)) (e.byte.toNat % 8) fun s =>
      let n := s.fenv w e.rnd false
      s.finish w (n.mode == 5) (quantise f e n (s.wave w) (s.active w e.gsense e.guard))) s

end Machine
end Sys2Proof
end

