-- ==== Sys2Proof/Machine/Tiles.lean ====
section
/-! DEFINITION. Matrix tiles: shapes, elements, INV states, what waits for earlier requests (R242 to R246, R258), and the lane
feed and drain of tiles (R430, R431). -/

namespace Sys2Proof
namespace Machine

/-! ## Shapes and elements (R243, R244) -/

/-- A shape register's fields, with rows and columns counted from 1 (Table 9.4). -/
structure Shape where
  fmt : Nat
  rows : Nat
  cols : Nat
  blkax : Bool
  scv : Bool
  sct : Nat
  deriving DecidableEq, Repr, Inhabited

/-- The fields of a shape register. -/
def shapeOf (x : Word) : Shape :=
  { fmt := (x.extractLsb' 27 5).toNat, rows := (x.extractLsb' 17 10).toNat + 1, cols := (x.extractLsb' 7 10).toNat + 1,
    blkax := x.getLsbD 6, scv := x.getLsbD 5, sct := (x.extractLsb' 0 5).toNat }

/-- Container bits of an element of a format in a page; 0 for a reserved code. -/
def elemBits (page1 : Bool) (c : Nat) : Nat := if page1 then (if page1Ok c then 8 else 0) else fmtBits c
/-- Bytes of one row. -/
def Shape.rowBytes (z : Shape) (page1 : Bool) : Nat := ceilDiv (z.cols * elemBits page1 z.fmt) 8
/-- The shape fits a tile. -/
def Shape.fits (z : Shape) (page1 : Bool) : Bool := z.rows * z.rowBytes page1 ≤ 65536
/-- The format is an MX element format. -/
def Shape.isMx (z : Shape) (page1 : Bool) : Bool := !page1 && mxFmts.contains z.fmt

/-- Shape register n of a team. -/
def State.shapeReg (s : State) (t n : Nat) : Word := (s.team t).shapes.getD n 0
/-- Shape of tile n of a team. -/
def State.shape (s : State) (t n : Nat) : Shape := shapeOf (s.shapeReg t n)
/-- INV state of tile n of a team. -/
def State.invOf (s : State) (t n : Nat) : Nat := (s.team t).inv.getD n 0
/-- The INV states of 16 tiles from tile n, two bits each (R258). -/
def State.invBits (s : State) (t n : Nat) : Word :=
  BitVec.ofNat 32 ((List.range 16).foldl (fun a k => a + s.invOf t (n + k) * 4 ^ k) 0)
/-- Sets an INV state. -/
def State.setInv (s : State) (t n v : Nat) : State := s.updTeam t fun x => { x with inv := x.inv.put n v 0 }

/-- Byte o of a tile, with its poison. -/
def State.tileByte (s : State) (t n o : Nat) : Byte × Bool :=
  let l := tileLoc t n o
  (s.mem.get l, (s.mem.poison.get? l).isSome)
/-- Writes a byte of a tile. -/
def State.setTileByte (s : State) (t n o : Nat) (b : Byte) (bad : Bool := false) : State :=
  let l := tileLoc t n o
  let m := s.mem.put l b
  { s with mem := if bad then { m with poison := m.poison.set l () } else m }

/-- Code of element (i, j) of a tile, with its poison. -/
def State.tileElem (s : State) (t n : Nat) (z : Shape) (page1 : Bool) (i j : Nat) : Nat × Bool :=
  let b := elemBits page1 z.fmt
  let o := i * z.rowBytes page1
  if b == 4 then
    let (x, bad) := s.tileByte t n (o + j / 2)
    (x.toNat / 16 ^ (j % 2) % 16, bad)
  else
    let bs := (List.range (b / 8)).map fun k => s.tileByte t n (o + j * (b / 8) + k)
    (leNat (bs.map Prod.fst), bs.any Prod.snd)

/-- Writes element (i, j); a 6-bit element's bits 7:6 are written 0. -/
def State.setTileElem (s : State) (t n : Nat) (z : Shape) (page1 : Bool) (i j code : Nat) (bad : Bool) : State :=
  let b := elemBits page1 z.fmt
  let o := i * z.rowBytes page1
  if b == 4 then
    let (x, was) := s.tileByte t n (o + j / 2)
    let k := 16 ^ (j % 2)
    s.setTileByte t n (o + j / 2) (BitVec.ofNat 8 (x.toNat - x.toNat / k % 16 * k + code % 16 * k)) (bad || (was && j % 2 == 1))
  else
    (natBytes (b / 8) code).zipIdx.foldl (fun s (x, k) => s.setTileByte t n (o + j * (b / 8) + k) x bad) s

/-! ## Order of requests and of other tile operations (R246, R456) -/

/-- An earlier request of the team writes tile n. -/
def State.tileWritten (s : State) (t n : Nat) : Bool := (s.requestsOf t).any fun r => r.writes.contains n
/-- An earlier request of the team reads or writes tile n. -/
def State.tileUsed (s : State) (t n : Nat) : Bool := (s.requestsOf t).any fun r => r.writes.contains n || r.reads.contains n

/-- ACCESS when a named tile is not owned (R242). -/
def State.owns (s : State) (w : Who) (n : Nat) : Bool := n < (s.team w.team).desc.mtiles

/-- The INV trap of the first owned tile of a list whose INV is not 0 (R258). -/
def State.invTrap (s : State) (w : Who) (ns : List Nat) (lanes : Mask) : Option Trap :=
  match ns.find? fun n => s.owns w n && s.invOf w.team n != 0 with
  | some n => some { code := if s.invOf w.team n == 2 then 11 else 12, lanes := lanes, info := BitVec.ofNat 96 n }
  | none => none

/-- The scale tile that a tile of an MX format with SCV = 1 names. -/
def State.scaleOf (s : State) (t n : Nat) (page1 : Bool) : Option Nat :=
  let z := s.shape t n
  if z.isMx page1 && z.scv then some z.sct else none

/-! ## TFEED and TDRAIN (R430, R431) -/

/-- The byte of a tile that lane l's slot byte k is, none outside the tile's rows and row bytes. Of a shape larger than the tile's 65,536
bytes (R244) the bytes beyond them are none too. DESIGN CHOICE, log entry 27. -/
def slotByte (z : Shape) (row0 col0 width slot l k : Nat) : Option Nat :=
  let r := row0 + l / width
  let c := col0 + l % width * slot + k
  let rb := z.rowBytes false
  if r < z.rows && c < rb && r * rb + c < 65536 then some (r * rb + c) else none

/-- Bytes per lane: 4, or 16 with .x4. -/
def slotSize (e : EMod) : Nat := if e.mod.getLsbD 2 then 16 else 4

/-- What TFEED and TDRAIN check before they take effect: the tile, its INV where it is read, the position, and the wait for
earlier requests (R242, R246, R258, R431). -/
def State.tileMove (s : State) (w : Who) (act : Mask) (e : EMod) (n : Nat) (pos : Word) (drain : Bool)
    (k : Shape → Nat → Nat → Nat → Flow) : Flow :=
  let wv := s.wave w
  let row0 := (pos.extractLsb' 0 10).toNat
  let col0 := (pos.extractLsb' 16 16).toNat
  match (if drain then s.invTrap w [n] act else none) with
  | some t => .trap s t
  | none =>
    if !s.owns w n || pos.extractLsb' 10 6 != 0 || col0 % slotSize e != 0 then .trap s { code := 5, lanes := act }
    else if (if drain then s.tileWritten w.team n else s.tileUsed w.team n) then .hold s
    else k (s.shape w.team n) row0 col0 (widthOf (e.byte.toNat % 8) wv.lanes)

/-- TFEED: raw bytes of the active lanes into a tile. -/
def execTfeed (f : LForm) (s : State) :=
  let i : Instr := .tfeed f
  let e := i.extL f
  let ops := opsLane { a := true } f e
  issue i ops (fun s w =>
    s.forced w (insOf i (ops s w)) (e.byte.toNat % 8) fun s =>
      let act := s.active w e.gsense e.guard
      let n := f.vd.toNat % 32
      let wv := s.wave w
      s.tileMove w act e n (wv.greg f.vb.toNat) false fun z row0 col0 width =>
        .done ((lanesOf act).foldl (fun s l =>
          (List.range (slotSize e)).foldl (fun s k =>
            match slotByte z row0 col0 width (slotSize e) l k with
            | some o => s.setTileByte w.team n o (BitVec.ofNat 8 (wordByte (wv.vreg l (f.va.toNat + k / 4)) (k % 4)))
            | none => s) s) s)) s

/-- TDRAIN: raw bytes of a tile into the active lanes; poisoned bytes raise ECCUE. The result is variable-latency. -/
def execTdrain (f : LForm) (s : State) :=
  let i : Instr := .tdrain f
  let e := i.extL f
  issue i opsNone (fun s w =>
    s.forced w (insOf i fun _ => (0, 0, 0)) (e.byte.toNat % 8) fun s =>
      let act := s.active w e.gsense e.guard
      let n := f.va.toNat % 32
      s.tileMove w act e n ((s.wave w).greg f.vb.toNat) true fun z row0 col0 width =>
        let got := (lanesOf act).map fun l => (l, (List.range (slotSize e)).map fun k =>
          match slotByte z row0 col0 width (slotSize e) l k with
          | some o => s.tileByte w.team n o
          | none => (0, false))
        let bad := got.foldl (fun m (l, bs) => if anyBad bs then m ||| laneBit l else m) (0 : Mask)
        let ok := got.filter fun (l, _) => !bad.getLsbD l
        let vals := ok.foldl (fun t (l, bs) =>
          (List.range (slotSize e / 4)).foldl (fun t r =>
            Tbl.set t ((f.vd.toNat + r) * 64 + l) (BitVec.ofNat 32 (engNat ((bs.drop (4 * r)).take 4)))) t) ([] : Tbl Word)
        let s := if ok.isEmpty then s else s.later w false false (act &&& ~~~ bad) vals
        if bad != 0 then .trap s { code := 16, lanes := bad } else .done s) s

end Machine
end Sys2Proof
end

