-- ==== Sys2Proof/Machine/Image.lean ====
section
/-! DEFINITION. The image of a team: its parts as Tables 12.4 and 12.5 lay them out, where it lies in a die's save reserve, and how its
bytes get there (R164, R309, R310). -/

namespace Sys2Proof
namespace Machine

/-! ## Layout -/

/-- Rounds up to a multiple. -/
def upTo (n k : Nat) : Nat := ceilDiv n k * k

/-- Bytes up to a 64-byte boundary. -/
def pad64 (l : List Byte) : List Byte := l ++ List.replicate (upTo l.length 64 - l.length) 0

/-- Bytes of the full-empty bitmap of n bytes of data: n ÷ 128, rounded up to 16. -/
def mapSize (n : Nat) : Nat := upTo (ceilDiv n 128) 16

/-- Storage of n bytes with its bitmap. -/
def withMap (n : Nat) : Nat := n + mapSize n

/-- A wave counts as halted once every result has returned. -/
def Wave.halted (w : Wave) : Bool := w.haltReq && w.pend.isEmpty

/-- The team header: role shape, attachment records, shape registers, INV states, %mhalt, at the offsets of log entry 9. -/
def State.headerBytes (s : State) (t : Nat) : List Byte :=
  let tm := s.team t
  let att (i : Nat) : List Byte := match tm.attach[i]? with
    | some a => natBytes 8 a.name.toNat ++ natBytes 8 a.nest
    | none => natBytes 16 0
  natBytes 16 (tm.desc.crows + 16 * tm.desc.ccols) ++ (List.range 8).flatMap att ++
    (List.range 32).flatMap (fun i => natBytes 4 (tm.shapes.getD i 0).toNat) ++ natBytes 4 (s.invBits t 0).toNat ++ natBytes 4 (s.invBits t 16).toNat ++
    natBytes 4 tm.mhalt ++ natBytes 228 0

/-- The wave header (Table 12.5). -/
def Wave.header (w : Wave) (frags frames : Nat) : BitVec 512 :=
  (0 : BitVec 320) ++ w.exited ++ w.fpmode ++ w.fpflags ++ (0 : BitVec 8) ++ (w.q &&& 0xFE) ++ BitVec.ofNat 16 w.fuseTo ++ (0 : BitVec 4) ++
    BitVec.ofNat 4 w.idx ++ (0 : BitVec 2) ++ bit1 w.halted ++ bit1 w.som ++ BitVec.ofNat 5 (w.vregs / 8) ++
    BitVec.ofNat 3 (Nat.log2 (w.lanes / 4)) ++ BitVec.ofNat 4 frames ++ (0 : BitVec 1) ++ BitVec.ofNat 7 frags

/-- Bytes of g0 to g63. -/
def Wave.gBytes (w : Wave) : List Byte := (List.range 64).flatMap fun i => natBytes 4 (w.greg i).toNat
/-- Bytes of the predicates: p1 to p7 of lane l in bits 7:1 of byte l. -/
def Wave.pBytes (w : Wave) : List Byte :=
  (List.range (upTo w.lanes 16)).map fun l => BitVec.ofNat 8 ((List.range 7).foldl (fun x i => x + (if w.pred l (i + 1) then 2 ^ (i + 1) else 0)) 0)
/-- Bytes of the vector registers: register i of lane l at 4 × (i × w + l). -/
def Wave.vBytes (w : Wave) : List Byte :=
  (List.range w.vregs).flatMap fun i => (List.range w.lanes).flatMap fun l => natBytes 4 (w.vreg l i).toNat

/-- A wave's fragment entries, oldest first, then its serial frames, each fragment's from the bottom of its stack. -/
def Core.fragBytes (c : Core) (slot : Nat) : List Byte :=
  let fs := (c.fragsOf slot).map Prod.snd
  fs.flatMap (fun f => natBytes 32 f.image.toNat) ++ fs.flatMap fun f => f.frames.reverse.flatMap fun x => natBytes 32 x.image.toNat

/-- The wave header's bytes. -/
def Core.waveHeader (c : Core) (slot : Nat) : List Byte := natBytes 64 ((c.wave slot).header (c.fragsOf slot).length (c.framesUsed slot)).toNat

/-- The parts of a wave, each to a 64-byte boundary. -/
def Core.waveBytes (c : Core) (slot : Nat) : List Byte :=
  let w := c.wave slot
  c.waveHeader slot ++ pad64 (c.fragBytes slot) ++ w.gBytes ++ pad64 w.pBytes ++ pad64 w.vBytes

/-- Bytes of a wave's parts. -/
def Core.imageOf (c : Core) (slot : Nat) : Nat :=
  let w := c.wave slot
  64 + upTo (32 * ((c.wave slot).order.length + c.framesUsed slot)) 64 + 256 + upTo (upTo w.lanes 16) 64 + upTo (w.vregs * w.lanes * 4) 64

/-- The locations of a team's lane-private slices, in the order of Table 12.4. -/
def State.sliceLocs (s : State) (t : Nat) : List Nat :=
  let tm := s.team t
  (List.range tm.desc.waves).flatMap fun i => (List.range (4 * 2 ^ tm.desc.width)).flatMap fun l => locsFrom (laneLoc t i l 0) (s.launch tm.launch).lanepriv
/-- Those of its scratch. -/
def State.scratchLocs (s : State) (t : Nat) : List Nat := locsFrom (scratchLoc t 0) ((s.team t).desc.teamscr * 1024)
/-- Those of its cluster-shared partition. -/
def State.shareLocs (s : State) (t : Nat) : List Nat := locsFrom (shareLoc t 0) (s.team t).desc.shareBytes
/-- Those of its tiles. -/
def State.tileLocs (s : State) (t : Nat) : List Nat := (List.range (s.team t).desc.mtiles).flatMap fun n => locsFrom (tileLoc t n 0) 65536

/-- Bytes of the image's storage: the slices, the scratch and the partition, each with its bitmap. -/
def State.storageSize (s : State) (t : Nat) : Nat :=
  let tm := s.team t
  upTo (withMap (tm.desc.waves * 4 * 2 ^ tm.desc.width * (s.launch tm.launch).lanepriv)) 64 + upTo (withMap (tm.desc.teamscr * 1024)) 64 +
    upTo (withMap tm.desc.shareBytes) 64

/-- Bytes of a team's image (Table 12.4). -/
def State.imageSize (s : State) (t : Nat) : Nat :=
  let tm := s.team t
  512 + (tm.slots.vals.map (s.core tm.core).imageOf).sum + tm.desc.mtiles * 65536 + s.storageSize t

/-! ## Contents -/

/-- Bytes at locations, with their poison. -/
def State.bytesIn (s : State) (locs : List Nat) : List (Byte × Bool) := locs.map fun l => (s.mem.get l, (s.mem.poison.get? l).isSome)

/-- The full-empty bitmap of data at locations, in n bytes: bit g mod 8 of byte g div 8 is 1 where the granule of data byte 16 × g is full. -/
def State.mapBytes (s : State) (locs : List Nat) (n : Nat) : List Byte :=
  (List.range n).map fun k => BitVec.ofNat 8 ((List.range 8).foldl (fun a i =>
    match locs[16 * (8 * k + i)]? with
    | some l => a + (if (s.mem.empties.get? (l / 16)).isNone then 2 ^ i else 0)
    | none => a) 0)

/-- Good bytes. -/
def good (l : List Byte) : List (Byte × Bool) := l.map fun b => (b, false)

/-- Data at locations with its bitmap, to a 64-byte boundary. -/
def State.mapped (s : State) (locs : List Nat) : List (Byte × Bool) :=
  let n := locs.length
  s.bytesIn locs ++ good (s.mapBytes locs (mapSize n) ++ List.replicate (upTo (withMap n) 64 - withMap n) 0)

/-- The image of a team but for its storage: header, waves and tiles. -/
def State.imageHead (s : State) (t : Nat) : List (Byte × Bool) :=
  let tm := s.team t
  good (s.headerBytes t ++ tm.slots.vals.flatMap (s.core tm.core).waveBytes) ++ s.bytesIn (s.tileLocs t)

/-- The image's storage. -/
def State.imageStorage (s : State) (t : Nat) : List (Byte × Bool) :=
  s.mapped (s.sliceLocs t) ++ s.mapped (s.scratchLocs t) ++ s.mapped (s.shareLocs t)

/-! ## The reserve (R309) -/

/-- The first address of a die's reserve. -/
def reserveBase (d : Nat) : Nat := d * Config.dieRange + (Config.dieRange - Config.reserveBytes)

/-- The images that a die's reserve holds: offset and length. -/
def State.images (s : State) (d : Nat) : List (Nat × Nat) :=
  (s.teams.filter fun (_, t) => t.image != 0 && t.imageDie == d).map fun (_, t) => (t.imageAt, t.image)

/-- The lowest offset at which n bytes fit beside what the reserve holds. -/
def firstFit (used : List (Nat × Nat)) (n : Nat) : Option Nat :=
  (sortNat (0 :: used.map fun (o, k) => o + k)).find? fun o =>
    o + n ≤ Config.reserveBytes && used.all fun (p, k) => p + k ≤ o || o + n ≤ p

/-- Offsets for the images of a list of teams, by team; none where one does not fit. First fit: no rule places an image. DESIGN CHOICE, log
entry 21. -/
def State.fitsReserve (s : State) (d : Nat) (ms : List Nat) : Option (List (Nat × Nat)) :=
  (ms.foldl (fun (acc : Option (List (Nat × Nat) × List (Nat × Nat))) m =>
    acc.bind fun (used, got) => (firstFit used (s.imageSize m)).map fun o => ((o, s.imageSize m) :: used, got ++ [(m, o)]))
    (some (s.images d, []))).map Prod.snd

/-- The agents take the places of images in a die's reserve. -/
def State.takeReserve (s : State) (d : Nat) (at_ : List (Nat × Nat)) : State :=
  at_.foldl (fun s (m, o) => let n := s.imageSize m; s.updTeam m fun x => { x with image := n, imageDie := d, imageAt := o }) s

/-- Bytes go into a team's image from an offset on, under the key slot of its context. -/
def State.writeImage (s : State) (t ofs : Nat) (bs : List (Byte × Bool)) : State :=
  let tm := s.team t
  let lo := reserveBase tm.imageDie + tm.imageAt + ofs
  bs.zipIdx.foldl (fun s ((b, bad), i) => s.homeWrite (s.tagOf tm.ctx) (lo + i) b bad) s

end Machine
end Sys2Proof
end

