-- ==== Sys2Proof/Machine/Segments.lean ====
section
/-! DEFINITION. Named segments: the directory, room, eviction and reload, attaching and detaching (R179 to R194), and the
instructions SEGATT, SEGDET and SEGPIN (R460, R461). -/

namespace Sys2Proof
namespace Machine

/-! ## The directory (R179, R183) -/

/-- Handle of the live entry of a context that holds a name. -/
def State.segFind (s : State) (c : Nat) (name : Addr) : Option Nat :=
  if name == 0 then none else ((s.ctx c).segs.find? fun (_, g) => g.name == name).map Prod.fst

/-- Entry h of a context's directory. -/
def State.seg (s : State) (c h : Nat) : Seg := (s.ctx c).segs.getD h {}
/-- Changes an entry. -/
def State.updSeg (s : State) (c h : Nat) (f : Seg → Seg) : State :=
  s.updCtx c fun x => { x with segs := x.segs.upd h {} f }

/-- A team's home for a level: home, columns and rows (R183). -/
def State.teamHome (s : State) (t level : Nat) : Nat × Nat × Nat :=
  let tm := s.team t
  match level with
  | 0 => (tm.core, 0, 0)
  | 1 => ((tm.roles.get? 0).getD tm.core, tm.desc.ccols, tm.desc.crows)
  | _ => (0x8000 + dieOf tm.core, 0, 0)

/-- The die of a home. -/
def Seg.homeDie (g : Seg) : Nat := if g.level == 2 then g.home % 0x8000 else dieOf g.home

/-! ## Room (R184, R191) -/

/-- Where byte o of a segment is stored (R184): the member role or bank role, and the offset in what that holds of it. -/
def Seg.spot (g : Seg) (o : Nat) : Nat × Nat :=
  let striped (n : Nat) : Nat × Nat := (o / 256 % n, o / (256 * n) * 256 + o % 256)
  match g.level with
  | 0 => (0, o)
  | 1 => striped (g.hrows * g.hcols)
  | _ => striped 16

/-- Storage at a segment's home is allocated (R169, R184): it is charged, it reads as zero, and every granule is full. -/
def State.allocSeg (s : State) (c h : Nat) (g : Seg) : State :=
  let s := s.chargeSeg g true
  { s with mem := s.mem.clear (segLoc c h 0) (segLoc c h (2 ^ 32)) }

/-- The die scratchpad has room for one more share in every bank: the roles bound to one live bank share it. -/
def Die.bankRoom (d : Die) (share : Nat) : Bool :=
  let bs := (List.range 16).map (bankOf d.bankRetired)
  (List.range 16).all fun n => (bs.filter (· == some n)).length * (d.bankUsed + share) ≤ 4080 * 1024 && bs.all Option.isSome

/-- The cores, or the die, on which a segment's home lacks room. -/
def State.lacking (s : State) (g : Seg) : List Nat :=
  if g.level == 2 then (if (s.die g.homeDie).bankRoom g.share then [] else [g.home])
  else g.homeCores.filter fun n => (s.boardOf n).scr < g.share

/-- A segment holds storage on one of the cores or dies listed. -/
def Seg.on (g : Seg) (places : List Nat) : Bool :=
  g.st == .resident && (if g.level == 2 then places.contains g.home else g.homeCores.any places.contains)

/-- A candidate for eviction (R191). -/
def State.candidate (s : State) (c : Nat) (g : Seg) : Bool :=
  g.st == .resident && g.attach == 0 && !g.pin && !g.noevict && !g.dying && !g.busy && (s.ctx c).segback != 0

/-- The candidate on some places with the smallest DETSTAMP. -/
def State.victim (s : State) (places : List Nat) : Option (Nat × Nat) :=
  let cs := s.ctxs.flatMap fun (c, x) => x.segs.filterMap fun (h, g) => if s.candidate c g && g.on places then some (c, h, g) else none
  match cs with
  | [] => none
  | x :: t => let y := t.foldl (fun a b => if b.2.2.detstamp.toNat < a.2.2.detstamp.toNat then b else a) x; some (y.1, y.2.1)

/-- An eviction on some places is in progress. -/
def State.evicting (s : State) (places : List Nat) : Bool :=
  s.ctxs.any fun (_, x) => x.segs.any fun (_, g) => g.busy && g.reload.isNone && g.on places

/-- An eviction begins: BUSY (R192). -/
def State.startEvict (s : State) (c h : Nat) : State := s.dirOp.updSeg c h fun g => { g with busy := true }

/-! ## Attaching (R183 to R186) -/

/-- What the directory answers to a SEGATT. -/
inductive SegOut where
  | attached (s : State) (h : Nat)
  | segmiss (cause : Nat)
  | nestFull (h : Nat)
  | wait (s : State)

/-- Attaches a team to handle h. -/
def State.attachTo (s : State) (t h : Nat) (name : Addr) (nest : Nat) : State :=
  (s.updTeam t fun tm => { tm with attach := tm.attach ++ [{ handle := h, name := name, nest := nest }] }).updSeg (s.team t).ctx h
    fun g => { g with attach := g.attach + 1, syncseq := g.syncseq + 1 }

/-- Makes room for a segment at its home: room, an eviction to wait for, or none. -/
def State.makeRoom (s : State) (g : Seg) : Option Bool × State :=
  let lack := s.lacking g
  if lack.isEmpty then (some true, s)
  else if s.evicting lack then (none, s)
  else match s.victim lack with
    | some (c, h) => (none, s.startEvict c h)
    | none => (some false, s)

/-- Table 7.7. `asker` is whom a reload is for. The operation of the directory is counted by the caller, once (R179). -/
def State.segAttach (s : State) (t : Nat) (name : Addr) (ld : Bool) (nest : Nat) (asker : Nat × Nat × Nat) : SegOut :=
  let tm := s.team t
  let c := tm.ctx
  match s.segFind c name with
  | none => .segmiss 0
  | some h =>
    let g := s.seg c h
    let (home, cols, rows) := s.teamHome t g.level
    let g' : Seg := { g with home := home, hcols := cols, hrows := rows }
    let here : Bool := g.st == .resident && g.home == home && (g.level != 1 || (g.hcols == cols && g.hrows == rows))
    let movable : Bool := g.attach == 0 && !g.pin && !g.noevict && (s.ctx c).segback != 0 && ld
    if g.dying then .segmiss 0
    else if tm.attach.any fun a => a.handle == h then
      if tm.attach.any fun a => a.handle == h && a.nest ≥ 255 then .nestFull h
      else .attached (s.updTeam t fun tm => { tm with attach := tm.attach.map fun a => if a.handle == h then { a with nest := a.nest + 1 } else a }) h
    else if g.level == 1 && tm.desc.crows * tm.desc.ccols ≤ 1 then .segmiss 4
    else if tm.attach.length ≥ 8 then .segmiss 5
    else if g.busy || g.leaving then .wait s
    else match g.st with
      | .released => .segmiss 0
      | .declared =>
        match s.makeRoom g' with
        | (none, s) => .wait s
        | (some false, _) => .segmiss 3
        | (some true, s) =>
          let s := (s.allocSeg c h g').updSeg c h fun g => { g with st := .resident, home := home, hcols := cols, hrows := rows }
          .attached (s.attachTo t h name nest) h
      | .resident =>
        if here then .attached (s.attachTo t h name nest) h
        else if movable then .wait (s.startEvict c h)
        else .segmiss 2
      | .evicted =>
        if !ld then .segmiss 1
        else match s.makeRoom g' with
          | (none, s) => .wait s
          | (some false, _) => .segmiss 3
          | (some true, s) =>
            .wait ((s.dirOp.allocSeg c h g').updSeg c h fun g => { g with busy := true, reload := some (home, cols, rows), asker := some asker })

/-- The re-attaches of a resumed team go on, in their order, until one waits (R189). Each is one operation of the directory, counted where it
is tried first; `fresh` says that the first of them has not been tried. -/
def reattachAll : Nat → Nat → Bool → State → State
  | 0, _, _, s => s
  | n + 1, t, fresh, s =>
    match (s.team t).reattach with
    | [] => s
    | a :: rest =>
      let drop (s : State) : State := s.updTeam t fun tm => { tm with reattach := rest }
      let s := if fresh then s.dirOp else s
      match s.segAttach t a.name true a.nest (t, (s.team t).core, 512) with
      | .attached s _ => reattachAll n t true (drop s)
      | .segmiss cause =>
        reattachAll n t true (drop (s.updTeam t fun tm => { tm with segmiss := if tm.segmiss.isSome then tm.segmiss else some (cause, a.name) }))
      | .nestFull _ => reattachAll n t true (drop s)
      | .wait s => s

/-- Goes on with every team whose re-attaches wait. -/
def State.reattach (s : State) : State :=
  s.teams.foldl (fun s (t, x) => if x.st == .resident && !x.reattach.isEmpty then reattachAll 8 t false s else s) s

/-! ## Eviction and reload (R190 to R193) -/

/-- Address of the image of handle h. -/
def State.imageAt (s : State) (c h : Nat) : Addr := BitVec.ofNat 64 ((s.ctx c).segback.toNat * 4096 + h * 2 ^ 27)
/-- Address of its bitmap. -/
def State.bitmapAt (s : State) (c h : Nat) : Addr := s.imageAt c h + BitVec.ofNat 64 (2 ^ 26)

/-- Bytes of the full-empty bitmap of n data bytes. -/
def bitmapBytes (n : Nat) : Nat := ceilDiv (ceilDiv n 16) 8

/-- The locations of the n bytes of a segment. -/
def segLocs (c h n : Nat) : List Nat := locsFrom (segLoc c h 0) n

/-- The agent of a die that moves a segment. -/
def segEng (d c h : Nat) : Eng := { die := d, ctx := c, team := noTeam, client := .seg c h, level := 4 }

/-- An entry is BUSY no longer. -/
def State.unbusy (s : State) (c h : Nat) : State :=
  ((s.updSeg c h fun g => { g with busy := false, parked := false, rounds := 0, reload := none, asker := none }).releaseSeg c h).reattach

/-- An eviction stops at an ACCESS: NOEVICT and SLOWFAIL. -/
def State.evictFails (s : State) (c h : Nat) (a : Addr) : State :=
  ((s.updSeg c h fun g => { g with noevict := true }).errRec c { kind := 7, addr := a }).unbusy c h

/-- A segment on a retired unit that cannot be evicted loses its contents (R35). -/
def State.loseSeg (s : State) (c h : Nat) (g : Seg) : State :=
  (((s.freeSeg c h g).updSeg c h fun g => { g with st := .declared, leaving := false }).errRec c { kind := 7, detail := h }).unbusy c h

/-- A move parks at a page fault. -/
def State.parkSeg (s : State) (c h : Nat) (pages : List Nat) (wr : Bool) : State :=
  (s.updSeg c h fun g => { g with parked := true }).parkGroup (.seg c h) c pages wr

/-- The eviction of a segment on a retired unit begins once no team is attached (R35). -/
def State.beginLeave (s : State) (c h : Nat) : State :=
  let g := s.seg c h
  if g.leaving && g.st == .resident && !g.busy && g.attach == 0 then s.startEvict c h else s

/-- SEGMENT_EVICT_DONE (R192): the image is written; the segment is EVICTED and its storage freed. Input: unit the context,
item the handle. -/
def execSegmentEvictDone (s : State) : Host.Outcome State Fault Refusal :=
  let c := s.inp.unit
  let h := s.inp.item
  let s := s.beginLeave c h
  let g := s.seg c h
  let fails (s : State) (a : Addr) : State := if g.leaving then s.loseSeg c h g else s.evictFails c h a
  .next (if g.st != .resident || !g.busy || g.reload.isSome || g.parked || (s.die g.homeDie).fenced then s
  else if g.leaving && (s.ctx c).segback == 0 then s.loseSeg c h g
  else
    let e := segEng g.homeDie c h
    let fault (s : State) (ps : List Nat) : State :=
      if g.rounds ≥ 16 then fails s (BitVec.ofNat 64 (ps.headD 0 * 4096)) else s.parkSeg c h ps true
    match s.engWrite e (s.imageAt c h) (s.bytesIn (segLocs c h g.size)) with
    | .miss s => s
    | .fault s ps _ => fault s ps
    | .access s a => fails s a
    | .ok s _ =>
      match s.engWrite e (s.bitmapAt c h) (good (s.mapBytes (segLocs c h g.size) (bitmapBytes g.size))) with
      | .miss s => s
      | .fault s ps _ => fault s ps
      | .access s a => fails s a
      | .ok s _ => if s.fabBusy c then s else ((s.freeSeg c h g).updSeg c h fun g => { g with st := .evicted, leaving := false }).unbusy c h)

/-- A reload stops at an ACCESS: its storage is freed, and the SEGATT that asked raises ACCESS; a re-attach fails as
EVICTED. -/
def State.reloadFails (s : State) (c h : Nat) (g : Seg) : State :=
  let s := match g.reload with
    | some (home, cols, rows) => s.chargeSeg { g with home := home, hcols := cols, hrows := rows } false
    | none => s
  let s := match g.asker with
    | some (t, core, e) =>
      if e == 512 then s.updTeam t fun tm =>
        { tm with reattach := tm.reattach.drop 1,
                  segmiss := if tm.segmiss.isSome then tm.segmiss else (tm.reattach.head?).map fun (a : Attach) => (1, a.name) }
      else s.wake core e false
    | none => s
  s.unbusy c h

/-- The granules that a bitmap marks empty. -/
def emptiesOf (base : Nat) (bs : List Byte) : List Nat :=
  (bs.zipIdx).flatMap fun (b, k) => (List.range 8).filterMap fun i => if b.getLsbD i then none else some (base + 8 * k + i)

/-- SEGMENT_RELOAD_DONE (R193): the image is read; the segment is RESIDENT at its new home. Input: unit the context, item the
handle. -/
def execSegmentReloadDone (s : State) : Host.Outcome State Fault Refusal :=
  let c := s.inp.unit
  let h := s.inp.item
  let g := s.seg c h
  .next (match (if g.busy && !g.parked then g.reload else none) with
    | none => s
    | some (home, cols, rows) =>
      let g' : Seg := { g with home := home, hcols := cols, hrows := rows }
      if (s.die g'.homeDie).fenced then s else
      let e := segEng g'.homeDie c h
      let fault (s : State) (ps : List Nat) : State := if g.rounds ≥ 16 then s.reloadFails c h g else s.parkSeg c h ps false
      match s.engRead e (s.imageAt c h) g.size with
      | .miss s => s
      | .fault s ps _ => fault s ps
      | .access s _ => s.reloadFails c h g
      | .ok s data =>
        match s.engRead e (s.bitmapAt c h) (bitmapBytes g.size) with
        | .miss s => s
        | .fault s ps _ => fault s ps
        | .access s _ => s.reloadFails c h g
        | .ok s bits =>
          let s := s.fabForget (.seg c h)
          let base := segLoc c h 0
          let s := (data.zipIdx).foldl (fun s ((b, bad), i) => s.homeWrite 0 (base + i) b bad) s
          let es := (emptiesOf (base / 16) (bits.map Prod.fst)).filter fun n => n < base / 16 + ceilDiv g.size 16
          let s := { s with mem := { s.mem with empties := es.foldl (fun t n => t.set n ()) s.mem.empties } }
          (s.updSeg c h fun g => { g with st := .resident, home := home, hcols := cols, hrows := rows }).unbusy c h)

/-! ## SEGATT (R460) -/

/-- SEGMISS with a name or handle. -/
def segTrap (cause : Nat) (info : BitVec 64) (m : Mask) : Trap :=
  { code := 6, cause := cause, lanes := m, info := (0 : BitVec 32) ++ info }

/-- SEGATT: gd := the handle. It is one operation of the directory, also where it raises a trap (R179). -/
def State.segatt (s : State) (w : Who) (f : UForm) (ld : Bool) : Flow :=
  let fr := s.frag w
  let name := (s.regs w).g64 f.ga.toNat
  let waiting := fr.st == .syncwait && fr.wait.kind == .segment
  if waiting && fr.wait.ready && !fr.wait.ok then .trap s { code := 5, lanes := fr.mask }
  else
    let s := if waiting then s else s.dirOp
    match s.segAttach w.team name ld 1 (w.team, w.core, w.entry) with
    | .attached s h => .done (s.updWave w fun wv => wv.setG f.gd.toNat (BitVec.ofNat 32 h))
    | .segmiss cause => .trap s (segTrap cause name fr.mask)
    | .nestFull h => .trap s { code := 10, cause := 2, lanes := fr.mask, info := BitVec.ofNat 96 h }
    | .wait s => if waiting then .hold s else .wait s { kind := .segment }

/-- SEGATT.ld. -/
def execSegattLd (f : UForm) (s : State) := uniOp (.segattLd f) f { a := true } (fun _ s w => s.segatt w f true) s
/-- SEGATT.nf. -/
def execSegattNf (f : UForm) (s : State) := uniOp (.segattNf f) f { a := true } (fun _ s w => s.segatt w f false) s

/-! ## SEGDET and SEGPIN (R182, R187, R461) -/

/-- An address lies in the window of handle h. -/
def inSeg (h : Nat) (a : Addr) : Bool := winByte a == 0xFE && (a.extractLsb' 46 10).toNat == h

/-- The records of a chain that a job has still to read may lie in segment h: one does as memory stands now, or cannot be looked at. -/
def State.chainIn (s : State) (d : Nat) (j : Job) (h : Nat) : Nat → Addr → Bool
  | 0, _ => false
  | n + 1, a =>
    if a == 0 then false
    else inSeg h a || (match s.engRead (jobEng d j) a 64 with
      | .ok _ bs => (recOf (bs.map Prod.fst)).own && s.chainIn d j h n (recOf (bs.map Prod.fst)).next
      | .access .. => false
      | _ => true)

/-- A job may still use an address in segment h: its card lies there, a region of its footprint or the packet of a task does, or a record
that it is at or will come to; or its card cannot be looked at. -/
def State.jobIn (s : State) (d : Nat) (j : Job) (h : Nat) : Bool :=
  match s.readCard d j with
  | .ok _ k c =>
    inSeg h j.card || (k.regions.any fun r => inSeg h r.base) || (if j.task then inSeg h c.pkt else s.chainIn d k h 65537 k.recA)
  | .bad .. => inSeg h j.card
  | _ => true

/-- Work that a team posted before number m still holds an address in segment h: a job, a matrix request, a query, whose nodes may lie
anywhere, or a blocked full-empty load. -/
def State.segBusy (s : State) (t c h m : Nat) : Bool :=
  let tm := s.team t
  s.dies.any (fun (d, x) => x.jobs.any fun j => j.team == t && j.id < m && !j.ended && s.jobIn d j h) ||
  s.quartets.any (fun (_, q) => q.requests.any (fun r => r.team == t && r.id < m && inSeg h r.addr) ||
    (q.queue ++ q.slots.vals).any fun r => r.team == t && r.id < m) ||
  (s.core tm.core).frags.any fun (_, f) => tm.slots.vals.contains f.slot && f.st == .syncwait && f.wait.kind == .fullEmpty && f.wait.n < m &&
    f.wait.gran.vals.any fun g => segLoc c h 0 ≤ g * 16 && g * 16 < segLoc c h (2 ^ 32)

/-- A team's posted operation on segment h. -/
def Post.onSeg (t h : Nat) (p : Post) : Bool := p.team == t && inSeg h p.addr

/-- The team's posted operations on segment h are performed. -/
def State.segDrain (s : State) (t h : Nat) : State := s.performWhere (s.team t).core (Post.onSeg t h)

/-- The directory's part of SEGDET: the nesting count falls, and at 0 the handle is withdrawn. -/
def State.segDetach (s : State) (t h : Nat) : State :=
  if (s.team t).attach.any fun a => a.handle == h && a.nest ≤ 1 then s.detach t h
  else s.updTeam t fun tm => { tm with attach := tm.attach.map fun a => if a.handle == h then { a with nest := a.nest - 1 } else a }

/-- The attachments of teams that have exited detach once what the team posted to the segment is performed, with release (R188). -/
def State.settleDetach (s : State) : State :=
  s.teams.foldl (fun s (t, x) =>
    if x.st != .ended then s
    else x.attach.foldl (fun s a =>
      if s.segBusy t x.ctx a.handle s.nextId || s.hindered x.core (Post.onSeg t a.handle) then s
      else (s.segDrain t a.handle).dirOp.detach t a.handle) s) s

/-- SEGDET: the fragment waits until SEGDET_DRAIN_DONE. It is one operation of the directory, also where it raises a trap (R179). -/
def execSegdet (f : UForm) (s : State) :=
  uniOp (.segdet f) f { a := true } (fun _ s w =>
    let fr := s.frag w
    if fr.st == .syncwait && fr.wait.kind == .drain then (if fr.wait.ready then .done s else .hold s)
    else
      let x := (s.wave w).greg f.ga.toNat
      let s := s.dirOp
      if !((s.team w.team).attach.any fun a => a.handle == x.toNat) then .trap s (segTrap 6 (x.setWidth 64) fr.mask)
      else .wait s { kind := .drain, n := x.toNat, m := s.nextId }) s

/-- SEGDET_DRAIN_DONE (R187): what the team posted to the segment is performed, and the directory detaches. Input: unit the
core, item the fragment entry that waits. -/
def execSegdetDrainDone (s : State) : Host.Outcome State Fault Refusal :=
  let w := s.whoAt s.inp.unit s.inp.item
  let f := s.frag w
  .next (if f.waits .drain && !s.segBusy w.team w.ctx f.wait.n f.wait.m && !s.hindered w.core (Post.onSeg w.team f.wait.n) then
    (((s.segDrain w.team f.wait.n).segDetach w.team f.wait.n).wake w.core w.entry).push [.issue w.core w.entry]
  else s)

/-- SEGPIN: one operation of the directory, also where it raises a trap (R179, R182). -/
def execSegpin (f : UForm) (s : State) :=
  uniOp (.segpin f) f { a := true } (fun e s w =>
    let name := (s.wave w).g64 f.ga.toNat
    let s := s.dirOp
    match s.segFind w.ctx name with
    | none => .trap s (segTrap 0 name (s.frag w).mask)
    | some h => .done (s.updSeg w.ctx h fun g => { g with pin := !e.mod.getLsbD 0 })) s

end Machine
end Sys2Proof
end

