-- ==== Sys2Proof/Machine/LaneCross.lean ====
section
/-! DEFINITION. The cross-lane instructions (R399 to R404, Table 15.5). -/

namespace Sys2Proof
namespace Machine

/-- A cross-lane instruction: after the forced fuse, `g` gives each participant's result from the wave, the active lanes
and the group width (R399). -/
def crossOp (i : Instr) (f : LForm) (u : SrcUse) (g : EMod → FEnv → Wave → Mask → Nat → Nat → LaneOut) (s : State) :
    Host.Outcome State Fault Refusal :=
  let e := i.extL f
  let ops := opsLane u f e
  issue i ops (fun s w =>
    s.forced w (insOf i (ops s w)) (e.byte.toNat % 8) fun s =>
      let wv := s.wave w
      let n := s.fenv w e.rnd e.sat
      let act := s.active w e.gsense e.guard
      s.finish w (n.mode == 5) ((lanesOf act).map fun l => (l, g e n wv act (widthOf (e.byte.toNat % 8) wv.lanes) l))) s

/-- The participants of a lane's group, in ascending order. -/
def groupOf (act : Mask) (n l : Nat) : List Nat := (lanesOf act).filter fun m => m / n == l / n

/-- SHFL on a participant (R401). -/
def shuffle (f : LForm) (e : EMod) (wv : Wave) (n l : Nat) : LaneOut :=
  let base := l / n * n
  let o := if e.mod.getLsbD 2 then e.byte.toNat / 8 else wv.src e.usrc 32 l f.vb.toNat
  let fill := wv.vreg l e.src3.toNat
  let src (m : Nat) : Word := wv.vreg m f.va.toNat
  let x := match e.mod.toNat % 4 with
    | 0 => src (base + o % n)
    | 1 => if l < base + o then fill else src (l - o)
    | 2 => if l + o ≥ base + n then fill else src (l + o)
    | _ => src (base + ((l - base) ^^^ o) % n)
  { v := [(f.vd.toNat, x)] }

/-- The reduction of REDUX and SCAN over lanes in ascending order; an empty one gives the identity (R403). -/
def reduce (f : LForm) (e : EMod) (n : FEnv) (wv : Wave) (ms : List Nat) (l : Nat) : LaneOut :=
  let op := e.mod.toNat
  let vd := f.vd.toNat
  if e.fmt == 11 then
    let os := ms.map fun m => fopd fp32 n.flush (wv.vreg m f.va.toNat).toNat
    match op with
    | 0 =>
      let x := if os.isEmpty then (zeroV false, 0) else sumV (os.map FOpd.v)
      let r := n.round fp32 l x.1
      { v := [(vd, BitVec.ofNat 32 r.code)], fl := x.2 ||| r.fl ||| snans (os.map FOpd.v) }
    | _ =>
      match os with
      | [] => { v := [(vd, if op == 1 then 0x7F800000 else 0xFF800000)] }
      | o :: t =>
        let x := t.foldl (fun (a : ValF) b => let y := minmaxV n.minmax (op == 2) a.1 b.v; (y.1, a.2 ||| y.2))
          (if t.isEmpty && n.minmax != 2 then (quiet o.v, snanFl o.v) else (o.v, 0))
        { v := [(vd, BitVec.ofNat 32 (roundVal fp32 0 false false n.nancan 0 (quiet x.1)).code)], fl := x.2 }
  else
    let sg := signedFmt e.fmt.toNat
    let xs := ms.map fun m => (wv.vreg m f.va.toNat).toNat
    let is := xs.map (extBy sg 32)
    let lim := intRange 32 sg
    match op with
    | 0 => intOut sg 32 e.sat vd is.sum
    | 1 => intOut sg 32 false vd (is.foldl min lim.2)
    | 2 => intOut sg 32 false vd (is.foldl max lim.1)
    | 3 => { v := [(vd, BitVec.ofNat 32 (xs.foldl (· &&& ·) 0xFFFFFFFF))] }
    | 4 => { v := [(vd, BitVec.ofNat 32 (xs.foldl (· ||| ·) 0))] }
    | _ => { v := [(vd, BitVec.ofNat 32 (xs.foldl (· ^^^ ·) 0))] }

/-! ## Meanings -/

/-- SHFL. -/
def execShfl (f : LForm) (s : State) :=
  let m := ((Instr.shfl f).extL f).mod
  crossOp (.shfl f) f { a := true, b := !(m.getLsbD 2), c := m.toNat % 4 == 1 || m.toNat % 4 == 2 }
    (fun e _ wv _ n l => shuffle f e wv n l) s
/-- VOTE (R402). -/
def execVote (f : LForm) (s : State) :=
  crossOp (.vote f) f {} (fun e _ wv act n l =>
    let ps := (groupOf act n l).map fun m => wv.pred m (f.va.toNat % 8)
    { p := some (f.vd.toNat % 8, match e.mod.toNat with
        | 0 => ps.all id
        | 1 => ps.any id
        | _ => ps.all id || !(ps.any id)) }) s
/-- BALLOT (R402). -/
def execBallot (f : LForm) (s : State) :=
  crossOp (.ballot f) f {} (fun _ _ wv act n l =>
    let x := (groupOf act n l).foldl (fun acc m => if wv.pred m (f.va.toNat % 8) then acc + 2 ^ m else acc) 0
    { v := regWords 64 f.vd.toNat x }) s
/-- REDUX (R403). -/
def execRedux (f : LForm) (s : State) :=
  crossOp (.redux f) f { a := true } (fun e n wv act g l =>
    reduce f e n wv (groupOf act g l) l) s
/-- SCAN (R403). -/
def execScan (f : LForm) (s : State) :=
  crossOp (.scan f) f { a := true } (fun e n wv act g l =>
    reduce f e n wv ((groupOf act g l).filter fun m => m < l || (m == l && !e.byte.getLsbD 3)) l) s
/-- QSWZ (R404). -/
def execQswz (f : LForm) (s : State) :=
  crossOp (.qswz f) f { a := true } (fun e _ wv _ _ l =>
    let i := l % 4
    let j := match e.mod.toNat % 4 with
      | 0 => i ^^^ 1 | 1 => i ^^^ 2 | 2 => i ^^^ 3 | _ => e.byte.toNat / 8 % 4
    { v := [(f.vd.toNat, wv.vreg (l / 4 * 4 + j) f.va.toNat)] }) s
/-- DERIV (R404). -/
def execDeriv (f : LForm) (s : State) :=
  crossOp (.deriv f) f { a := true } (fun e n wv _ _ l =>
    let at_ (j : Nat) : FOpd := fopd fp32 n.flush (wv.vreg (l / 4 * 4 + j) f.va.toNat).toNat
    let dx := l % 2
    let dy := l / 2 % 2
    let (p, m) := match e.mod.toNat % 4 with
      | 0 => (1, 0) | 1 => (2, 0) | 2 => (2 * dy + 1, 2 * dy) | _ => (2 + dx, dx)
    let neg : Val → Val
      | .num x => .num { x with neg := !x.neg }
      | .inf s => .inf (!s)
      | v => v
    let a := at_ p
    let b := at_ m
    let x := addV a.v (neg b.v) n.zneg
    let r := n.round fp32 l x.1
    { v := [(f.vd.toNat, BitVec.ofNat 32 r.code)], fl := x.2 ||| r.fl }) s

end Machine
end Sys2Proof
end

