-- ==== Sys2Proof/Machine/Fetch.lean ====
section
/-! DEFINITION. Fetching an instruction's words (R349, R358) and what a fetch does instead: it waits, parks, or traps. -/

namespace Sys2Proof
namespace Machine

/-- What a fetch comes to. -/
inductive Got where
  | words (s : State) (w : Word) (e : Option Word)
  | stop (s : State)

/-- A trap at a fetch: WDOG first where BUDGET is 0 (R302). -/
def State.fetchTrap (s : State) (w : Who) (code : Nat) : State :=
  let f := s.frag w
  (s.fabForget (.frag w.core w.entry)).takeTrap w { word := 0, ext := none, ops := fun _ => (0, 0, 0) }
    { code := if f.budget == 0 then 9 else code, lanes := f.mask }

/-- A page fault at a fetch parks the fragment with its whole mask unfinished (R358); after the 16th round it raises
ACCESS (R64). -/
def State.fetchPark (s : State) (w : Who) (pages : List Nat) : State :=
  if (s.frag w).rounds ≥ 16 then s.fetchTrap w 5 else s.parkFrag w (s.frag w).mask pages false

/-- One word of an instruction, at .l1 through the instruction cache; `key` names a fetch from a fabric window. A word is aligned, so its
bytes lie in one page and are never mixed. -/
def State.fetchWord (s : State) (w : Who) (a : Addr) (key : Nat) : Except State (Word × State) :=
  if isWindow a then .error (s.fetchTrap w 5)
  else
    match joinTr a 4 (fun b => s.trFrag w b false) with
    | .access | .mixed _ => .error (s.fetchTrap w 5)
    | .fault ps => .error (s.fetchPark w ps)
    | .miss ps => .error (s.askPages w ps false)
    | .peer e =>
      match s.fabAccess (.frag w.core w.entry) key w.ctx e .load a 4 [] false with
      | (none, s) => .error s
      | (some r, s) =>
        if r.refused then .error (s.fetchTrap w 5)
        else if r.poisoned then .error (s.fetchTrap w 16)
        else .ok (BitVec.ofNat 32 (leNat r.data), s)
    | .ok locs =>
      let s := s.fillCore w [a] false
      let loc := locs.headD 0
      let (ln, s) := s.iLine w.core (s.tagOf w.ctx) (loc / Config.lineBytes)
      let o := loc % Config.lineBytes
      if (List.range 4).any fun i => ln.poison.getLsbD (o + i) then .error (s.fetchTrap w 16)
      else .ok (BitVec.ofNat 32 (leNat ((List.range 4).map fun i => ln.byte (o + i))), s)

/-- The words of the fragment's next instruction: those kept while it is under way, else fetched together (R358). -/
def State.fetch (s : State) (w : Who) : Got :=
  let f := s.frag w
  match f.words with
  | some (x, e) => .words s x e
  | none =>
    match s.fetchWord w f.pc 65536 with
    | .error s => .stop s
    | .ok (x, s) =>
      let done (s : State) (e : Option Word) : Got :=
        .words (s.updFrag w fun f =>
          if f.st == .xlate && f.only.isNone then
            { f with st := f.runSt, unfin := 0, rounds := 0, prgi := 0, grouped := false, answers := [], since := 0 }
          else f) x e
      if wordX x then
        match s.fetchWord w (f.pc + 4) 65537 with
        | .error s => .stop s
        | .ok (e, s) => done s (some e)
      else done s none

/-- The shape of the issuing wave (R357). -/
def Wave.shape (wv : Wave) : WaveShape := { vregs := wv.vregs, lanes := wv.lanes }

/-- What an issue comes to before its instruction's meaning runs: the instruction, or the state after the stop. -/
inductive Ready where
  | run (s : State) (i : Instr)
  | stop (s : State)

/-- Fetches and decodes for a fragment. A word that an opcode map does not assign issues as the unassigned encoding, which
raises its own ILLOP; any other failed check of R357 raises ILLOP here. -/
def State.prepare (s : State) (core entry : Nat) : Ready :=
  let w := s.whoAt core entry
  match s.fetch w with
  | .stop s => .stop s
  | .words s x e =>
    match decodeWords (s.wave w).shape x (e.getD 0) with
    | .ok i => .run s i
    | .error d => if d.cause ≤ 2 then .run s (.unassignedEncoding x (e.getD 0)) else .stop (s.illop w x e d.cause)

end Machine
end Sys2Proof
end

