-- ==== Sys2Proof/Machine/UniControl.lean ====
section
/-! DEFINITION. Branches, calls and returns, markers, exits and traps (R438 to R446), and the encodings that no opcode map
assigns (R357). -/

namespace Sys2Proof
namespace Machine

/-- The target of a UB-form word at address a: a + 4 × sext(off, 19) (R352). -/
def branchTarget (f : BForm) (a : Addr) : Addr := a + (f.off ++ (0 : BitVec 2)).signExtend 64

/-- A UB-form instruction takes no guard. -/
def branchOp (i : Instr) (body : State → Who → Flow) (s : State) : Host.Outcome State Fault Refusal := issue i opsNone body s

/-- Both fragments of a split, and one that has taken a frame, have issued: SWAIT where the word carries S (R131, R146). -/
def Core.afterSplit (c : Core) (es : List Nat) (sw : Bool) : Core :=
  es.foldl (fun c e => c.updFrag e fun f =>
    { f with st := if sw && !f.board.isEmpty then .swait else f.st, words := none, wait := {}, since := 0 }) c

/-- The lanes of `taken` go to `target`, the others to `next`: one way when they agree, else a split, a serial frame, or
SPLITWAIT (R131, R134 to R136, R439); in trap mode ILLOP with cause 7 (R304). -/
def State.brSplit (s : State) (w : Who) (sw : Bool) (taken : Mask) (target next : Addr) : Flow :=
  let f := s.frag w
  let c := s.core w.core
  if taken == f.mask then .jump s target
  else if taken == 0 then .jump s next
  else if f.trap.isSome then .trap s { code := 1, cause := 7, lanes := f.mask }
  else
    let issued := ((s.count w false).updWave w fun wv => { wv with retired := wv.retired + 1 })
    match c.freeEntry with
    | some n => .placed (issued.updCore w.core fun c => (c.split w.slot w.entry n taken target next).afterSplit [w.entry, n] sw)
    | none =>
      if c.framesUsed w.slot < 8 then
        .placed (issued.updCore w.core fun c => (c.pushFrame w.entry taken target next).afterSplit [w.entry] sw)
      else .placed (s.updFrag w fun f => { f with st := .splitwait })

/-- The lanes whose predicate, under SENSE, is 1. -/
def Wave.branchLanes (wv : Wave) (f : BForm) (mask : Mask) : Mask := mask &&& wv.guarded f.sense f.pred
/-- The uniform condition of BRA and CALL. -/
def Wave.branchTaken (wv : Wave) (f : BForm) : Bool := wv.qpred f.pred.toNat != f.sense

/-- Writes an address into the link pair of lanes (R440). -/
def Wave.link (wv : Wave) (m : Mask) (a : Addr) : Wave :=
  (lanesOf m).foldl (fun wv l =>
    (wv.setV l (wv.vregs - 2) (a.extractLsb' 0 32)).setV l (wv.vregs - 1) (a.extractLsb' 32 32)) wv

/-- BRA. -/
def execBra (f : BForm) (s : State) :=
  branchOp (.bra f) (fun s w => if (s.wave w).branchTaken f then .jump s (branchTarget f (s.frag w).pc) else .done s) s
/-- BRC (R439). -/
def execBrc (f : BForm) (s : State) :=
  branchOp (.brc f) (fun s w =>
    let fr := s.frag w
    s.brSplit w f.sw ((s.wave w).branchLanes f fr.mask) (branchTarget f fr.pc) (fr.pc + 4)) s
/-- BRU: any running lane's predicate takes the whole fragment. -/
def execBru (f : BForm) (s : State) :=
  branchOp (.bru f) (fun s w =>
    let fr := s.frag w
    if (s.wave w).branchLanes f fr.mask != 0 then .jump s (branchTarget f fr.pc) else .done s) s
/-- CALL: the link of every running lane, then the branch. -/
def execCall (f : BForm) (s : State) :=
  branchOp (.call f) (fun s w =>
    let fr := s.frag w
    if (s.wave w).branchTaken f then .jump (s.updWave w fun wv => wv.link fr.mask (fr.pc + 4)) (branchTarget f fr.pc) else .done s) s
/-- RET: a branch to the lowest lane's link of the lanes that share it; the others issue RET again (R441). -/
def execRet (f : UForm) (s : State) :=
  uniOp (.ret f) f {} (fun _ s w =>
    let fr := s.frag w
    let wv := s.wave w
    let t (l : Nat) : Addr := wv.v64 l (wv.vregs - 2)
    let bad := maskOf fun l => fr.mask.getLsbD l && (t l).extractLsb' 0 2 != 0
    if bad != 0 then .trap s { code := 3, lanes := bad }
    else
      let t0 := t (lowestLane fr.mask)
      s.brSplit w f.sw (maskOf fun l => fr.mask.getLsbD l && t l == t0) t0 fr.pc) s
/-- JMPI: with MOD[0], the address after it is the link (R441). -/
def execJmpi (f : UForm) (s : State) :=
  uniOp (.jmpi f) f { a := true } (fun e s w =>
    let fr := s.frag w
    let t := (s.wave w).g64 f.ga.toNat
    if t.extractLsb' 0 2 != 0 then .trap s { code := 3, lanes := fr.mask }
    else
      let next := fr.pc + (if f.ext.isSome then 8 else 4)
      .jump (if e.mod.getLsbD 0 then s.updWave w fun wv => wv.link fr.mask next else s) t) s

/-- EXIT: ends every running lane, or returns from the handler (R445, R306). -/
def execExit (f : UForm) (s : State) :=
  uniOp (.exit f) f {} (fun _ s w =>
    let s := s.count w (s.frag w).again
    match (s.frag w).trap with
    | some r => .placed (s.returnTrap w r)
    | none => .placed (s.exitLanes w)) s

/-- NOP. -/
def execNop (f : UForm) (s : State) := uniOp (.nop f) f {} (fun _ s _ => .done s) s

/-- RCV for the issuing fragment once its frames are settled (R137): it goes on alone, or joins or forms a group. -/
def State.applyRcv (s : State) (w : Who) (sw : Bool) (len point : Nat) : Flow :=
  let f := s.frag w
  let c := s.core w.core
  let wv := s.wave w
  if wv.order.all (· == w.entry) then .done s
  else
    let (time, since) := match c.group w.slot f.pc with
      | e :: _ => ((c.frag e).timer, (c.frag e).since)
      | [] => (wv.fuseTo, 0)
    let s := (s.count w false).updWave w fun wv => { wv with retired := wv.retired + 1 }
    let s := s.updFrag w fun f =>
      { f with st := .rcvwait, point := point, timer := time, since := since, due := false, words := none, wait := { n := len, ok := sw } }
    .placed (s.updCore w.core fun c => c.settle w.slot)

/-- RCV (R135, R137, R443): two paths meet, or the fragment switches to its deferred lanes and the RCV does not issue; in
trap mode it has no effect. -/
def execRcv (f : UForm) (s : State) :=
  uniOp (.rcv f) f {} (fun _ s w =>
    let fr := s.frag w
    let len := if f.ext.isSome then 8 else 4
    if fr.trap.isSome then .done s
    else match fr.frames with
      | top :: rest =>
        if top.joinset && top.join == fr.pc then
          (s.updFrag w fun f => { f with mask := f.mask ||| top.arrived, frames := rest }).applyRcv w f.sw len (f.ga.toNat % 16)
        else if !top.joinset then
          .placed (s.updFrag w fun f =>
            { f with mask := top.dmask, pc := top.dpc,
                     frames := { top with arrived := f.mask, join := fr.pc, joinset := true, dmask := 0 } :: rest })
        else s.applyRcv w f.sw len (f.ga.toNat % 16)
      | [] => s.applyRcv w f.sw len (f.ga.toNat % 16)) s

/-- A lane of the wave has an open stream (R429). -/
def Wave.streaming (wv : Wave) : Bool := wv.streams.any fun (_, x) => x.isOpen

/-- YLD: BUDGET restarts; with a request pending it is a stop point, but not in trap mode nor while a stream is open
(R158, R304, R429, R443). Outside trap mode it is the yield point at which roles of retired units are bound anew (R118). -/
def execYld (f : UForm) (s : State) :=
  uniOp (.yld f) f {} (fun e s w =>
    let fr := s.frag w
    let b := budgetOf e.byte.toNat (s.launch w.launch).dlceil
    let stop := s.asked w.team && fr.trap.isNone && !(s.wave w).streaming
    let s := s.count w fr.again
    let s := s.updFrag w fun f => { f with budget := b }
    let s := s.leave w (f.sw && !stop) (fr.pc + (if f.ext.isSome then 8 else 4))
    let s := if fr.trap.isNone then s.rebind w.team else s
    .placed (if stop then s.updFrag w fun f => { f with st := .ystop } else s)) s

/-- IDR (R160, R444): PRIV but in a privileged wave outside service mode; there a forced fuse of the whole wave opens a
region that keeps the masked registers. -/
def execIdr (f : UForm) (s : State) :=
  uniOp (.idr f) f { a := true } (fun _ s w =>
    let wv := s.wave w
    if !wv.priv || (s.core w.core).mode == .service then .trap s { code := 2, lanes := (s.frag w).mask }
    else
      s.forced w (insOf (.idr f) fun _ => (wv.greg f.ga.toNat, 0, 0)) 5 fun s =>
        let m := wv.g64 f.ga.toNat
        let saved := ((List.range 64).filter fun i => m.getLsbD i).foldl (fun t i => Tbl.set t i (wv.greg i)) ([] : Tbl Word)
        .done (s.updWave w fun x =>
          { x with region := some { entry := (s.frag w).pc + (if f.ext.isSome then 8 else 4), mask := m, saved := saved } })) s

/-- TRAP: TRAPI with the immediate in INFO (R446). -/
def execTrap (f : UImm) (s : State) :=
  issue (.trap f) (opsUImm false f) (fun s w => .trap s { code := 18, lanes := (s.frag w).mask, info := (0 : BitVec 64) ++ f.imm }) s
/-- BRK: the debugger's halt when attached (R316), else the trap. -/
def execBrk (f : UImm) (s : State) :=
  issue (.brk f) (opsUImm false f) (fun s w =>
    if (s.ctx w.ctx).dbg.attach then .done (s.updWave w fun wv => { wv with haltReq := true })
    else .trap s { code := 17, lanes := (s.frag w).mask, info := (0 : BitVec 64) ++ f.imm }) s

/-- The cause of an encoding that no opcode map assigns (R357): 2 where its major has another sub-operation, else 1. -/
def unassignedCause (x : Word) : Nat :=
  let m := wordMajor x
  let used : Bool := (List.range 4).any fun k => if wordUni x then (uniMap m k).isSome else (laneMap m k).isSome
  if used then 2 else 1

/-- A word whose major or sub-operation is unassigned raises ILLOP with cause 1 or 2 before it issues (R357). -/
def execUnassignedEncoding (x e : Word) (s : State) : Host.Outcome State Fault Refusal :=
  match s.cur with
  | none => .fault .noIssuer
  | some (c, k) => .next (s.illop (s.whoAt c k) x (if wordX x then some e else none) (unassignedCause x))

end Machine
end Sys2Proof
end

