-- ==== Sys2Proof/Machine/UniMem.lean ====
section
/-! DEFINITION. Uniform loads and stores (R436, R437). -/

namespace Sys2Proof
namespace Machine

/-- The registers a uniform load writes. -/
def uniWords (fmt gd : Nat) (x : Nat) : List (Nat × Word) := loadWords fmt false gd x

/-- The bytes a uniform store writes. -/
def uniData (wv : Wave) (fmt gd : Nat) : List Byte :=
  let b := fmtBits fmt
  natBytes (b / 8) (wv.usrcG (if b == 64 then 64 else 32) gd)

/-- GLD. -/
def execGld (f : UForm) (s : State) :=
  uniOp (.gld f) f { a := true, b := true } (fun e s w =>
    let wv := s.regs w
    let h := s.how w e.byte (e.mod.extractLsb' 0 2) { uni := true }
    s.loadFlow w h (some (s.frag w).mask) 1 false
      [{ lane := 0, addr := uniAddr wv f.ga.toNat (wv.greg f.gb.toNat), n := fmtBits e.fmt.toNat / 8 }]
      fun _ x => uniWords e.fmt.toNat f.gd.toNat x) s

/-- GLD with an immediate offset: n32, relaxed, at .l1. -/
def execGldI (f : UImm) (s : State) :=
  issue (.gldI f) (opsUImm true f) (fun s w =>
    s.loadFlow w { uni := true } (some (s.frag w).mask) 1 false
      [{ lane := 0, addr := uniAddr (s.regs w) f.ga.toNat f.imm, n := 4 }] fun _ x => uniWords 6 f.gd.toNat x) s

/-- GST. -/
def execGst (f : UForm) (s : State) :=
  uniOp (.gst f) f { a := true, b := true } (fun e s w =>
    let wv := s.regs w
    let h := s.how w e.byte (e.mod.extractLsb' 0 2) { uni := true, wr := true }
    s.storeFlow w h false (some (s.frag w).mask) 1
      [{ lane := 0, addr := uniAddr wv f.ga.toNat (wv.greg f.gb.toNat), n := fmtBits e.fmt.toNat / 8 }]
      fun _ => uniData wv e.fmt.toNat f.gd.toNat) s

/-- GST with an immediate offset. -/
def execGstI (f : UImm) (s : State) :=
  issue (.gstI f) (opsUImm true f) (fun s w =>
    s.storeFlow w { uni := true, wr := true } false (some (s.frag w).mask) 1
      [{ lane := 0, addr := uniAddr (s.regs w) f.ga.toNat f.imm, n := 4 }]
      fun _ => uniData (s.regs w) 6 f.gd.toNat) s

end Machine
end Sys2Proof
end

