-- ==== Sys2Proof/Machine/UniSync.lean ====
section
/-! DEFINITION. Barriers, fences, region bindings, scopes and task counts (R447 to R455, R208 to R219). -/

namespace Sys2Proof
namespace Machine

/-! ## Barriers (R447 to R450) -/

/-- A fragment arrives at barrier n. Under acq_rel its release half drains first (R449); outside a cluster CBAR n is BAR n. -/
def State.arrive (s : State) (w : Who) (i : Ins) (e : EMod) (cluster : Bool) (n : Nat) : Flow :=
  let f := s.frag w
  if f.again then .hold s
  else
    let cap := s.capture w (scopeOf e.byte)
    let rel := ordRel (ordOf e.byte)
    match (if rel then s.stale w cap true f.mask else none) with
    | some t => .trap s t
    | none =>
      let desc := (s.team w.team).desc
      let kind := if cluster && desc.crows * desc.ccols > 1 then 1 else 0
      let s := (s.count w false).updWave w fun wv => if rel then wv.clearAcq cap.index else wv
      let s := s.updFrag w fun f =>
        { f with st := .syncwait, words := some (i.word, i.ext), answers := [], since := 0,
                 wait := { kind := .barrier, n := n, m := kind, cap := cap, ok := rel, ready := !rel } }
      .placed (s.settleBarriers w.team)

/-- BAR. -/
def execBar (f : UForm) (s : State) :=
  uniOp (.bar f) f {} (fun e s w => s.arrive w (insOf (.bar f) fun _ => (0, 0, 0)) e false (f.ga.toNat % 4)) s
/-- CBAR. -/
def execCbar (f : UForm) (s : State) :=
  uniOp (.cbar f) f {} (fun e s w => s.arrive w (insOf (.cbar f) fun _ => (0, 0, 0)) e true (f.ga.toNat % 4)) s

/-! ## Fences (R451) -/

/-- FENCE: the release half drains (RELEASE_DRAIN_DONE), then the acquire half drops lines and writes its record. -/
def execFence (f : UForm) (s : State) :=
  uniOp (.fence f) f {} (fun e s w =>
    let fr := s.frag w
    let o := ordOf e.byte
    if fr.st == .syncwait && fr.wait.kind == .fence then
      if fr.wait.ready then .done (if ordAcq o then s.acquire w fr.wait.cap none else s) else .hold s
    else
      let cap := s.capture w (scopeOf e.byte)
      match s.stale w cap (ordRel o) fr.mask with
      | some t => .trap s t
      | none =>
        if ordRel o then .wait (s.updWave w fun wv => wv.clearAcq cap.index) { kind := .fence, cap := cap, n := o }
        else .done (s.acquire w cap none)) s

/-! ## Region bindings (R214, R215, R452) -/

/-- A binding entry is written at the I/O die, and the fragment waits until every core and engine holds it. -/
def State.writeBinding (s : State) (w : Who) (i : Nat) (b : Binding) : Flow :=
  let (id, s) := s.fresh
  let key := id * 256 + i
  .wait (s.updCtx w.ctx fun x => { x with binds := x.binds.set i b, bindUpd := x.bindUpd ++ [(key, b)] })
    { kind := .binding, n := key }

/-- The fragment leaves SYNCWAIT once its update is everywhere. -/
def State.boundYet (s : State) (w : Who) : Option Flow :=
  let fr := s.frag w
  if fr.st == .syncwait && fr.wait.kind == .binding then some (if fr.wait.ready then .done s else .hold s) else none

/-- BIND. -/
def execBind (f : UForm) (s : State) :=
  uniOp (.bind f) f { a := true, b := true, c := true } (fun e s w =>
    match s.boundYet w with
    | some fl => fl
    | none =>
      let wv := s.wave w
      let i := (wv.greg f.gd.toNat).toNat
      let base := wv.g64 f.ga.toNat
      let len := (wv.g64 f.gb.toNat).toNat
      let mask := (s.frag w).mask
      if i > 255 || len ≥ 2 ^ 40 || len == 0 || base.toNat + len > 2 ^ 64 then .trap s { code := 5, lanes := mask }
      else
        match s.stale w (s.capture w (scopeOf e.byte)) false mask with
        | some t => .trap s t
        | none => s.writeBinding w i
            { base := base, sync := wv.g64 e.src3.toNat, len := len, scope := BitVec.ofNat 5 (scopeOf e.byte), valid := true }) s

/-- UNBIND: of an invalid entry it has no effect. -/
def execUnbind (f : UForm) (s : State) :=
  uniOp (.unbind f) f {} (fun _ s w =>
    match s.boundYet w with
    | some fl => fl
    | none =>
      let i := ((s.wave w).greg f.gd.toNat).toNat
      if i > 255 then .trap s { code := 5, lanes := (s.frag w).mask }
      else s.writeBinding w i { (s.ctx w.ctx).binds.getD i {} with valid := false }) s

/-! ## Scopes (R208 to R210, R453, R454) -/

/-- The update that a SCOPE packet image asks for (Table 4.3): bits 511:128 of the image. -/
def scopeUpdOf (x : Nat) (id : Nat) (packet : Option Nat) : ScopeUpd :=
  { id := id, entry := x / 2 ^ 128 % 32, inval := x / 2 ^ 146 % 2 == 1, packet := packet,
    set := { cores := BitVec.ofNat 320 (x / 2 ^ 192), l2mask := BitVec.ofNat 8 (x / 2 ^ 136),
             llc := x / 2 ^ 144 % 2 == 1, hostfab := x / 2 ^ 145 % 2 == 1 } }

/-- The checks of a SCOPE image (R81): ENTRY, and the reserved bits 135:133 and 191:147. -/
def scopeImageOk (x : Nat) : Bool :=
  5 ≤ x / 2 ^ 128 % 32 && x / 2 ^ 133 % 8 == 0 && x / 2 ^ 147 % 2 ^ 45 == 0

/-- SCOPESET: PRIV outside a privileged wave; else the image is read and checked, and the update runs. -/
def execScopeset (f : UForm) (s : State) :=
  uniOp (.scopeset f) f { a := true, b := true } (fun _ s w =>
    let fr := s.frag w
    let wv := s.regs w
    if fr.st == .syncwait && fr.wait.kind == .scopeUpdate then (if fr.wait.ready then .done s else .hold s)
    else if !wv.priv then .trap s { code := 2, lanes := fr.mask }
    else
      let a := wv.g64 f.ga.toNat
      let c := (wv.greg f.gb.toNat).toNat
      let bad : Trap := { code := 1, cause := 6, lanes := fr.mask, addr := a }
      if a.toNat % 64 != 0 then .trap s bad
      else
        let g := s.gather w { uni := true, pol := 2 } [{ lane := 0, addr := a, n := 64 }]
        let img := valAt g.bytes 0 0
        if (g.rest ||| g.x.any) != 0 then g.x.finish g.rest g.s false (some fr.mask) fun _ => a
        else if !scopeImageOk img then .trap g.s bad
        else if c > 63 || (s.ctx c).st != .active then .trap g.s { code := 5, lanes := fr.mask }
        else
          let (id, s) := g.s.fresh
          .wait (s.addScopeUpd c (scopeUpdOf img id none)) { kind := .scopeUpdate, n := id }) s

/-- SCOPESYNC waits for the update under way; those behind it have not begun (R209, R210). DEDUCED, log entry 31. -/
def execScopesync (f : UForm) (s : State) :=
  uniOp (.scopesync f) f {} (fun _ s w =>
    let fr := s.frag w
    let head := ((s.ctx w.ctx).scopeUpd.head?).map fun u => u.id
    if fr.st == .syncwait && fr.wait.kind == .scopeSync then (if head == some fr.wait.n then .hold s else .done s)
    else match head with
      | none => .done s
      | some id => .wait s { kind := .scopeSync, n := id }) s

/-! ## Task counts (R239, R455) -/

/-- EXPECT: the I/O die adds to a task's COUNT, or refuses (CNTOVF, cause 3); where it has added, the fragment waits in SYNCWAIT for the
reply. -/
def execExpect (f : UForm) (s : State) :=
  uniOp (.expect f) f { a := true, b := true } (fun _ s w =>
    let wv := s.wave w
    let t := (wv.greg f.ga.toNat).toNat
    let n := (wv.greg f.gb.toNat).toNat
    let mask := (s.frag w).mask
    if (s.frag w).st == .syncwait then .done s
    else if t ≥ 4096 then .trap s { code := 5, lanes := mask }
    else
      let k := (s.ctx w.ctx).tasks.getD t {}
      if k.count + n > 65535 then .trap s { code := 10, cause := 3, lanes := mask, info := BitVec.ofNat 96 t }
      else .wait (s.updCtx w.ctx fun x => { x with tasks := x.tasks.set t { k with count := k.count + n } }) { kind := .reply, n := t }) s

end Machine
end Sys2Proof
end

