-- ==== Sys2Proof/Machine/SeqEvents.lean ====
section
/-! DEFINITION. The events of a core's sequencer (R125, R132 to R152), of results and posted operations that return or take
effect (R91, R148), of barriers, fences, posts and monitors (R209 to R219, R418, R463), and of cache lines (R174). -/

namespace Sys2Proof
namespace Machine

/-! ## Splits at misses and faults (R132, R133) -/

/-- Lanes that a list of outstanding results still concerns. -/
def busyLanes (ps : List Pending) : Mask := ps.foldl (fun m p => m ||| p.lanes) 0

/-- An encoded load carries .se (R411). -/
def seWords (w : Word) (e : Option Word) : Bool :=
  match decodeFields w (e.getD 0) with
  | .ok (.ld f) => ((Instr.ld f).extL f).mod.getLsbD 2
  | .ok (.tex f) => ((Instr.tex f).extL f).mod.getLsbD 2
  | .ok (.tld f) => ((Instr.tld f).extL f).mod.getLsbD 2
  | _ => false

/-- The outstanding results of a fragment. -/
def Core.owedTo (c : Core) (f : Frag) : List Pending := (c.wave f.slot).pend.filter fun p => f.board.contains p.id

/-- A split on a miss or a fault is considered in this cycle, THRESH cycles after the wait began, and not before (R132, R133). -/
def Core.splitNow (c : Core) (f : Frag) : Bool :=
  (c.wave f.slot).som && c.missThresh != 0 && f.since == c.missThresh + 1 && !f.considered && f.trap.isNone

/-- The complete quads of a fragment go on at `pc`, where only split-eligible loads are outstanding, some quads but not all are complete
and an entry is free (R132). -/
def Core.trySplit (c : Core) (e : Nat) (done : Mask) (pc : Addr) : Core :=
  let f := c.frag e
  let c := c.updFrag e fun f => { f with considered := true }
  match c.freeEntry with
  | some k => if (c.owedTo f).all (fun p => p.eligible) && done != 0 && done != f.mask then c.quadSplit f.slot e k done pc else c
  | none => c

/-- MISS_SPLIT (R132): the complete quads of a fragment in SWAIT go on as a new fragment. Input: unit the core, item the entry. -/
def execMissSplit (s : State) : Host.Outcome State Fault Refusal :=
  let n := s.inp.unit
  let e := s.inp.item
  let c := s.core n
  let f := c.frag e
  .next (if f.st == .swait && c.splitNow f then
    s.setCore n (c.trySplit e (wholeQuads f.mask (f.mask &&& busyLanes (c.owedTo f))) f.pc)
  else s)

/-- FAULT_SPLIT (R133): the finished quads of a parked split-eligible load go on after it. Input as MISS_SPLIT. -/
def execFaultSplit (s : State) : Host.Outcome State Fault Refusal :=
  let n := s.inp.unit
  let e := s.inp.item
  let c := s.core n
  let f := c.frag e
  .next (match f.words with
    | some (x, y) =>
      if f.st == .xlate && f.only.isSome && seWords x y && c.splitNow f then
        s.setCore n (c.trySplit e (wholeQuads f.mask f.unfin) (f.pc + BitVec.ofNat 64 (wordLen x)))
      else s
    | none => s)

/-! ## Waits of the sequencer (R136 to R143, R152) -/

/-- FUSE_TIMEOUT (R138): an RCV group whose TIMER has reached 0 fuses. Input: unit the core, item an entry of the group. -/
def execFuseTimeout (s : State) : Host.Outcome State Fault Refusal :=
  let f := (s.core s.inp.unit).frag s.inp.item
  .next (if f.st == .rcvwait && f.due then s.updCore s.inp.unit fun c => (c.releaseGroup f.slot f.pc).settle f.slot else s)

/-- RECONVERGENCE_RELEASE (R139): with every live fragment waiting, the group of the highest point is released. Input: unit
the core, item the wave slot. -/
def execReconvergenceRelease (s : State) : Host.Outcome State Fault Refusal :=
  let c := s.core s.inp.unit
  .next (match c.releaseChoice s.inp.item with
    | some a => s.setCore s.inp.unit ((c.releaseGroup s.inp.item a).settle s.inp.item)
    | none => s)

/-- The operands that a forced-fuse instruction leaves in a trap record (R305). -/
def forcedOps (i : Instr) (s : State) (w : Who) : Nat → Word × Word × Word :=
  match i with
  | .shfl f =>
    let e := i.extL f
    let m := e.mod
    opsLane { a := true, b := !(m.getLsbD 2), c := m.toNat % 4 == 1 || m.toNat % 4 == 2 } f e s w
  | .redux f => opsLane { a := true } f (i.extL f) s w
  | .scan f => opsLane { a := true } f (i.extL f) s w
  | .qswz f => opsLane { a := true } f (i.extL f) s w
  | .deriv f => opsLane { a := true } f (i.extL f) s w
  | .mxdot f => opsLane { a := true, b := true, c := true } f (i.extL f) s w
  | .qnt f => opsLane { a := true, c := true } f (i.extL f) s w
  | .tfeed f => opsLane { a := true } f (i.extL f) s w
  | .idr f => fun _ => ((s.wave w).greg f.ga.toNat, 0, 0)
  | _ => fun _ => (0, 0, 0)

/-- FUSETO at the instruction a fragment waits at (R143): INFO holds the width in lanes. -/
def State.fuseTrap (s : State) (w : Who) (cause : Nat) : State :=
  let f := s.frag w
  match f.words with
  | none => s
  | some (x, e) =>
    let i := match decodeFields x (e.getD 0) with
      | .ok i => i
      | .error _ => .unassignedEncoding x (e.getD 0)
    s.fuseto w { word := x, ext := e, ops := forcedOps i s w } cause (f.width (s.wave w).lanes)

/-- FUSETO (R143): a forced-fuse wait's TIMER has reached 0, or every live fragment of the wave waits so and this one is
the oldest. Input: unit the core, item the fragment entry. -/
def execFuseto (s : State) : Host.Outcome State Fault Refusal :=
  let w := s.whoAt s.inp.unit s.inp.item
  let f := s.frag w
  .next (if f.st == .ffwait && f.due then s.fuseTrap w 0
    else if (s.core w.core).allForced w.slot == some w.entry then s.fuseTrap w 2
    else s)

/-- SPLITWAIT_RETRY (R136): once an entry or a frame is free, the branch issues again. Input: unit the core, item the entry. -/
def execSplitwaitRetry (s : State) : Host.Outcome State Fault Refusal :=
  let c := s.core s.inp.unit
  let f := c.frag s.inp.item
  .next (if f.st == .splitwait && (c.freeEntry.isSome || c.framesUsed f.slot < 8) then s.push [.issue s.inp.unit s.inp.item] else s)

/-- POOL_EVICT (R152): a pool wave without an issue for more than 32 cycles makes room for the oldest ready wave outside.
Input: unit the core, item the wave slot. -/
def execPoolEvict (s : State) : Host.Outcome State Fault Refusal :=
  let c := s.core s.inp.unit
  let wv := c.wave s.inp.item
  .next (if wv.idle > 32 && (c.pipe wv.pipe).pool.contains s.inp.item && (c.readyOut wv.pipe).isSome then
    s.setCore s.inp.unit (c.leavePool s.inp.item) else s)

/-! ## Entries for starting waves (R125) -/

/-- A wave that starts or resumes takes an entry for each of its fragments, oldest first; what is reserved beyond the need of the waves
that still wait is free again. -/
def Core.grantEntries (c : Core) (slot : Nat) : Core :=
  let fs := (c.wave slot).owed
  let c := ((c.freeEntries.zip fs).foldl (fun c (e, f) => c.addFrag slot e f) c).updWave slot fun w => { w with owed := [] }
  let c := { c with entryWaiters := c.entryWaiters.filter (· != slot) }
  { c with resv := (c.resv.filter fun e => (c.frags.get? e).isNone).take c.entriesOwed }

/-- WAVE_ENTRY_GRANT (R125): the oldest waiting wave takes its entries once enough are free. Input: unit the core. -/
def execWaveEntryGrant (s : State) : Host.Outcome State Fault Refusal :=
  let c := s.core s.inp.unit
  .next (match c.entryWaiters with
    | k :: _ => if (c.wave k).owed.length ≤ c.freeEntries.length then s.setCore s.inp.unit (c.grantEntries k) else s
    | [] => s)

/-! ## Results and posted operations (R91, R148, R203) -/

/-- A word of a result returns to its register, or, where `keep`, the value written since stands. -/
def Wave.putWord (wv : Wave) (uniform keep : Bool) (k : Nat) (x : Word) : Wave :=
  if uniform then
    let wv := { wv with lateG := wv.lateG.erase k }
    if keep then wv else { wv with g := wv.g.put k x 0, badG := wv.badG.erase k }
  else
    let wv := { wv with lateV := wv.lateV.erase k }
    if keep then wv else { wv with v := wv.v.put k x 0, badV := wv.badV.erase k }

/-- The register word has been written while a result for it was outstanding (R148). -/
def Wave.late (wv : Wave) (uniform : Bool) (k : Nat) : Bool := ((if uniform then wv.lateG else wv.lateV).get? k).isSome

/-- Writes the values of an outstanding result: a lane result reaches the lanes it was issued for and that live still. Of a register word
written meanwhile, the written value or the returning one stands, by a free value (R148). -/
def State.putResult (s : State) (n slot : Nat) (p : Pending) : State :=
  (p.vals.filter fun (k, _) => p.uniform || p.lanes.getLsbD (k % 64)).foldl (fun s (k, x) =>
    let late := ((s.core n).wave slot).late p.uniform k
    let keep := late && !Config.lateWrite s.free
    let s := if late then { s with free := s.free + 1 } else s
    s.updCore n fun c => c.updWave slot fun w => w.putWord p.uniform keep k x) s

/-- RESULT_RETURN (R148): a result returns for some of its lanes, or as a whole; the last one clears it from every
scoreboard, and fragments in SWAIT without results go on. Input: unit the core, item the wave slot, id the result, lanes the
lanes that return (none: all that remain). -/
def execResultReturn (s : State) : Host.Outcome State Fault Refusal :=
  let k := s.inp.item
  .next (match ((s.core s.inp.unit).wave k).pend.find? fun p => p.id == s.inp.id with
    | none => s
    | some p =>
      let now := if p.uniform || s.inp.lanes == 0 then p.lanes else p.lanes &&& s.inp.lanes
      let last : Bool := p.uniform || now == p.lanes
      let s := s.putResult s.inp.unit k { p with lanes := now }
      let c := (s.core s.inp.unit).updWave k fun w =>
        { w with pend := if last then w.pend.filter fun q => q.id != p.id
                         else w.pend.map fun q => if q.id == p.id then { q with lanes := q.lanes &&& ~~~ now } else q }
      let clear (f : Frag) : Frag := if last then { f with board := f.board.filter (· != p.id) } else f
      s.setCore s.inp.unit (((c.wave k).order.foldl (fun c e => c.updFrag e clear) c).endSwait k))

/-- NON_RETURNING_OPERATION_PERFORMED (R91): a posted store or reduction that releases nothing and comes after no other (R408) takes
effect at its place. Input: unit the core, id the operation. -/
def execNonReturningOperationPerformed (s : State) : Host.Outcome State Fault Refusal :=
  let c := s.core s.inp.unit
  .next (match c.posts.find? fun p => p.id == s.inp.id with
    | some p => if p.rel.isNone && (c.due fun q => q.id == p.id).length == 1 then s.performOne s.inp.unit p else s
    | none => s)

/-- RELEASE_DRAIN_DONE (R219): what a release covers is performed at its level's place. With flag, the posted release `id` of
core `unit`; else the barrier or fence at which fragment `item` of core `unit` waits. -/
def execReleaseDrainDone (s : State) : Host.Outcome State Fault Refusal :=
  let n := s.inp.unit
  .next (if s.inp.flag then
      match (s.core n).posts.find? fun p => p.id == s.inp.id with
      | some p => if p.rel.isSome && !s.hindered n (fun q => q.id == p.id) then s.performPost n p else s
      | none => s
    else
      let w := s.whoAt n s.inp.item
      let f := s.frag w
      if (f.waits .barrier || f.waits .fence) && !s.mustWait w f.wait.cap then
        let s := (s.performWhere n fun p => p.slot == w.slot).cleanCore n f.wait.cap.set.level fun _ => true
        let s := s.updCore n fun c => c.updFrag w.entry fun f => { f with wait := { f.wait with ready := true } }
        if f.wait.kind == .barrier then s.settleBarriers w.team else s.push [.issue n w.entry]
      else s)

/-- POST_ACCEPT (R228, R463): the stores that a post comes after are acknowledged, and the post issues again. Input: unit the
core, item the fragment entry. -/
def execPostAccept (s : State) : Host.Outcome State Fault Refusal :=
  let w := s.whoAt s.inp.unit s.inp.item
  .next (if (s.frag w).waits .post && !s.mustWait w (s.frag w).wait.cap then (s.wake w.core w.entry).push [.issue w.core w.entry] else s)

/-- BINDING_PROPAGATED (R215): every core holds the new entry, and the fragment that wrote it goes on. Input: unit the
context, item the update. -/
def execBindingPropagated (s : State) : Host.Outcome State Fault Refusal :=
  let c := s.inp.unit
  .next (match (s.ctx c).bindUpd.find? fun (k, _) => k == s.inp.item with
    | none => s
    | some (k, b) =>
      let s := (List.range 320).foldl (fun s n => s.updCore n fun x => { x with binds := x.binds.set (c * 256 + k % 256) b }) s
      (s.updCtx c fun x => { x with bindUpd := x.bindUpd.filter fun (j, _) => j != k }).wakeWhere fun f =>
        f.waits .binding && f.wait.n == k)

/-- SCOPE_UPDATE_ACK (R209): a die's cores take the update of a context that is under way. Input: unit the context, item the
die. -/
def execScopeUpdateAck (s : State) : Host.Outcome State Fault Refusal := .next (s.scopeAck s.inp.unit s.inp.item true)

/-! ## Condition monitors (R418) -/

/-- Has lanes of a WAITC read again. -/
def State.reread (s : State) (core entry : Nat) (m : Mask) : State :=
  if m == 0 then s else
    (s.updCore core fun c => c.updFrag entry fun f => { f with wait := { f.wait with m := m.toNat, ready := true } }).push [.issue core entry]

/-- The monitors of a fragment that have fired, by id. -/
def State.firedIds (s : State) (core entry : Nat) : List Nat :=
  s.dies.flatMap fun (_, d) => (d.monitors.filter fun m => m.fired && !m.saved && m.core == core && m.entry == entry).map fun m => m.id

/-- MONITOR_WAKE (R418, R419): the lanes whose monitors have fired read again, or a swapped-out team becomes ready. With
flag, the team `item` whose monitor on die `unit` fired; else fragment `item` of core `unit`. -/
def execMonitorWake (s : State) : Host.Outcome State Fault Refusal :=
  .next (if s.inp.flag then
      let t := s.inp.item
      let tm := s.team t
      if tm.st == .saved && tm.swapOut && s.dies.any (fun (_, d) => d.monitors.any fun m => m.team == t && m.saved && m.fired) then
        ((s.dropMonitors t).updTeam t fun x => { x with swapOut := false }).updDie tm.imageDie fun d => { d with resume := d.resume ++ [t] }
      else s
    else
      let f := (s.core s.inp.unit).frag s.inp.item
      let ids := s.firedIds s.inp.unit s.inp.item
      if f.waits .waitc && !ids.isEmpty then
        let m := f.wait.gran.foldl (fun m (l, g) => if ids.contains (g - 1) && g != 0 then m ||| laneBit l else m) (0 : Mask)
        let quiet (d : Die) : Die :=
          let ms := d.monitors.map fun (x : Monitor) => if ids.contains x.id then { x with fired := false } else x
          { d with monitors := ms }
        let s := { s with dies := s.dies.map fun (k, d) => (k, quiet d) }
        s.reread s.inp.unit s.inp.item m
      else s)

/-- WAITC_POLL (R418): the lanes without a monitor read again. Input: unit the core, item the fragment entry. -/
def execWaitcPoll (s : State) : Host.Outcome State Fault Refusal :=
  let f := (s.core s.inp.unit).frag s.inp.item
  .next (if f.waits .waitc then
    s.reread s.inp.unit s.inp.item (f.wait.gran.foldl (fun m (l, g) => if g == 0 then m ||| laneBit l else m) (0 : Mask))
  else s)

/-! ## Cache lines (R174) -/

/-- CACHE_LINE_EVICTION (R174): a line leaves a core's L1, written back to the L2 where it is dirty, a die's L2, written back to
its home, a die's LLC slice, or an instruction cache. Input: level the cache, unit the core or die, item the line number. -/
def execCacheLineEviction (s : State) : Host.Outcome State Fault Refusal :=
  .next (match s.inp.level with
    | .l1 => s.dropL1 s.inp.unit s.inp.item false
    | .l2 => s.dropL2 s.inp.unit s.inp.item
    | .llc => s.updDie s.inp.unit fun d => { d with llc := d.llc.erase s.inp.item }
    | .icache => s.updCore s.inp.unit fun c => { c with icache := c.icache.erase s.inp.item })

end Machine
end Sys2Proof
end

