-- ==== Sys2Proof/Machine/Placement.lean ====
section
/-! DEFINITION. Placement: what a team needs, room on the load board, rectangles and affinity, starting and resuming teams, and
the claims of the Ochre agents (R100 to R121, R311, R488 to R496). -/

namespace Sys2Proof
namespace Machine

/-! ## Dies, cores and room (R103 to R108) -/

/-- Teams of one ticket: the cluster's shape, or one (R110). -/
def Desc.teams (d : Desc) : Nat := d.crows * d.ccols

/-- A die may take work of a context (R110). -/
def State.usable (s : State) (c d : Nat) : Bool :=
  !(s.die d).fenced && (!(s.ctx c).fb || (s.ctx c).fbdies.getLsbD d)
/-- The usable dies, in ascending order. -/
def State.usableDies (s : State) (c : Nat) : List Nat := (List.range 8).filter (s.usable c)

/-- Core n takes new teams: it is live, in service, and its die is not fenced (R15, R162). -/
def State.coreOpen (s : State) (n : Nat) : Bool :=
  let c := s.core n
  !(s.die (dieOf n)).fenced && !c.retired && !c.draining && !(s.boardOf n).retired && c.mode == .service

/-- Scratchpad of a team in KiB (R103). -/
def Desc.scr (d : Desc) (lanepriv : Nat) : Nat := ceilDiv (d.waves * 4 * 2 ^ d.width * lanepriv) 1024 + d.teamscr + d.cshare

/-- The pipe that a wave goes to: of those that can hold it, the one with the most free quad slots, ties lowest (R107). -/
def pickPipe (quads blocks : List Nat) (q k : Nat) : Option Nat :=
  (List.range 4).foldl (fun best p =>
    if q ≤ quads.getD p 0 && k ≤ blocks.getD p 0 then
      match best with
      | some b => if quads.getD b 0 < quads.getD p 0 then some p else some b
      | none => some p
    else best) none

/-- The pipes of n waves, in wave order. -/
def pipesFor (q k : Nat) : Nat → List Nat → List Nat → Option (List Nat)
  | 0, _, _ => some []
  | n + 1, quads, blocks =>
    match pickPipe quads blocks q k with
    | none => none
    | some p => (pipesFor q k n (unbump quads p q) (unbump blocks p k)).map fun r => p :: r

/-- The demand of a team of a launch. -/
structure Need where
  desc : Desc
  lanepriv : Nat
  deriving DecidableEq, Repr

/-- Quad slots of a wave. -/
def Need.quads (x : Need) : Nat := 2 ^ x.desc.width
/-- Register blocks of a wave. -/
def Need.blocks (x : Need) : Nat := x.desc.vregs * 2 ^ x.desc.width

/-- The pipes of a team's waves on core n, none without room; `scr` false leaves scratchpad out of the count (R107). -/
def State.fit (s : State) (n : Nat) (x : Need) (scr : Bool := true) : Option (List Nat) :=
  let b := s.boardOf n
  if s.coreOpen n && x.desc.waves ≤ b.waves && (!scr || x.desc.scr x.lanepriv ≤ b.scr) && x.desc.mtiles ≤ b.tiles then
    pipesFor x.quads x.blocks x.desc.waves b.quads b.blocks
  else none

/-- Reserves a team's demand on core n (R109). -/
def State.reserve (s : State) (n : Nat) (x : Need) (pipes : List Nat) : State :=
  let s := s.updBoard n fun b =>
    pipes.foldl (fun b p => { b with quads := unbump b.quads p x.quads, blocks := unbump b.blocks p x.blocks })
      { b with waves := b.waves - x.desc.waves, scr := b.scr - x.desc.scr x.lanepriv }
  if x.desc.mtiles == 0 then s
  else (quartetCores (quartetOf n)).foldl (fun s m => s.updBoard m fun b => { b with tiles := b.tiles - x.desc.mtiles }) s

/-- Reserves a team on each of some cores, in their order; none when one lacks room. -/
def reserveAll (x : Need) : List Nat → State → Option (State × List (List Nat))
  | [], s => some (s, [])
  | n :: t, s =>
    match s.fit n x with
    | none => none
    | some ps => (reserveAll x t (s.reserve n x ps)).map fun (s, r) => (s, ps :: r)

/-- Each of some cores has room for a team, but for scratchpad. -/
def State.fitsBar (s : State) (x : Need) (ns : List Nat) : Bool := ns.all fun n => (s.fit n x false).isSome

/-- Load of a core (R108). -/
def State.load (s : State) (n : Nat) : Nat := 3072 - (s.boardOf n).quads.sum

/-- The least-loaded of some cores with room, ties lowest (R108). -/
def State.leastLoaded (s : State) (x : Need) (ns : List Nat) : Option Nat :=
  match ns.filter fun n => (s.fit n x).isSome with
  | [] => none
  | n :: t => some (t.foldl (fun a b => if s.load b < s.load a then b else a) n)

/-- The cores of a die. -/
def coresOf (d : Nat) : List Nat := (List.range 40).map fun k => d * 40 + k

/-- The cores of a rectangle, in role order. -/
def rectAt (tl rows cols : Nat) : List Nat :=
  (List.range rows).flatMap fun i => (List.range cols).map fun j => tl + i * 10 + j

/-- The rectangles of a shape on a die, in raster order of their top-left core. -/
def rects (d rows cols : Nat) : List (List Nat) :=
  (coresOf d).filterMap fun n =>
    let k := n % 40
    if k / 10 + rows ≤ 4 && k % 10 + cols ≤ 10 then some (rectAt n rows cols) else none

/-! ## Affinity (R114) -/

/-- Where R114 lets a team or cluster go on a die: among cores by load, or onto the first rectangle with room. -/
inductive Spots where
  | cores (ns : List Nat)
  | rect (rs : List (List Nat))
  deriving DecidableEq, Repr

/-- Spots of a descriptor without affinity on a die. -/
def Desc.plain (x : Desc) (d : Nat) : Spots := if x.teams > 1 then .rect (rects d x.crows x.ccols) else .cores (coresOf d)

/-- The resident segment that a descriptor names, when R114 places by it. -/
def State.affSeg (s : State) (c : Nat) (x : Desc) : Option Seg :=
  match (s.segFind c x.affname).map (s.seg c) with
  | some g =>
    if g.st == .resident && !(g.level == 1 && x.teams > 1 && !(x.crows == g.hrows && x.ccols == g.hcols)) then some g else none
  | none => none

/-- Spots of a descriptor on a die under R114. -/
def State.spots (s : State) (c : Nat) (x : Desc) (d : Nat) : Spots :=
  match s.affSeg c x with
  | none => x.plain d
  | some g =>
    if g.homeDie != d then .cores []
    else match g.level with
      | 0 => if x.teams > 1 then .rect ((rects d x.crows x.ccols).filter fun r => r.head? == some g.home) else .cores [g.home]
      | 1 => if x.teams > 1 then .rect [g.homeCores] else .cores g.homeCores
      | _ => x.plain d

/-- The cores of a placement with their pipes, reserved, in role order. -/
def State.choose (s : State) (x : Need) : Spots → Option (State × List Nat × List (List Nat))
  | .cores ns => (s.leastLoaded x ns).bind fun n => (reserveAll x [n] s).map fun (s, ps) => (s, [n], ps)
  | .rect rs => rs.findSome? fun r => (reserveAll x r s).map fun (s, ps) => (s, r, ps)

/-- Cores whose scratchpad alone keeps a placement out (R191). -/
def State.scrLack (s : State) (x : Need) (sp : Spots) : List Nat :=
  let short (ns : List Nat) : List Nat := ns.filter fun n => (s.boardOf n).scr < x.desc.scr x.lanepriv
  match sp with
  | .cores ns => short (ns.filter fun n => (s.fit n x false).isSome)
  | .rect rs => short ((rs.filter fun r => s.fitsBar x r).flatMap id)

/-- A placement that only scratchpad keeps out has the agent evict a candidate there (R191). -/
def State.evictFor (s : State) (x : Need) (sp : Spots) : State :=
  let lack := s.scrLack x sp
  if lack.isEmpty || s.evicting lack then s
  else match s.victim lack with
    | some (c, h) => s.startEvict c h
    | none => s

/-! ## Starting waves (R90, R125, R152, R156, R280, R289, R297, R459) -/

/-- The uniform registers a wave starts with. -/
def startRegs (arg : Addr) (kind : StartKind) (number widx : Nat) : List (Nat × Word) :=
  let pair (i : Nat) (a : Addr) : List (Nat × Word) := [(i, a.extractLsb' 0 32), (i + 1, a.extractLsb' 32 32)]
  pair 0 arg ++ match kind with
    | .seed ref => [(2, ref)]
    | .team => [(2, BitVec.ofNat 32 number), (3, BitVec.ofNat 32 widx)]
    | .query first result _ _ => (2, BitVec.ofNat 32 first) :: pair 3 result
    | .mesh slot => [(2, BitVec.ofNat 32 number), (3, BitVec.ofNat 32 slot)]
    | .raster vbuf pitch tx ty _ _ => pair 2 vbuf ++ [(4, BitVec.ofNat 32 pitch), (5, BitVec.ofNat 32 (tx + ty * 65536))]

/-- The lanes a wave starts with and the vector registers they hold. -/
def startLanes (kind : StartKind) (lanes : Nat) : Mask × Tbl Word :=
  match kind with
  | .query _ _ m v => (m, v)
  | .raster _ _ _ _ m v => (m, v)
  | _ => (fullMask lanes, [])

/-- The lowest free wave slot of a core; slot 191 is its agent's (R100). -/
def Core.freeSlotNo (c : Core) : Nat := ((List.range 191).find? fun k => (c.waves.get? k).isNone).getD 190

/-- A wave comes to its core: it joins its pipe's pool where that has room, and takes its entries, or waits for them. -/
def Core.addWave (c : Core) (slot : Nat) (w : Wave) : Core :=
  let c := { c with waves := c.waves.set slot { w with age := c.nextAge }, nextAge := c.nextAge + 1 }
  let pool := (c.pipe w.pipe).pool
  let c := if pool.length < 16 then { c with pipes := c.pipes.set w.pipe { c.pipe w.pipe with pool := pool ++ [slot] } } else c
  if c.entryWaiters.isEmpty && w.owed.length ≤ c.freeEntries.length then c.grantEntries slot
  else { c with entryWaiters := c.entryWaiters ++ [slot] }

/-- Wave `i` of a team as it starts. -/
def freshWave (s : State) (key : Nat) (l : Nat) (x : Desc) (kind : StartKind) (number i pipe : Nat) : Wave :=
  let lanes := 4 * 2 ^ x.width
  let (m, v) := startLanes kind lanes
  let f : Frag := { pc := x.entry, mask := m &&& fullMask lanes, st := .run, budget := budgetOf 255 (s.launch l).dlceil }
  let w : Wave := { team := key, idx := i, lanes := lanes, vregs := 8 * x.vregs, pipe := pipe, v := v.filter (fun (_, y) => y != 0),
                    fuseTo := x.fuseTo, exited := fullMask lanes &&& ~~~ m, owed := [f] }
  (startRegs x.arg kind number i).foldl (fun w (r, y) => w.setG r y) w

/-- Puts a team's waves on its core. -/
def State.putWaves (s : State) (key core : Nat) (ws : List Wave) : State :=
  ws.foldl (fun s w =>
    let slot := (s.core core).freeSlotNo
    (s.updCore core fun c => c.addWave slot w).updTeam key fun t => { t with slots := t.slots.set w.idx slot }) s

/-- Starts the teams of a ticket on reserved cores: one team, or the members of a cluster in role order (R109, R113). The
start acquires at the system scope (R86, R459). -/
def State.startTicket (s : State) (tk : Ticket) (d : Nat) (cores : List Nat) (pipes : List (List Nat)) : State :=
  let base := s.nextTeam
  let s := { s with nextTeam := base + cores.length }
  let launch := s.launch tk.launch
  let s := (cores.zip pipes).zipIdx.foldl (fun (s : State) ((n, ps), k) =>
    let number := tk.first + k
    let mesh : Option (Nat × Nat × Nat) := match tk.kind with
      | .mesh slot => some (d, slot, number)
      | _ => none
    let tm : Team := { launch := tk.launch, ctx := launch.ctx, grid := tk.grid, number := number, core := n, role := k,
                       cluster := base, desc := tk.desc, kind := tk.kind, kills := tk.kills, roles := s.roleTable n cores,
                       mesh := mesh, pipes := ps }
    { s with teams := s.teams.set (base + k) tm }) s
  (cores.zip pipes).zipIdx.foldl (fun s ((n, ps), k) =>
    (s.putWaves (base + k) n (ps.zipIdx.map fun (p, i) => freshWave s (base + k) tk.launch tk.desc tk.kind (tk.first + k) i p)).acquireDrop
      n 4 fun _ => true) s

/-- The need of a ticket. -/
def State.need (s : State) (tk : Ticket) : Need := { desc := tk.desc, lanepriv := (s.launch tk.launch).lanepriv }

/-- Spots of a ticket on a die: under R114, or as if AFFNAME were 0 where R115 has let it go. -/
def State.spotsOf (s : State) (tk : Ticket) (d : Nat) : Spots :=
  if tk.loose then tk.desc.plain d else s.spots (s.launch tk.launch).ctx tk.desc d

/-- Where a ticket goes on a usable die: the state with its demand reserved, its cores and pipes; none without room. -/
def State.roomFor (s : State) (tk : Ticket) (d : Nat) : Option (State × List Nat × List (List Nat)) :=
  if s.usable (s.launch tk.launch).ctx d then s.choose (s.need tk) (s.spotsOf tk d) else none

/-- Places a ticket on a die, none without room or where the die is not usable (R89, R110). -/
def State.place (s : State) (tk : Ticket) (d : Nat) : Option State := (s.roomFor tk d).map fun (s, cs, ps) => s.startTicket tk d cs ps

/-- A ticket fits on a die now. -/
def State.fitsOn (s : State) (tk : Ticket) (d : Nat) : Bool := (s.roomFor tk d).isSome

/-- A ticket that only scratchpad keeps out of a usable die has the agents evict a candidate there (R191). -/
def State.evictForTicket (s : State) (tk : Ticket) (d : Nat) : State :=
  if s.usable (s.launch tk.launch).ctx d then s.evictFor (s.need tk) (s.spotsOf tk d) else s

/-! ## Seeds (R110, R488) -/

/-- A launch goes before another: higher PRIO, then earlier dispatch. -/
def State.before (s : State) (a b : Nat) : Bool :=
  let x := s.launch a
  let y := s.launch b
  let p := (s.ctx x.ctx).prio.toNat
  let q := (s.ctx y.ctx).prio.toNat
  q < p || (p == q && x.order < y.order)

/-- The best of a list under an order. -/
def bestBy {α : Type} (lt : α → α → Bool) : List α → Option α
  | [] => none
  | x :: t => some (t.foldl (fun a b => if lt b a then b else a) x)

/-- Offers a seed to the usable dies in turn from die `d0`; the first with room takes it. -/
def State.offerSeed (s : State) (tk : Ticket) (d0 : Nat) : Option State :=
  ((List.range 8).map fun k => (d0 + k) % 8).findSome? fun d => (s.place tk d).map fun s => s.updWoad fun w => { w with seedPtr := d }

/-- A seed that no die has taken: on every usable die the agents evict for it what only scratchpad asks for (R191). -/
def State.seedWaits (s : State) (tk : Ticket) : State := (List.range 8).foldl (fun s d => s.evictForTicket tk d) s

/-- A waiting seed fits on a die. -/
def State.seedFits (s : State) (d : Nat) : Bool := s.woad.seeds.any fun tk => s.fitsOn tk d

/-- Offers the waiting seeds in their order, beginning with die d0. -/
def offerSeeds (d0 : Nat) : Nat → List Ticket → State → State
  | 0, _, s => s
  | n + 1, ts, s =>
    match bestBy (fun a b => s.before a.launch b.launch) ts with
    | none => s
    | some tk =>
      let s := match s.offerSeed tk d0 with
        | some s => s.updWoad fun w => { w with seeds := w.seeds.filter fun x => x.launch != tk.launch }
        | none => s.seedWaits tk
      offerSeeds d0 n (ts.filter fun x => x.launch != tk.launch) s

/-- SEED_REOFFER (R488): Woad offers the waiting seeds again, beginning with the die whose board gained room. Input: unit the
die. -/
def execSeedReoffer (s : State) : Host.Outcome State Fault Refusal :=
  .next (offerSeeds (s.inp.unit % 8) s.woad.seeds.length s.woad.seeds s)

/-! ## Tickets (R110, R111) -/

/-- The ticket that an entry gives next. -/
def LEntry.ticket (e : LEntry) : Ticket :=
  { launch := e.launch, grid := e.grid, first := e.next * e.desc.teams, desc := e.desc, kind := e.kind, kills := e.kills }

/-- Tickets still unclaimed. -/
def LEntry.left (e : LEntry) : Nat := e.bound - e.next

/-- A launch's tickets may be claimed: it has no unresolved pre-emption request (R111). -/
def State.claimable (s : State) (l : Nat) : Bool := !(s.launch l).request

/-- An entry on die k's list is one that agents of die d may claim from: its affinity does not name another die's segment,
and a software raster team stays on its die (R114, R297). -/
def State.forDie (s : State) (d k : Nat) (e : LEntry) : Bool :=
  let c := (s.launch e.launch).ctx
  let stays : Bool := match e.kind with
    | .raster .. => k == d
    | _ => true
  e.left > 0 && s.claimable e.launch && s.usable c d && stays && match s.affSeg c e.desc with
    | some g => g.homeDie == d
    | none => true

/-- Takes one ticket of the first entry of a list that meets a test; an exhausted entry goes. -/
def takeTicket (p : LEntry → Bool) : List LEntry → Option (Ticket × List LEntry)
  | [] => none
  | e :: t =>
    if p e then some (e.ticket, if e.left ≤ 1 then t else { e with next := e.next + 1 } :: t)
    else (takeTicket p t).map fun (k, r) => (k, e :: r)

/-- Unclaimed tickets of a launch on a die that die d may claim. -/
def State.unclaimed (s : State) (d k l : Nat) : Nat :=
  ((s.die k).list.filter fun e => e.launch == l && s.forDie d k e).foldl (fun n e => n + e.left) 0

/-- The new ticket that an agent of die d claims: of the best launch with one; from its own die, else from the die with the
most of that launch's, ties lowest. -/
def State.claimNew (s : State) (d : Nat) : Option (Ticket × State) :=
  let dies := (List.range 8).filter fun k => !(s.die k).fenced
  let ls := (dies.flatMap fun k => ((s.die k).list.filter (s.forDie d k)).map fun e => e.launch).eraseDups
  match bestBy s.before ls with
  | none => none
  | some l =>
    let src := if s.unclaimed d d l > 0 then d else (bestBy (fun a b => s.unclaimed d b l < s.unclaimed d a l) dies).getD d
    match takeTicket (fun e => e.launch == l && s.forDie d src e) (s.die src).list with
    | none => none
    | some (tk, rest) => some (tk, s.updDie src fun x => { x with list := rest })

/-- An agent with free capacity: a live core in service with a free wave slot. -/
def State.capacity (s : State) (d : Nat) : Bool := (coresOf d).any fun n => s.coreOpen n && (s.boardOf n).waves ≥ 1

/-! ## Resumes (R189, R311, R490) -/

/-- The saved members of a team's cluster, in role order. -/
def State.savedMembers (s : State) (t : Nat) : List (Nat × Team) :=
  s.teams.filter fun (_, x) => x.st == .saved && x.cluster == (s.team t).cluster

/-- The descriptor by which a resumed team is placed: its first recorded name is its AFFNAME. -/
def Team.resumeDesc (t : Team) : Desc := { t.desc with affname := ((t.attach.head?).map fun (a : Attach) => a.name).getD 0 }

/-- Cores and pipes for the saved members of a cluster on one rectangle: other members need no room. -/
def reserveSome (x : Need) : List (Nat × Bool) → State → Option (State × List (List Nat))
  | [], s => some (s, [])
  | (n, live) :: t, s =>
    if live then
      match s.fit n x with
      | none => none
      | some ps => (reserveSome x t (s.reserve n x ps)).map fun (s, r) => (s, ps :: r)
    else (reserveSome x t s).map fun (s, r) => (s, [] :: r)

/-- Where the saved members of a team's cluster go on a die: the cores of every role, and the pipes of each. -/
def State.chooseResume (s : State) (t d : Nat) : Option (State × List Nat × List (List Nat)) :=
  let tm := s.team t
  let x : Need := { desc := tm.resumeDesc, lanepriv := (s.launch tm.launch).lanepriv }
  let roles := (s.savedMembers t).map fun (_, m) => m.role
  match s.spots tm.ctx x.desc d with
  | .cores ns => s.choose x (.cores ns)
  | .rect rs => rs.findSome? fun r =>
    (reserveSome x (r.zipIdx.map fun (n, k) => (n, roles.contains k)) s).map fun (s, ps) => (s, r, ps)

/-- A fragment as it comes back (R159): YSTOP goes on running, timed waits start anew, a parked access is to send its page requests again
(`resend`), and an instruction that waited issues again. What it had read at its issue is not saved. -/
def Frag.resumed (f : Frag) (fuseTo : Nat) : Frag :=
  let f := { f with issued := none, desc := none, answers := [], since := 0, considered := false }
  match f.st with
  | .ystop => { f with st := f.runSt }
  | .rcvwait | .ffwait => { f with timer := fuseTo, due := false }
  | .xlate => { f with wait := {}, grouped := false, prgi := 0 }
  | .syncwait => { f with st := f.runSt, wait := {}, words := none }
  | _ => f

/-- A fragment in XLATE for which no group stands, since it has been saved, sends its page requests again (R159); after a Response Failure
there are none, and its access is tried again (R64). -/
def State.resend (s : State) (core e : Nat) : State :=
  let w := s.whoAt core e
  let f := s.frag w
  if f.st != .xlate || f.wait.ready || f.pages.isEmpty || s.link.groups.any (fun g => g.client == .frag core e) then s
  else if (s.ctx w.ctx).priFail then s.wake core e
  else
    let s := s.parkGroup (.frag core e) w.ctx f.pages f.pagesWr
    let g := (s.link.groups.find? fun g => g.client == .frag core e).bind fun g => g.index
    s.updFrag w fun f => { f with prgi := g.getD 0, grouped := g.isSome }

/-- Every fragment that came back in XLATE and has its entry sends its page requests again. -/
def State.resendAll (s : State) : State :=
  s.cores.foldl (fun s (n, c) => c.frags.foldl (fun s (e, f) => if f.st == .xlate then s.resend n e else s) s) s

/-- A saved wave as it comes back to a pipe. -/
def SavedWave.back (x : SavedWave) (pipe : Nat) : Wave :=
  { x.wave with pipe := pipe, owed := x.frags.map fun f => f.resumed x.wave.fuseTo, order := [], acq := [], idle := 0, retired := 0 }

/-- Brings one saved team back onto a core: the lookup of its first recorded name, storage with its full-empty bits (storage that posted
jobs have kept in place stays as it is), tiles and shapes, then waves with their fragments, then its attachments (R118, R159, R171, R189,
R311). -/
def State.resumeTeam (s : State) (t core : Nat) (members pipes : List Nat) : State :=
  let tm := s.team t
  let s := if tm.attach.isEmpty then s else s.dirOp
  let s := if tm.storage then s.updBoard tm.core fun b => { b with scr := b.scr + s.scrDemand tm } else s
  let s := { s with mem := tm.savedCells.foldl (fun m (a, b) => m.put a b) s.mem }
  let s := { s with mem := { s.mem with empties := tm.savedEmpties.foldl (fun e n => e.set n ()) s.mem.empties } }
  let s := { s with mem := { s.mem with poison := tm.savedPoison.foldl (fun e n => e.set n ()) s.mem.poison } }
  let s := s.updDie tm.imageDie fun d => { d with resume := d.resume.filter (· != t) }
  let s := s.dropMonitors t
  let s := s.updTeam t fun x =>
    { x with st := .resident, core := core, roles := s.roleTable core members, pipes := pipes, slots := [], storage := true,
             saved := [], savedCells := [], savedEmpties := [], savedPoison := [], image := 0, preempt := false, swapOut := false,
             reattach := tm.attach, attach := [], qEnded := [] }
  let ws := tm.saved.map fun (x : SavedWave) => x.back (pipes.getD x.wave.idx 0)
  reattachAll 8 t true ((s.putWaves t core ws).acquireDrop core 4 fun _ => true)

/-- A saved team that only scratchpad keeps out of a die has the agents evict a candidate there (R191). -/
def State.evictForResume (s : State) (t d : Nat) : State :=
  let tm := s.team t
  let x : Need := { desc := tm.resumeDesc, lanepriv := (s.launch tm.launch).lanepriv }
  s.evictFor x (s.spots tm.ctx x.desc d)

/-- Resumes a saved team, with its cluster, on a die; none without room. -/
def State.resume (s : State) (t d : Nat) : Option State :=
  let ms := s.savedMembers t
  (s.chooseResume t d).map fun (s, cores, pipes) =>
    ms.foldl (fun s (k, m) =>
      let i := if cores.length ≤ 1 then 0 else m.role
      s.resumeTeam k (cores.getD i 0) cores (pipes.getD i [])) s

/-- Puts a number into a list that an order sorts. -/
def insertBy (lt : Nat → Nat → Bool) (x : Nat) : List Nat → List Nat
  | [] => [x]
  | y :: t => if lt x y then x :: y :: t else y :: insertBy lt x t

/-- The resume tickets in the order in which agents of die d claim them: its own die's first; PRIO, dispatch order, then team
number (R111, R490). -/
def State.resumeOrder (s : State) (d : Nat) : List Nat :=
  let lt (a b : Nat) : Bool :=
    s.before (s.team a).launch (s.team b).launch || ((s.team a).launch == (s.team b).launch && (s.team a).number < (s.team b).number)
  let sorted (l : List Nat) : List Nat := l.foldl (fun acc x => insertBy lt x acc) []
  let ok (t : Nat) : Bool := s.claimable (s.team t).launch && s.usable (s.team t).ctx d
  sorted ((s.die d).resume.filter ok) ++
    sorted (((List.range 8).filter (· != d)).flatMap fun k => if (s.die k).fenced then [] else (s.die k).resume.filter ok)

/-! ## Claims (R111, R112, R288) -/

/-- The mesh tickets of a die that may be placed, the next of each entry, in their order. -/
def State.meshTickets (s : State) (d : Nat) : List LEntry := (s.die d).meshPending.filter fun e => e.left > 0 && s.claimable e.launch

/-- Places the first mesh ticket of a die that fits. -/
def State.claimMesh (s : State) (d : Nat) : Option State :=
  (s.meshTickets d).findSome? fun e => (s.place e.ticket d).map fun s =>
    s.updDie d fun x => { x with meshPending := ((takeTicket (· == e) x.meshPending).map Prod.snd).getD x.meshPending }

/-- The first resume ticket with room on a die. -/
def State.claimResume (s : State) (d : Nat) : Option State := (s.resumeOrder d).findSome? fun t => s.resume t d

/-- Mesh tickets and saved teams that find no room on a die have candidates evicted where only scratchpad lacks (R191). -/
def State.evictForWaiters (s : State) (d : Nat) : State :=
  (s.resumeOrder d).foldl (fun s t => s.evictForResume t d) ((s.meshTickets d).foldl (fun s e => s.evictForTicket e.ticket d) s)

/-- Room on a die is for a waiting seed, a mesh ticket or a saved team before it is for any other ticket (R288). -/
def State.roomTaken (s : State) (d : Nat) : Bool := s.seedFits d || (s.claimMesh d).isSome || (s.claimResume d).isSome

/-- What die d may claim. -/
def State.mayClaim (s : State) (d : Nat) : Bool :=
  !(s.die d).fenced && s.capacity d && !s.seedFits d && ((s.claimMesh d).isSome || (s.claimResume d).isSome || (s.claimNew d).isSome)

/-- A directory lookup for a placement with an AFFNAME (R114). -/
def State.lookup (s : State) (tk : Ticket) : State := if tk.desc.affname == 0 || tk.loose then s else s.dirOp

/-- TICKET_CLAIM (R111): an agent of a die with free capacity places a mesh ticket, a saved team, or claims a new ticket and
places it or puts it on the pending list. Input: unit the die. -/
def execTicketClaim (s : State) : Host.Outcome State Fault Refusal :=
  let d := s.inp.unit
  .next (if (s.die d).fenced || !s.capacity d || s.seedFits d then s
  else match s.claimMesh d with
    | some s => s
    | none =>
      match s.claimResume d with
      | some s => s
      | none =>
        let s := s.evictForWaiters d
        match s.claimNew d with
        | none => s
        | some (tk, s) =>
          let s := s.lookup tk
          match s.place tk d with
          | some s => s
          | none => (s.evictForTicket tk d).updDie d fun x => { x with pending := x.pending ++ [tk] })

/-- Retries pending tickets in claim order; those without room stay, and so do those of a context that may not use the die now (R89). -/
def retryPending (d : Nat) : List Ticket → State → List Ticket × State
  | [], s => ([], s)
  | tk :: t, s =>
    if s.claimable tk.launch then
      match (s.lookup tk).place tk d with
      | some s => retryPending d t s
      | none =>
        let s := (s.lookup tk).evictForTicket tk d
        let (r, s) := retryPending d t s
        (tk :: r, s)
    else
      let (r, s) := retryPending d t s
      (tk :: r, s)

/-- PENDING_RETRY (R112): the pending tickets of a die are tried again. Waiting seeds, mesh tickets and saved teams that the room can
hold come first (R111, R288). Input: unit the die. -/
def execPendingRetry (s : State) : Host.Outcome State Fault Refusal :=
  let d := s.inp.unit
  .next (if (s.die d).fenced || s.roomTaken d then s
  else
    let (left, s) := retryPending d (s.die d).pending s
    s.updDie d fun x => { x with pending := left })

/-- AFFINITY_TIMEOUT (R115): a pending team that R114 holds for a home core or rectangle without room, of a segment without attachments or
PIN, has waited 65,536 cycles: the segment is evicted if it is a candidate, and the team is placed as if AFFNAME were 0. Input: unit the
die, item the place on the pending list. -/
def execAffinityTimeout (s : State) : Host.Outcome State Fault Refusal :=
  let d := s.inp.unit
  .next (match (s.die d).pending[s.inp.item]? with
    | none => s
    | some tk =>
      let c := (s.launch tk.launch).ctx
      match s.segFind c tk.desc.affname with
      | none => s
      | some h =>
        let g := s.seg c h
        if tk.loose || (s.affSeg c tk.desc).isNone || g.level == 2 || g.homeDie != d || s.fitsOn tk d || g.pin || g.attach != 0 || g.busy ||
            g.dying || !s.claimable tk.launch || !s.usable c d then s
        else
          let s := if s.candidate c g then s.startEvict c h else s
          let tk : Ticket := { tk with loose := true }
          let rest := (s.die d).pending.eraseIdx s.inp.item
          match s.place tk d with
          | some s => s.updDie d fun x => { x with pending := rest }
          | none => s.updDie d fun x => { x with pending := (x.pending.take s.inp.item) ++ tk :: x.pending.drop (s.inp.item + 1) })

end Machine
end Sys2Proof
end

