-- ==== Sys2Proof/Machine/UniTeams.lean ====
section
/-! DEFINITION. Team descriptors (R102, R104), tickets of a new grid (R110), and the instructions ENQ and ENQG (R458). -/

namespace Sys2Proof
namespace Machine

/-- The descriptor of 64 bytes (Table 5.1). -/
def descOf (x : Nat) : Desc :=
  { entry := BitVec.ofNat 64 (bitsAt x 0 64), arg := BitVec.ofNat 64 (bitsAt x 64 64), affname := BitVec.ofNat 64 (bitsAt x 128 64),
    waves := bitsAt x 192 5, width := bitsAt x 197 3, vregs := bitsAt x 200 5, teamscr := bitsAt x 205 11, crows := bitsAt x 216 3,
    ccols := bitsAt x 219 4, cshare := bitsAt x 223 11, mtiles := bitsAt x 234 6, fuseTo := bitsAt x 240 16 }

/-- A field of a descriptor is within its range. -/
def Desc.ranges (d : Desc) : Bool :=
  d.entry.toNat % 4 == 0 && 1 ≤ d.waves && d.waves ≤ 16 && d.width ≤ 4 && 1 ≤ d.vregs && d.vregs ≤ 16 && d.teamscr ≤ 1536 &&
    1 ≤ d.crows && d.crows ≤ 4 && 1 ≤ d.ccols && d.ccols ≤ 10 && d.cshare ≤ 1536 && d.mtiles ≤ 32

/-- What an empty core offers covers the demand of one team (R104). -/
def Desc.holds (d : Desc) (lanepriv : Nat) : Bool :=
  d.scr lanepriv ≤ 1536 && (pipesFor (2 ^ d.width) (d.vregs * 2 ^ d.width) d.waves [768, 768, 768, 768] [4096, 4096, 4096, 4096]).isSome

/-- The checks of R104 on a descriptor and, for a grid, its number of teams. -/
def descOk (x lanepriv : Nat) (grid : Option Nat) : Bool :=
  let d := descOf x
  d.ranges && bitsAt x 256 256 == 0 && d.teams ≤ 12 && d.holds lanepriv &&
    match grid with
    | some n => n != 0 && n % d.teams == 0
    | none => true

/-- Adds an entry to a die's launch list. -/
def State.listOn (s : State) (d : Nat) (e : LEntry) : State := s.updDie d fun x => { x with list := x.list ++ [{ e with issuer := none }] }

/-- Hands out the tickets of a new entry (R110, R114): to the home die of an affinity that places them, else an ENQ's to its
issuer's die, else in shares to the usable dies; held where no die is usable. Where the home die itself is not usable, which R114 does not
provide for, the tickets are handed out under R110, and no die claims them while their segment stays there. DESIGN CHOICE, log entry 25. -/
def State.giveTickets (s : State) (e : LEntry) : State :=
  let c := (s.launch e.launch).ctx
  let ds := s.usableDies c
  let home := ((s.affSeg c e.desc).map fun g => g.homeDie).filter (s.usable c)
  match home with
  | some d => s.listOn d e
  | none =>
    match ds with
    | [] => s.updWoad fun w => { w with held := w.held ++ [e] }
    | d0 :: _ =>
      match e.issuer with
      | some d => s.listOn (if ds.contains d then d else d0) e
      | none =>
        let n := ds.length
        let t := e.bound
        ds.zipIdx.foldl (fun s (d, k) =>
          let lo := t * k / n
          let hi := t * (k + 1) / n
          if lo < hi then s.listOn d { e with next := lo, bound := hi } else s) s

/-- Held tickets of a context go out once a die is usable (R110). -/
def State.releaseHeld (s : State) (c : Nat) : State :=
  if (s.usableDies c).isEmpty then s
  else
    let mine := s.woad.held.filter fun e => (s.launch e.launch).ctx == c
    mine.foldl (fun s e => s.giveTickets e) (s.updWoad fun w => { w with held := w.held.filter fun e => (s.launch e.launch).ctx != c })

/-- The steps of R458 that follow the descriptor's checks: the release at the system scope, which waits in SYNCWAIT for what it covers at
peers, then the counter and the tickets. `img` is the descriptor, `fr` the fragment as it came to the instruction. -/
def State.makeTeams (s : State) (w : Who) (fr : Frag) (cap : Capture) (img : Nat) (grid : Option Nat) : Flow :=
  if s.mustWait w cap then
    (if fr.st == .syncwait then .hold s else .wait s { kind := .post, cap := cap, gran := [(0, img)] })
  else
    let d := descOf img
    let n := grid.getD d.teams
    let s := s.drain w cap
    let l := s.launch w.launch
    if l.counter + n > 2 ^ 48 - 1 then .trap s { code := 10, cause := 1, lanes := fr.mask }
    else
      let s := (s.addCount w.launch n).updLaunch w.launch fun l => { l with grids := l.grids + 1 }
      let s := if d.affname == 0 then s else s.dirOp
      .done (s.giveTickets { launch := w.launch, grid := l.grids, desc := d, kind := .team, next := 0, bound := n / d.teams,
                             issuer := if grid.isNone then some w.die else none })

/-- ENQ and ENQG: the descriptor is read with an acquire and checked, the earlier writes are released, the counter rises, and
the tickets are made (R458). -/
def State.enqueue (s : State) (w : Who) (a : Addr) (grid : Option Nat) : Flow :=
  let fr := s.frag w
  let cap := s.captured w 4
  let bad : Trap := { code := 1, cause := 6, lanes := fr.mask, addr := a }
  if fr.st == .syncwait then s.makeTeams w fr fr.wait.cap ((fr.wait.gran.get? 0).getD 0) grid
  else if a.toNat % 64 != 0 || grid == some 0 then .trap s bad
  else
    let h : How := { uni := true, pol := 2, order := 1, cap := cap }
    let rs := s.sortAccs w h [{ lane := 0, addr := a, n := 64 }]
    let g := s.gatherPlaced w (fun _ => h) false rs
    if (g.rest ||| g.x.any) != 0 then g.x.finish g.rest g.s false (some fr.mask) fun _ => a
    else
      let s := g.s.acquireAll w h (readOf rs g.bytes)
      let img := valAt g.bytes 0 0
      if !descOk img (s.launch w.launch).lanepriv grid then .trap s bad else s.makeTeams w fr cap img grid

/-- ENQ. -/
def execEnq (f : UForm) (s : State) :=
  uniOp (.enq f) f { a := true } (fun _ s w => s.enqueue w ((s.regs w).g64 f.ga.toNat) none) s
/-- ENQG. -/
def execEnqg (f : UForm) (s : State) :=
  uniOp (.enqg f) f { a := true, b := true } (fun _ s w =>
    s.enqueue w ((s.regs w).g64 f.ga.toNat) (some ((s.regs w).greg f.gb.toNat).toNat)) s

end Machine
end Sys2Proof
end

