-- ==== Sys2Proof/Machine/Indigo.lean ====
section
/-! DEFINITION. The Indigo engines: queries, their stacks and spill buffers, traversal, results and spawned waves (R259 to R284),
and the instructions RAYQ and RAYWT (R476, R477). -/

namespace Sys2Proof
namespace Machine

/-- The engine of a quartet acting for a query. -/
def queryEng (qn slot : Nat) (q : Query) : Eng :=
  { die := qn / 10, ctx := q.ctx, team := q.team, client := .query qn slot, level := q.cap.engLevel, launch := some q.launch, held := q.held }

/-- Writes the query of a slot. -/
def State.setQuery (s : State) (qn slot : Nat) (q : Query) : State := s.updQuartet qn fun x => { x with slots := x.slots.set slot q }

/-- What a piece of a query's work comes to. -/
inductive QOut where
  | ok (s : State) (q : Query)
  | wait (s : State)
  | fault (s : State) (pages : List Nat) (wr : Bool) (a : Addr)
  /-- the query ends with a status and an address; what it holds so far stands -/
  | stop (s : State) (q : Query) (status : Nat) (addr : Addr)

/-- Status of an access that ends in ACCESS: a window that fails its check gives BADQUERY, any other FAULT (R260, R283). -/
def accessStatus (a : Addr) : Nat := if isWindow a then 3 else 5

/-- A read for a query; `bad` is the address reported for poisoned data. -/
def qRead (s : State) (e : Eng) (q : Query) (a : Addr) (n : Nat) (bad : Addr) (k : State → Nat → QOut) : QOut :=
  match s.engRead e a n with
  | .miss s => .wait s
  | .fault s ps b => if q.rounds ≥ 16 then .stop s q (accessStatus b) b else .fault s ps false b
  | .access s b => .stop s q (accessStatus b) (if isWindow b then 0 else b)
  | .ok s bs => if anyBad bs then .stop s q 6 bad else k s (engNat bs)

/-! ## Starting a query (R259, R260, R266, R277) -/

/-- The spawn descriptor of 32 bytes as a team descriptor, none where it is ill-formed (R277). -/
def spawnOf (x lanepriv : Nat) : Option Desc :=
  let d : Desc := { entry := BitVec.ofNat 64 (bitsAt x 0 64), arg := BitVec.ofNat 64 (bitsAt x 64 64), width := bitsAt x 128 3,
                    vregs := bitsAt x 131 5, fuseTo := bitsAt x 136 16 }
  if d.ranges && bitsAt x 152 104 == 0 && d.holds lanepriv then some d else none

/-- Bytes of the result area of a record. -/
def QRec.bytes (r : QRec) : Nat := 32 + 32 * r.rays * r.slots

/-- An address range of a query fails R166 against the posting team. -/
def State.badQueryWin (s : State) (q : Query) (a : Addr) (n : Nat) : Bool := isWindow a && (s.winLoc q.team none a n q.held).isNone

/-- Reads a query's record and descriptor and checks them; BADQUERY reads nothing beyond them. -/
def State.openQuery (s : State) (qn slot : Nat) (q : Query) : QOut :=
  let e := queryEng qn slot q
  let noOut : Bool := q.result.toNat % 32 != 0 || s.badQueryWin q q.result 32
  let bad (s : State) (q : Query) : QOut := .stop s { q with slotsToo := false, summary := !noOut } 3 0
  if q.recA.toNat % 64 != 0 || s.badQueryWin q q.recA 64 then bad s q
  else
    match qRead s e q q.recA 64 q.recA (fun s x => .ok s { q with recBytes := natBytes 64 x }) with
    | .stop s q 6 a => .stop s { q with slotsToo := false, summary := !noOut } 6 a
    | .stop s q _ _ => bad s q
    | .ok s q =>
      let spawn : QOut :=
        if q.spawn == 0 then .ok s q
        else if q.spawn.toNat % 32 != 0 || s.badQueryWin q q.spawn 32 then bad s q
        else qRead s e q q.spawn 32 q.spawn fun s x => .ok s { q with spawnBytes := natBytes 32 x }
      match spawn with
      | .stop s q 6 a => .stop s { q with slotsToo := false, summary := !noOut } 6 a
      | .stop s q _ _ => bad s q
      | .ok s q =>
        match qrecOf (leNat q.recBytes) with
        | none => bad s q
        | some r =>
          if noOut || s.badQueryWin q q.result r.bytes ||
              (q.spawn != 0 && (spawnOf (leNat q.spawnBytes) (s.launch q.launch).lanepriv).isNone) then
            .stop s { q with slotsToo := false, summary := !noOut && !s.badQueryWin q q.result r.bytes } 3 0
          else
            .ok s { q with started := true,
                           stack := [{ test := false, node := r.root, k := 0, x0 := 0, y0 := 0, wl := r.gxl, hl := r.gyl }] }
      | o => o
    | o => o

/-- A parked query waits for its page response (R62). -/
def State.parkQuery (s : State) (qn slot : Nat) (q : Query) (pages : List Nat) (wr : Bool) : State :=
  (s.setQuery qn slot { q with parked := true }).parkGroup (.query qn slot) q.ctx pages wr q.launch

/-- Puts the outcome of a query's work into its slot. `q0` is the query as it was. Under BADQUERY the summary alone is written (R276). -/
def QOut.apply (o : QOut) (qn slot : Nat) (q0 : Query) : State :=
  let done (s : State) (q : Query) : State := (s.fabForget (.query qn slot)).setQuery qn slot { q with rounds := 0 }
  match o with
  | .ok s q => done s q
  | .wait s => s
  | .fault s ps wr _ => s.parkQuery qn slot q0 ps wr
  | .stop s q st a => done s { q with ending := true, status := st, addr := a, stack := [], slotsToo := q.slotsToo && st != 3 }

/-- The next query to start: highest PRIO, then posted first (R259). -/
def State.nextQuery (s : State) (qn : Nat) : Option Query :=
  bestBy (fun a b => (s.ctx b.ctx).prio.toNat < (s.ctx a.ctx).prio.toNat || ((s.ctx b.ctx).prio == (s.ctx a.ctx).prio && a.id < b.id))
    (s.quartet qn).queue

/-- QUERY_START (R259): the queued query of highest priority takes a free slot, and its record and descriptor are read. Input:
unit the quartet, item the slot. -/
def execQueryStart (s : State) : Host.Outcome State Fault Refusal :=
  let qn := s.inp.unit
  let slot := s.inp.item
  let x := s.quartet qn
  .next (match x.slots.get? slot with
    | some q => if !q.started && !q.ending && !q.parked then (s.openQuery qn slot q).apply qn slot q else s
    | none =>
      if slot < 8 && !x.iRetired then
        match s.nextQuery qn with
        | none => s
        | some q =>
          let c := s.ctx q.ctx
          let q : Query := { q with spillBase := c.spillBase ++ (0 : BitVec 12), spillPages := c.spillPages.toNat }
          let s := (s.updQuartet qn fun x => { x with queue := x.queue.filter fun y => y.id != q.id }).setQuery qn slot q
          (s.openQuery qn slot q).apply qn slot q
      else s)

/-! ## Stack and spill (R274) -/

/-- The 16 bytes of a record. -/
def TravRec.bytes (r : TravRec) : List Byte :=
  natBytes 16 (r.node.toNat / 128 + (if r.test then 2 ^ 57 else 0) + r.k % 8 * 2 ^ 58 + r.x0 % 16 * 2 ^ 61 + r.y0 % 16 * 2 ^ 65 +
    r.wl % 8 * 2 ^ 69 + r.hl % 8 * 2 ^ 72)

/-- The record of 16 bytes. -/
def travOf (x : Nat) : TravRec :=
  { node := BitVec.ofNat 64 (bitsAt x 0 57 * 128), test := bitsAt x 57 1 == 1, k := bitsAt x 58 3, x0 := bitsAt x 61 4, y0 := bitsAt x 65 4,
    wl := bitsAt x 69 3, hl := bitsAt x 72 3 }

/-- Address of spilled block n of a query. -/
def Query.blockAt (q : Query) (n : Nat) : Addr := q.spillBase + BitVec.ofNat 64 (q.pages.getD (n / 16) 0 * 4096 + n % 16 * 256)

/-- The spill pages of an area that the queries of a context hold: the free map of the I/O die. -/
def State.spillUsed (s : State) (c : Nat) (base : Addr) : List Nat :=
  s.quartets.flatMap fun (_, x) => (x.slots.vals.filter fun q => q.ctx == c && q.spillBase == base).flatMap fun q => q.pages

/-- A query takes a spill page, none where there is none to take. -/
def State.takePage (s : State) (q : Query) : Option Query :=
  if q.pages.length ≥ 4 then none
  else
    ((List.range q.spillPages).find? fun n => !(q.pages.contains n) && !(s.spillUsed q.ctx q.spillBase).contains n).map fun n =>
      { q with pages := q.pages ++ [n] }

/-- Pushes a record; a full stack writes its 16 oldest records first. -/
def qPush (s : State) (e : Eng) (q : Query) (r : TravRec) : QOut :=
  if q.stack.length < 32 then .ok s { q with stack := r :: q.stack }
  else
    match (if q.blocks / 16 < q.pages.length then some q else s.takePage q) with
    | none => .stop s q 1 0
    | some q =>
      let bs := ((q.stack.drop 16).reverse).flatMap TravRec.bytes
      match s.engWrite e (q.blockAt q.blocks) (bs.map fun b => (b, false)) with
      | .miss s => .wait s
      | .fault s ps b => if q.rounds ≥ 16 then .stop s q 5 b else .fault s ps true b
      | .access s b => .stop s q (accessStatus b) (if isWindow b then 0 else b)
      | .ok s _ => .ok s { q with stack := r :: q.stack.take 16, blocks := q.blocks + 1, spills := q.spills + 1 }

/-- Pushes records in order; `n` is what each adds to SPLITS (R272). -/
def qPushAll (e : Eng) (n : Nat) : List TravRec → State → Query → QOut
  | [], s, q => .ok s q
  | r :: t, s, q =>
    match qPush s e q r with
    | .ok s q => qPushAll e n t s { q with splits := q.splits + n }
    | o => o

/-- Pops a record: an empty stack reads back the block written last. -/
def qPop (s : State) (e : Eng) (q : Query) (k : State → Query → Option TravRec → QOut) : QOut :=
  match q.stack with
  | r :: t => k s { q with stack := t } (some r)
  | [] =>
    if q.blocks == 0 then k s q none
    else
      let a := q.blockAt (q.blocks - 1)
      qRead s e q a 256 a fun s x =>
        let rs := (List.range 16).map fun i => travOf (bitsAt x (128 * i) 128)
        match rs.reverse with
        | r :: t => k s { q with stack := t, blocks := q.blocks - 1 } (some r)
        | [] => k s q none

/-! ## Traversal (R271 to R273) -/

/-- Rays of a beam, row-major. -/
def TravRec.rays (r : TravRec) : List (Nat × Nat) :=
  (List.range (2 ^ r.hl)).flatMap fun j => (List.range (2 ^ r.wl)).map fun i => (r.x0 + i, r.y0 + j)

/-- Index of a ray (R267). -/
def QRec.rho (q : QRec) (x y : Nat) : Nat := y * 2 ^ q.gxl + x

/-- A ray is in the done set. -/
def Query.isDone (q : Query) (r : QRec) (x y : Nat) : Bool := r.mode == 1 && (q.hits.get? (r.rho x y)).isSome

/-- Orders hits by t and then by PRIM. -/
def Hit.lt (a b : Hit) : Bool :=
  let x : Frac := { n := a.tnum, d := a.tden }
  let y : Frac := { n := b.tnum, d := b.tden }
  x.lt y || (!(y.lt x) && a.prim.toNat < b.prim.toNat)
/-- The same t and PRIM. -/
def Hit.same (a b : Hit) : Bool := !(a.lt b) && !(b.lt a)

/-- Adds a hit to a ray's (R269). -/
def addHit (mode : Nat) (l : List Hit) (h : Hit) : List Hit :=
  match mode with
  | 0 => match l with
    | [] => [h]
    | g :: _ => if h.lt g then [h] else l
  | 1 => if l.isEmpty then [h] else l
  | _ => if l.any h.same then l else l ++ [h]

/-- Tests the triangles of a leaf against one ray, in record order, from triangle i on. -/
def leafRay (e : Eng) (r : QRec) (rho : Nat) (dir : V3) (leaf : Addr) : Nat → Nat → State → Query → QOut
  | 0, _, s, q => .ok s q
  | n + 1, i, s, q =>
    let a := leaf + BitVec.ofNat 64 (48 * i)
    if r.mode == 1 && (q.hits.get? rho).isSome then .ok s q
    else
      qRead s e q a 48 a fun s x =>
        let q := match triOf x with
          | none => q
          | some (v0, v1, v2, prim) =>
            match hitsTri r dir v0 v1 v2 with
            | none => q
            | some (t, u, v) =>
              let h : Hit := { tnum := t.n.toNat, tden := t.d, t := t.fp, prim := prim, u := u.fp, v := v.fp, tri := a }
              { q with hits := q.hits.set rho (addHit r.mode (q.hits.getD rho []) h) }
        leafRay e r rho dir leaf n (i + 1) s q

/-- Tests a leaf for the rays of a beam that meet the child's box. -/
def leafRays (e : Eng) (r : QRec) (nd : Node) (c : Child) : List (Nat × Nat) → State → Query → QOut
  | [], s, q => .ok s q
  | (x, y) :: t, s, q =>
    if q.isDone r x y || !meetsBox r (r.dir x y) nd c then leafRays e r nd c t s q
    else
      match leafRay e r (r.rho x y) (r.dir x y) c.ref (c.count + 1) 0 s q with
      | .ok s q => leafRays e r nd c t s q
      | o => o

/-- Reads a node; an ill-formed one ends the query (R263). -/
def readNode (s : State) (e : Eng) (q : Query) (a : Addr) (k : State → Node → QOut) : QOut :=
  qRead s e q a 128 a fun s x =>
    match nodeOf x with
    | some nd => k s nd
    | none => .stop s q 4 a

/-- Processes one record. -/
def State.runRecord (s : State) (e : Eng) (r : QRec) (q : Query) (t : TravRec) : QOut :=
  if t.rays.all fun (x, y) => q.isDone r x y then .ok s q
  else if !t.test then
    if q.enters ≥ 65536 then .stop s q 7 0
    else
      readNode s e q t.node fun s nd =>
        qPushAll e 0 (((List.range nd.kids.length).reverse).map fun k => { t with test := true, k := k }) s { q with enters := q.enters + 1 }
  else
    readNode s e q t.node fun s nd =>
      match nd.kids[t.k]? with
      | none => .ok s q
      | some c =>
        match beamTest r t.x0 t.y0 (2 ^ t.wl) (2 ^ t.hl) nd c with
        | .miss => .ok s q
        | b =>
          if c.kind == 2 then leafRays e r nd c t.rays s q
          else if b == .contains then qPush s e q { t with test := false, node := c.ref, k := 0 }
          else
            let qs := quadrants t.x0 t.y0 t.wl t.hl
            if q.splits + qs.length > 1024 then .stop s q 2 0
            else
              qPushAll e 1 (qs.reverse.map fun (x, y, w, h) => { t with x0 := x, y0 := y, wl := w, hl := h }) s q

/-! ## Results (R275, R276) -/

/-- Hits in order of t and PRIM. -/
def insertHit (h : Hit) : List Hit → List Hit
  | [] => [h]
  | g :: t => if h.lt g then h :: g :: t else g :: insertHit h t
/-- A ray's hits, sorted. -/
def Query.sorted (q : Query) (rho : Nat) : List Hit := (q.hits.getD rho []).foldl (fun l h => insertHit h l) []

/-- The hit record of slot s of ray ρ (Table 10.5). -/
def hitRecord (mode rho found slot : Nat) (h : Option Hit) : Nat :=
  let tail := (if mode == 2 && slot == 0 then min found 255 else 0) * 2 ^ 200 + rho * 2 ^ 208
  match h with
  | some h => h.t.toNat + h.prim.toNat * 2 ^ 32 + h.u.toNat * 2 ^ 64 + h.v.toNat * 2 ^ 96 + h.tri.toNat * 2 ^ 128 + 2 ^ 192 + tail
  | none => 0x7F800000 + 0xFFFFFFFF * 2 ^ 32 + tail

/-- The slots of every ray: index and record. -/
def Query.records (q : Query) (r : QRec) : List (List (Option Hit × Nat)) :=
  (List.range r.rays).map fun rho =>
    let hs := q.sorted rho
    (List.range r.slots).map fun k => (hs[k]?, hitRecord r.mode rho hs.length k hs[k]?)

/-- Hit records written with KIND 1. -/
def hitCount (rs : List (List (Option Hit × Nat))) : Nat := (rs.map fun l => (l.filter fun x => x.1.isSome).length).sum

/-! ## Spawned work (R278 to R280) -/

/-- Primitive numbers in rising order, each once. -/
def primsOf (l : List (Hit × Nat)) : List Nat := (sortNat (l.map fun x => x.1.prim.toNat)).eraseDups

/-- The quads of a grid: of each, the four lanes' hit records, none for an exited lane. -/
def quadsOf (r : QRec) (rs : List (List (Option Hit × Nat))) : List (List (Option Nat)) :=
  let bw := min 2 (2 ^ r.gxl)
  let bh := min 2 (2 ^ r.gyl)
  (List.range (2 ^ r.gyl / bh)).flatMap fun by_ => (List.range (2 ^ r.gxl / bw)).flatMap fun bx =>
    let ray (dx dy : Nat) : List (Hit × Nat) :=
      if dx < bw && dy < bh then
        (rs.getD (r.rho (bx * bw + dx) (by_ * bh + dy)) []).filterMap fun (h, x) => h.map fun h => (h, x)
      else []
    let lanes := [ray 0 0, ray 1 0, ray 0 1, ray 1 1]
    (primsOf (lanes.flatMap id)).map fun p => lanes.map fun l => (l.find? fun x => x.1.prim.toNat == p).map Prod.snd

/-- The lanes and registers of a spawned wave from its quads. -/
def spawnLanes (qs : List (List (Option Nat))) : Mask × Tbl Word :=
  (qs.flatMap id).zipIdx.foldl (fun (m, v) (x, l) =>
    match x with
    | none => (m, v)
    | some w => (m ||| laneBit l, (List.range 8).foldl (fun v i => Tbl.set v (i * 64 + l) (BitVec.ofNat 32 (w / 2 ^ (32 * i)))) v))
    ((0 : Mask), ([] : Tbl Word))

/-- Hands over the tickets of a query's waves. -/
def State.spawn (s : State) (qn : Nat) (q : Query) (d : Desc) (quads : List (List (Option Nat))) : State :=
  let n := 2 ^ d.width
  let ws := chunksOf n quads.length quads
  let grid := (s.launch q.launch).grids
  let s := (s.addCount q.launch ws.length).updLaunch q.launch fun l => { l with grids := l.grids + 1 }
  ws.zipIdx.foldl (fun s (qs, k) =>
    let (m, v) := spawnLanes qs
    s.listOn (qn / 10) { launch := q.launch, grid := grid, desc := d, kind := .query (k * n) q.result m v, next := k, bound := k + 1 }) s

/-! ## The end of a query (R276, R281) -/

/-- DONE of a team's queries: those completed together with every earlier one. -/
def State.qDoneOf (s : State) (t : Nat) : Nat :=
  let open_ := s.quartets.flatMap fun (_, x) => ((x.queue ++ x.slots.vals).filter fun q => q.team == t).map fun q => q.number
  match open_ with
  | [] => (s.team t).qPosted
  | n :: r => r.foldl min n - 1

/-- A query leaves its engine: its spill pages are free, its status is kept for RAYWT, and the counter falls by 1. -/
def State.closeQuery (s : State) (qn : Nat) (q : Query) (status : Nat) : State :=
  let s := s.updQuartet qn fun x => { x with slots := x.slots.filter (fun (_, y) => y.id != q.id), queue := x.queue.filter fun y => y.id != q.id }
  let s := s.updTeam q.team fun t => { t with qDone := s.qDoneOf q.team, qEnded := ((q.number, status) :: t.qEnded).take 64 }
  (s.unowe q.team).subCount q.launch 1

/-- What a query ends with besides its status: the hit records of its slots, the team of its waves with their quads, and the summary. -/
def State.queryEnd (s : State) (q : Query) : List Byte × Option Desc × List (List (Option Nat)) × Nat :=
  let r := (qrecOf (leNat q.recBytes)).getD default
  let rs := if q.slotsToo then q.records r else []
  let spawns := if q.status == 0 && q.spawn != 0 && q.slotsToo then spawnOf (leNat q.spawnBytes) (s.launch q.launch).lanepriv else none
  let all := if spawns.isSome then quadsOf r rs else []
  let quads := all.take 4096
  let sum := q.status + (if all.length > 4096 then 256 else 0) + q.splits * 65536 + hitCount rs * 2 ^ 32 + quads.length * 2 ^ 64 +
    q.spills * 2 ^ 96 + (if q.status == 4 || q.status == 5 || q.status == 6 then q.addr.toNat * 2 ^ 128 else 0)
  (rs.flatMap fun l => l.flatMap fun x => natBytes 32 x.2, spawns, quads, sum)

/-- Writes a part of what a query ends with, once (`n` of `wrote`); ACCESS on it, or its 16th round, is `denied` (R64, R276, R283). -/
def State.queryWrite (s : State) (qn slot : Nat) (q : Query) (n : Nat) (due : Bool) (a : Addr) (bs : List Byte) (denied : State → Addr → State)
    (k : State → Query → State) : State :=
  if !due || n ≤ q.wrote then k s q
  else
    match s.engWrite (queryEng qn slot q) a (bs.map fun b => (b, false)) with
    | .miss s => s
    | .fault s ps b => if q.rounds ≥ 16 then denied s b else s.parkQuery qn slot q ps true
    | .access s b => denied s b
    | .ok s _ => let q : Query := { q with wrote := n, rounds := 0 }; k (s.setQuery qn slot q) q

/-- Writes what a query ends with: its slots, its summary, and for OK its spawned waves; then it completes, as a release of its result area
by a party on the quartet's die (R276, R281). ACCESS on a slot gives FAULT in the summary; on the summary, FAULT alone. -/
def State.endQuery (s : State) (qn slot : Nat) (q : Query) : State :=
  let (slots, _) := s.queryEnd q
  s.queryWrite qn slot q 1 q.slotsToo (q.result + 32) slots
    (fun s b => s.setQuery qn slot { q with status := 5, addr := b, slotsToo := false, rounds := 0 }) fun s q =>
      let (slots, spawns, quads, sum) := s.queryEnd q
      s.queryWrite qn slot q 2 q.summary q.result (natBytes 32 sum) (fun s _ => s.closeQuery qn q 5) fun s q =>
        if q.cap.set.hostfab && s.fabBusy q.ctx then s
        else
          let s := if q.summary then
              s.dieRelease (queryEng qn slot q) q.cap.set q.result [(q.result, 32 + slots.length)]
            else s
          let s := match spawns with
            | some d => s.spawn qn q d quads
            | none => s
          (s.fabForget (.query qn slot)).closeQuery qn q q.status

/-- QUERY_RECORD (R271): a query pops and processes one record; an empty stack ends it, and an ending query writes its
results. A query of a context that is torn down stops at the end of its record (R96). Input: unit the quartet, item the slot. -/
def execQueryRecord (s : State) : Host.Outcome State Fault Refusal :=
  let qn := s.inp.unit
  let slot := s.inp.item
  .next (match (s.quartet qn).slots.get? slot with
    | none => s
    | some q =>
      if q.parked then s
      else if q.ending then s.endQuery qn slot q
      else if !q.started then s
      else
        match qrecOf (leNat q.recBytes) with
        | none => s
        | some r =>
          let e := queryEng qn slot q
          let out := qPop s e q fun s q t =>
            match t with
            | none => .stop s q 0 0
            | some t => s.runRecord e r q t
          match s.tearing q.ctx, out with
          | true, .ok s q | true, .fault s _ _ _ | true, .stop s q _ _ => s.closeQuery qn q 5
          | _, out => out.apply qn slot q)

/-! ## RAYQ and RAYWT (R476, R477) -/

/-- The quartet whose Indigo engine role 29 was bound to as the instruction issued (R117, R118). -/
def State.rayRole (s : State) (w : Who) : Option Nat := (s.unitOf w .post 29).map fun n => s.liveIndigo (n - 0x5000)

/-- RAYQ: gd := the new POSTED. -/
def execRayq (f : UForm) (s : State) :=
  let e0 := (Instr.rayq f).extU f
  uniOp (.rayq f) f { a := true, b := true, c := e0.mod.getLsbD 0 } (fun e s w =>
    let fr := s.frag w
    let cap := s.jobCap w e.byte
    match (if fr.again then none else s.postStale w cap) with
    | some fl => fl
    | none =>
      match s.rayRole w with
      | none => .trap s { code := 5, lanes := fr.mask }
      | some qn =>
        let was := s
        let wv := s.regs w
        s.posting w cap (unit := 0x5000 + qn) fun s cap =>
          if (s.quartet qn).queue.length ≥ 64 then .hold was
          else
            let (id, s) := s.fresh
            let n := (s.team w.team).qPosted + 1
            let q : Query := { id := id, team := w.team, launch := w.launch, ctx := w.ctx, recA := wv.g64 f.ga.toNat,
                               result := wv.g64 f.gb.toNat, spawn := if e.mod.getLsbD 0 then wv.g64 e.src3.toNat else 0, cap := cap,
                               number := n, held := s.heldBy w.team }
            let s := (s.updQuartet qn fun x => { x with queue := x.queue ++ [q] }).updTeam w.team fun t =>
              { t with qPosted := n, owed := t.owed + 1 }
            .done ((s.addCount w.launch 1).updWave w fun wv => wv.setG f.gd.toNat (BitVec.ofNat 32 n))) s

/-- The status that RAYWT reports for query n (R477). -/
def Team.qStatus (t : Team) (n : Word) : Word :=
  match t.qEnded.find? fun (k, _) => BitVec.ofNat 32 k == n with
  | some (_, st) => BitVec.ofNat 32 st
  | none => 0xFF

/-- RAYWT: waits for a count and reads its status; a result that it need not wait for is one of variable latency (R147). -/
def execRaywt (f : UForm) (s : State) :=
  uniOp (.raywt f) f { a := true } (fun e s w =>
    let fr := s.frag w
    let waiting := fr.st == .syncwait && fr.wait.kind == .ray
    let cap := if waiting then fr.wait.cap else s.scopeCap w e.byte
    match (if waiting then none else s.postStale w cap) with
    | some fl => fl
    | none =>
      match s.rayRole w with
      | none => .trap s { code := 5, lanes := fr.mask }
      | some _ =>
        let n := if waiting then BitVec.ofNat 32 fr.wait.n else (s.wave w).greg f.ga.toNat
        let got := reached (BitVec.ofNat 32 (s.team w.team).qDone) n
        let nw := e.mod.getLsbD 2
        let gd := f.gd.toNat
        if nw then
          if got then .done ((s.waitAcquire w cap).laterG w [(gd, (s.team w.team).qStatus n)])
          else .done (s.laterG w [(gd, 0xFFFFFFFE)])
        else if got then .done ((s.waitAcquire w cap).giveG w waiting gd ((s.team w.team).qStatus n))
        else if waiting then .hold s else .wait s { kind := .ray, n := n.toNat, cap := cap }) s

end Machine
end Sys2Proof
end

