-- ==== Sys2Proof/Machine/MatrixOps.lean ====
section
/-! DEFINITION. The matrix engine: the checks of a request, its array operations and tile moves, halts, grants and completions
(R245 to R258, R347, R466, R468, R469, R492, R493). -/

namespace Sys2Proof
namespace Machine

/-! ## Checks at post (R248, R249, R253, R466) -/

/-- Shape of a tile when the request was posted. -/
def MReq.shape (r : MReq) (n : Nat) : Shape := shapeOf (r.shapes.getD n 0)

/-- Row of Table 9.6 of a format: a row number, kd, and the accumulator's format. -/
def mmaRow (page1 : Bool) (c : Nat) : Option (Nat × Nat × Nat) :=
  if page1 then (if page1Ok c then some (1, 8, 11) else none)
  else match c with
    | 16 | 17 | 18 | 19 => some (2, 8, 11)
    | 20 => some (3, 16, 11)
    | 21 => some (4, 8, 11)
    | 0 | 4 => some (5, 8, 2)
    | 12 | 13 => some (6, 4, 11)
    | _ => none

/-- A shape is reserved in its page, or too large. -/
def shapeCodes (z : Shape) (page1 : Bool) : List Nat :=
  (if elemBits page1 z.fmt == 0 then [13] else []) ++ (if z.fits page1 then [] else [12])

/-- Checks of the scale tile of an MX tile whose blocks run along an axis of `m` rows and `n` columns (R249, R253). -/
def MReq.scaleCodes (r : MReq) (mtiles : Nat) (z : Shape) (m n : Nat) (blkax : Option Bool) : List Nat :=
  if !z.scv || z.sct ≥ mtiles || (blkax.isSome && blkax != some z.blkax) then [12]
  else
    let c := r.shape z.sct
    let ext := if z.blkax then m else n
    let want := if z.blkax then (m / 32, n) else (m, n / 32)
    (if ext % 32 != 0 || (c.rows, c.cols) != want || !c.fits false then [12] else []) ++ (if c.fmt == 14 then [] else [13])

/-- The scale tiles of a list of tiles with their pages. -/
def MReq.scales (r : MReq) (ts : List (Nat × Bool)) : List Nat :=
  ts.filterMap fun (n, p) => let z := r.shape n; if z.isMx p && z.scv then some z.sct else none

/-- A list names a tile twice. -/
def repeats (l : List Nat) : Bool := l.eraseDups.length != l.length

/-- Checks of MMA and MMAS. -/
def MReq.checkMma (r : MReq) (mtiles : Nat) : List Nat :=
  let sp := r.op == .mmas
  let a := r.shape r.a
  let b := r.shape r.b
  let c := r.shape r.d
  let sm := r.shape r.sTile
  let k := if sp then 2 * a.cols else a.cols
  let ra := mmaRow r.page1 a.fmt
  let rb := mmaRow r.page1 b.fmt
  let same := (ra.map Prod.fst) == (rb.map Prod.fst) && ra.isSome
  let tiles := [r.d, r.a, r.b] ++ (if sp then [r.sTile] else []) ++ r.scales [(r.a, r.page1), (r.b, r.page1)]
  shapeCodes a r.page1 ++ shapeCodes b r.page1 ++ shapeCodes c false ++ (if sp then shapeCodes sm false else []) ++
    (if a.rows > 128 || b.cols > 128 || b.rows != k || (c.rows, c.cols) != (a.rows, b.cols) || repeats tiles then [12] else []) ++
    (if sp && (k % 8 != 0 || (sm.rows, sm.cols) != (a.rows, k / 8)) then [12] else []) ++
    (if sp && sm.fmt != 4 then [13] else []) ++
    (if !same || c.fmt != (ra.map fun x => x.2.2).getD 0 then [13] else []) ++
    (if a.isMx r.page1 then r.scaleCodes mtiles a a.rows k (some false) else []) ++
    (if b.isMx r.page1 then r.scaleCodes mtiles b k b.cols (some true) else [])

/-- Checks of MLUT. -/
def MReq.checkMlut (r : MReq) : List Nat :=
  let a := r.shape r.a
  let b := r.shape r.b
  let c := r.shape r.d
  shapeCodes a false ++ shapeCodes b false ++ shapeCodes c false ++
    (if b.rows != a.cols || (c.rows, c.cols) != (a.rows, b.cols) || a.cols % 4 != 0 || r.bits < 1 || r.bits > 4 || repeats [r.d, r.a, r.b]
      then [12] else []) ++
    (if (a.fmt == 8 || a.fmt == 9) && b.fmt == 0 && c.fmt == 2 then [] else [13])

/-- Formats that MCVT takes: fp32, bf16, fp16, binary8, MX elements. -/
def cvtTileFmt (page1 : Bool) (c : Nat) : Bool := if page1 then page1Ok c else c == 11 || c == 12 || c == 13 || mxFmts.contains c

/-- Checks of MCVT: source `a`, destination `d`. -/
def MReq.checkMcvt (r : MReq) (mtiles : Nat) : List Nat :=
  let a := r.shape r.a
  let d := r.shape r.d
  let tiles := [r.a, r.d] ++ r.scales [(r.a, r.page1), (r.d, r.page1d)]
  shapeCodes a r.page1 ++ shapeCodes d r.page1d ++
    (if (d.rows, d.cols) != (a.rows, a.cols) || repeats tiles then [12] else []) ++
    (if cvtTileFmt r.page1 a.fmt && cvtTileFmt r.page1d d.fmt then [] else [13]) ++
    (if a.isMx r.page1 then r.scaleCodes mtiles a a.rows a.cols none else []) ++
    (if d.isMx r.page1d then r.scaleCodes mtiles d d.rows d.cols none else [])

/-- Checks of MLD and MST (R254, R468). -/
def MReq.checkMove (r : MReq) : List Nat :=
  shapeCodes (r.shape r.d) r.page1 ++ (if r.addr.toNat % 16 != 0 || r.stride % 16 != 0 then [3] else [])

/-- Every condition a request meets at post, and the lowest code of Table 9.7 among them (R257). -/
def MReq.check (r : MReq) (mtiles : Nat) : Option Nat :=
  let cs := match r.op with
    | .mma | .mmas => r.checkMma mtiles
    | .mlut => r.checkMlut
    | .mcvt => r.checkMcvt mtiles
    | .mzero => []
    | .mld | .mst => r.checkMove
  match cs with
  | [] => none
  | c :: t => some (t.foldl min c)

/-- Array cycles of a command (Table 9.5). -/
def MReq.arrayCycles (r : MReq) : Nat :=
  let a := r.shape r.a
  let kd := ((mmaRow r.page1 a.fmt).map fun x => x.2.1).getD 1
  match r.op with
  | .mma | .mmas => ceilDiv a.cols kd
  | .mlut => ceilDiv (a.cols * r.bits) 64
  | .mcvt => ceilDiv (a.rows * a.cols) 2048
  | .mzero | .mld | .mst => 0

/-- The command runs on the tile port, not on the array unit (R246). -/
def MReq.onPort (r : MReq) : Bool := match r.op with | .mzero | .mld | .mst => true | _ => false

/-- A granted command writes the whole destination (R258). -/
def MReq.whole (r : MReq) : Bool := match r.op with
  | .mzero | .mld | .mcvt => true
  | .mst => false
  | .mma | .mmas | .mlut => !r.acc

/-! ## Passes (R250 to R253, R255) -/

/-- Element (i, j) of an operand, with the scale of its block at position `p` along the row, and its poison (R250, R327). -/
def State.operand (s : State) (r : MReq) (n : Nat) (page1 : Bool) (i j p : Nat) : Val × Bool :=
  let z := r.shape n
  let f := fmtOf page1 z.fmt
  let (code, bad) := s.tileElem r.team n z page1 i j
  if z.isMx page1 then
    let zs := r.shape z.sct
    let (sc, bs) := if z.blkax then s.tileElem r.team z.sct zs false (i / 32) p else s.tileElem r.team z.sct zs false i (p / 32)
    (mxElem f sc code, bad || bs)
  else (decodeCode f r.flush code, bad)

/-- The nibble of 2:4 metadata of row i and group q, with its poison (R251). -/
def State.metaNibble (s : State) (r : MReq) (i q : Nat) : Nat × Bool :=
  let (x, bad) := s.tileElem r.team r.sTile (r.shape r.sTile) false i (q / 2)
  (x / 16 ^ (q % 2) % 16, bad)

/-- The dense positions of row i of A with the stored column of each (R251), and the poison of the metadata read. -/
def State.densePos (s : State) (r : MReq) (i : Nat) : List (Nat × Nat) × Bool :=
  let cols := (r.shape r.a).cols
  if r.op == .mmas then
    let ns := (List.range (cols / 2)).map fun q => s.metaNibble r i q
    ((ns.zipIdx).flatMap fun ((x, _), q) => [(4 * q + x % 4, 2 * q), (4 * q + x / 4, 2 * q + 1)], ns.any Prod.snd)
  else ((List.range cols).map fun k => (k, k), false)

/-- Some metadata nibble names its positions out of order (R251). -/
def State.badMeta (s : State) (r : MReq) : Bool :=
  r.op == .mmas && (List.range (r.shape r.a).rows).any fun i => (List.range ((r.shape r.a).cols / 2)).any fun q =>
    let x := (s.metaNibble r i q).1
    x % 4 ≥ x / 4

/-- One group of K added to the accumulator (R250, R347): fp32 with one rounding, or i32 with saturation. -/
def addGroup (int flush : Bool) (acc : Nat) (ps : List (Val × Val)) : Nat :=
  if ps.isEmpty then acc
  else if int then
    let n (v : Val) : Int := match v with | .num x => x.toInt * 2 ^ x.e.toNat | _ => 0
    wrapN 32 (clampI (-(2 ^ 31)) (2 ^ 31 - 1) (ps.foldl (fun t (a, b) => t + n a * n b) (toSigned 32 acc)))
  else
    let t := sumV (ps.map fun (a, b) => (mulV a b).1)
    (roundVal fp32 0 false flush true 0 (addV (decodeCode fp32 flush acc) t.1 false).1).code

/-- Element (i, j) of an MMA or MMAS pass. -/
def State.mmaElem (s : State) (r : MReq) (i j : Nat) : Nat × Bool :=
  let (_, kd, accFmt) := (mmaRow r.page1 (r.shape r.a).fmt).getD (0, 1, 11)
  let (pos, badS) := s.densePos r i
  let k := if r.op == .mmas then 2 * (r.shape r.a).cols else (r.shape r.a).cols
  let (c0, badC) := if r.acc then s.tileElem r.team r.d (r.shape r.d) false i j else (0, false)
  let ops := pos.map fun (p, c) => (p, s.operand r r.a r.page1 i c p, s.operand r r.b r.page1 p j j)
  let bad := badS || badC || ops.any fun (_, a, b) => a.2 || b.2
  ((List.range (ceilDiv k kd)).foldl (fun acc g =>
    addGroup (accFmt == 2) r.flush acc ((ops.filter fun (p, _, _) => p / kd == g).map fun (_, a, b) => (a.1, b.1))) c0, bad)

/-- Element (i, j) of an MLUT pass: the exact dot product of the BITS-bit weights, added once with saturation (R252). -/
def State.mlutElem (s : State) (r : MReq) (i j : Nat) : Nat × Bool :=
  let za := r.shape r.a
  let (c0, badC) := if r.acc then s.tileElem r.team r.d (r.shape r.d) false i j else (0, false)
  let ts := (List.range za.cols).map fun k => (s.tileElem r.team r.a za false i k, s.tileElem r.team r.b (r.shape r.b) false k j)
  let wt (x : Nat) : Int := if za.fmt == 8 then toSigned r.bits x else (x % 2 ^ r.bits : Nat)
  let sum := ts.foldl (fun (t : Int) (a, b) => t + wt a.1 * toSigned 8 b.1) 0
  (wrapN 32 (clampI (-(2 ^ 31)) (2 ^ 31 - 1) (toSigned 32 c0 + sum)), badC || ts.any fun (a, b) => a.2 || b.2)

/-- Computes every element of a destination of m × n, all reads before the first write. -/
def State.pass (s : State) (r : MReq) (n : Nat) (page1 : Bool) (elem : Nat → Nat → Nat × Bool) : State :=
  let z := r.shape n
  let xs := (List.range z.rows).flatMap fun i => (List.range z.cols).map fun j => (i, j, elem i j)
  xs.foldl (fun s (i, j, c, bad) => s.setTileElem r.team n z page1 i j c bad) s

/-- The engine's generator after each destination row of an MCVT (R335). -/
def genRows : Nat → Word → List Word
  | 0, _ => []
  | k + 1, x => let y := stoStep x; y :: genRows k y

/-- MCVT (R253, R469). -/
def State.mcvtPass (s : State) (q : Nat) (r : MReq) : State :=
  let a := r.shape r.a
  let d := r.shape r.d
  let sto := r.rnd == 5
  let gen := if sto then genRows a.rows (s.quartet q).sr else []
  let word (i j : Nat) : Nat := match gen[i]? with | some x => laneRand x (j % 32) | none => 0
  let s' := match gen.getLast? with
    | some x => s.updQuartet q fun y => { y with sr := x }
    | none => s
  let v (i j : Nat) : Val × Bool := s.operand r r.a r.page1 i j j
  let f := fmtOf r.page1d d.fmt
  if d.isMx r.page1d then
    let blk (i j : Nat) : List (Nat × Nat) :=
      if d.blkax then (List.range 32).map fun k => (i / 32 * 32 + k, j) else (List.range 32).map fun k => (i, j / 32 * 32 + k)
    let scale (i j : Nat) : Nat × Bool :=
      let vs := (blk i j).map fun (x, y) => v x y
      (mxScale d.fmt (vs.map Prod.fst), vs.any Prod.snd)
    let elem (i j : Nat) : Nat × Bool :=
      let (sc, bs) := scale i j
      let (x, bad) := v i j
      (if sc == 0xFF then 0 else (roundVal f r.rnd r.sat r.flush r.nancan (word i j) (scaleV x (127 - (sc : Int)))).code, bad || bs)
    let scs := if d.blkax then (List.range (d.rows / 32)).flatMap fun b => (List.range d.cols).map fun j => (b, j, scale (32 * b) j)
      else (List.range d.rows).flatMap fun i => (List.range (d.cols / 32)).map fun b => (i, b, scale i (32 * b))
    let xs := (List.range d.rows).flatMap fun i => (List.range d.cols).map fun j => (i, j, elem i j)
    let s'' := xs.foldl (fun s (i, j, c, bad) => s.setTileElem r.team r.d d r.page1d i j c bad) s'
    scs.foldl (fun s (i, j, c, bad) => s.setTileElem r.team d.sct (r.shape d.sct) false i j c bad) s''
  else
    let xs := (List.range d.rows).flatMap fun i => (List.range d.cols).map fun j =>
      let (x, bad) := v i j
      (i, j, (roundVal f r.rnd r.sat r.flush r.nancan (word i j) x).code, bad)
    xs.foldl (fun s (i, j, c, bad) => s.setTileElem r.team r.d d r.page1d i j c bad) s'

/-! ## Completions and halts (R245, R247, R257) -/

/-- Removes a request from its quartet. -/
def Quartet.remove (q : Quartet) (id : Nat) : Quartet :=
  let drop (o : Option MReq) : Option MReq := o.bind fun r => if r.id == id then none else some r
  { q with table := q.table.filter fun r => r.id != id, array := drop q.array, port := drop q.port }

/-- A request ends: it leaves the engine, the tiles of a team that has ended go with its last request, and the counter falls by 1 (R245,
R254). -/
def State.endReq (s : State) (q : Nat) (r : MReq) : State :=
  let s := s.updQuartet q fun x => x.remove r.id
  let s := if isWindow r.addr then s.unowe r.team else s
  (s.freeTiles r.team).subCount r.launch 1

/-- An ill-formed request halts the team's requests: it and those still in the table are discarded, their destinations become
invalid, and the halt code and the record are written (R257). -/
def State.mHalt (s : State) (q : Nat) (r : MReq) (code : Nat) (addr : Addr) : State :=
  let gone := r :: (s.quartet q).table.filter fun x => x.team == r.team && !x.granted && x.id != r.id
  let s := gone.foldl (fun s x =>
    if x.op == .mst then s else s.setInv x.team x.d (if code == 14 && x.id == r.id then 2 else 1)) s
  let s := s.updTeam r.team fun t => { t with mhalt := code }
  let s := s.engHalt r.launch (0x4000 + q) addr code gone.length r.d
  gone.foldl (fun s x => s.endReq q x) s

/-- A command is done: its destination is valid again where the whole of it was written. -/
def State.mDone (s : State) (q : Nat) (r : MReq) : State :=
  (if r.whole then s.setInv r.team r.d 0 else s).endReq q r

/-- A die's L2 gives up its lines before reads at level 3 or 4. -/
def State.dieAcquire (s : State) (d level : Nat) : State :=
  if level ≥ 3 then (s.die d).l2.keys.foldl (fun s n => s.dropL2 d n) s else s
/-- A die's L2 is written back after writes at level 3 or 4 (R219). -/
def State.dieClean (s : State) (d level : Nat) : State :=
  if level ≥ 3 then (s.die d).l2.keys.foldl (fun s n => s.cleanL2 d n) s else s

/-- The engine of a quartet acting for a request: at the L2 of the quartet's die (R254). -/
def mEng (q : Nat) (r : MReq) : Eng :=
  { die := q / 10, ctx := r.ctx, team := r.team, client := .matrix q r.id, level := 2, launch := some r.launch, held := r.held }

/-- Address of row k of a tile move. -/
def MReq.rowAddr (r : MReq) (k : Nat) : Addr := r.addr + BitVec.ofNat 64 (k * r.stride)

/-- What moving rows comes to. -/
inductive Moved where
  | done (s : State)
  | wait (s : State) (row : Nat)
  | fault (s : State) (row : Nat) (pages : List Nat) (a : Addr) (wr : Bool)
  | access (s : State) (a : Addr)

/-- Moves `n` rows from row k on. -/
def moveRows (q : Nat) (r : MReq) : Nat → Nat → State → Moved
  | 0, _, s => .done s
  | n + 1, k, s =>
    let z := r.shape r.d
    let rb := z.rowBytes r.page1
    let e := mEng q r
    if r.op == .mld then
      match s.engRead e (r.rowAddr k) rb with
      | .ok s bs =>
        let s := s.fabForget e.client
        moveRows q r n (k + 1) ((bs.zipIdx).foldl (fun s ((b, bad), i) => s.setTileByte r.team r.d (k * rb + i) b bad) s)
      | .miss s => .wait s k
      | .fault s ps a => .fault s k ps a false
      | .access s a => .access s a
    else
      match s.engWrite e (r.rowAddr k) ((List.range rb).map fun i => s.tileByte r.team r.d (k * rb + i)) with
      | .ok s _ => moveRows q r n (k + 1) s
      | .miss s => .wait s k
      | .fault s ps a => .fault s k ps a true
      | .access s a => .access s a

/-- Zeroes a tile. -/
def State.zeroTile (s : State) (t n : Nat) : State := { s with mem := s.mem.clear (tileLoc t n 0) (tileLoc t n 65536) }

/-- A tile move goes on from its first unfinished row: it ends, parks at a page fault, or is ill-formed with MEMFAULT (R254).
The 16th round that leaves rows unfinished is an ACCESS (R64). In a context that is torn down a page fault ends the request (R96). -/
def State.runMove (s : State) (q : Nat) (r : MReq) : State :=
  let d := q / 10
  let s := if r.op == .mld && r.row == 0 then (s.dieAcquire d r.cap.engLevel).zeroTile r.team r.d else s
  let z := r.shape r.d
  match moveRows q r (z.rows - r.row) r.row s with
  | .done s => (if r.op == .mst then s.dieClean d r.cap.engLevel else s).mDone q r
  | .wait s k => s.updQuartet q fun x => { x with port := some { r with row := k } }
  | .fault s k ps a wr =>
    if s.tearing r.ctx then s.endReq q r
    else if r.rounds ≥ 16 then s.mHalt q r 15 a
    else
      (s.updQuartet q fun x => { x with port := none, table := x.table ++ [{ r with row := k, parked := true, granted := true }] }).parkGroup
        (.matrix q r.id) r.ctx ps wr r.launch
  | .access s a => s.mHalt q r 15 a

/-- Completes the command of a unit. -/
def State.mComplete (s : State) (q : Nat) (r : MReq) : State :=
  match r.op with
  | .mma | .mmas => if s.badMeta r then s.mHalt q r 14 0 else (s.pass r r.d false fun i j => s.mmaElem r i j).mDone q r
  | .mlut => (s.pass r r.d false fun i j => s.mlutElem r i j).mDone q r
  | .mcvt => (s.mcvtPass q r).mDone q r
  | .mzero => (s.zeroTile r.team r.d).mDone q r
  | .mld | .mst => s.runMove q r

/-! ## Grants (R23, R246, R247) -/

/-- Tokens of a request (R23). -/
def MReq.tokens (r : MReq) : Nat := if r.onPort then 0 else ceilDiv r.cycles 64

/-- A request is ready: no earlier one of its team conflicts with it, and its tokens are in the pool. -/
def State.mReady (s : State) (q : Nat) (r : MReq) : Bool :=
  !r.parked && r.tokens ≤ s.mgmt.pool && !((s.quartet q).requests.any fun x =>
    x.team == r.team && x.id < r.id && (x.writes.any (fun n => r.reads.contains n || r.writes.contains n) || x.reads.any fun n => r.writes.contains n))

/-- The ready request of highest priority for a unit, the earliest among equals. -/
def State.mChoice (s : State) (q : Nat) (port : Bool) : Option MReq :=
  let rs := (s.quartet q).table.filter fun r => r.onPort == port && s.mReady q r
  let prio (r : MReq) : Nat := (s.ctx r.ctx).prio.toNat
  match rs with
  | [] => none
  | r :: t => some (t.foldl (fun a b => if prio b > prio a || (prio b == prio a && b.id < a.id) then b else a) r)

/-- The unit is free. -/
def Quartet.unitFree (q : Quartet) (port : Bool) : Bool := if port then q.port.isNone else q.array.isNone

/-- The array unit of quartet q takes its request now: the requests that the quartets' units would take together want no more tokens
than the pool holds, or it comes first, by PRIO, then in the round after the quartet served last (R23). -/
def State.tokenTurn (s : State) (q : Nat) : Bool :=
  let cs := s.quartets.filterMap fun (k, x) =>
    if x.unitFree false && !x.mRetired then (s.mChoice k false).map fun r => (k, r) else none
  let prio (r : MReq) : Nat := (s.ctx r.ctx).prio.toNat
  let dist (k : Nat) : Nat := (k + 79 - s.mgmt.lastServed % 80) % 80
  let first := cs.foldl (fun (b : Option (Nat × MReq)) (x : Nat × MReq) => match b with
    | none => some x
    | some y => if prio y.2 < prio x.2 || (prio x.2 == prio y.2 && dist x.1 < dist y.1) then some x else some y) none
  (cs.map fun x => x.2.tokens).sum ≤ s.mgmt.pool || (first.map Prod.fst) == some q

/-- MATRIX_GRANT (R247): a free unit of a quartet takes the ready request of highest priority, with its tokens. Input: unit
the quartet, flag the tile port. -/
def execMatrixGrant (s : State) : Host.Outcome State Fault Refusal :=
  let q := s.inp.unit
  let port := s.inp.flag
  .next (if (s.quartet q).unitFree port && !(s.quartet q).mRetired then
    match s.mChoice q port with
    | none => s
    | some r => if !port && !s.tokenTurn q then s else
      let r' := { r with granted := true }
      let s := s.updQuartet q fun x =>
        let x := { x with table := x.table.filter fun y => y.id != r.id }
        if port then { x with port := some r' } else { x with array := some r' }
      if r.tokens == 0 then s else s.updMgmt fun m => { m with pool := m.pool - r.tokens, lastServed := q }
  else s)

/-- MATRIX_COMPLETE (R246): the command on a unit runs and ends. Input: unit the quartet, flag the tile port. -/
def execMatrixComplete (s : State) : Host.Outcome State Fault Refusal :=
  let q := s.inp.unit
  .next (match (if s.inp.flag then (s.quartet q).port else (s.quartet q).array) with
    | some r => s.mComplete q r
    | none => s)

end Machine
end Sys2Proof
end

