-- ==== Sys2Proof/Machine/RenderMath.lean ====
section
/-! DEFINITION. The arithmetic of the geometry fronts: projection, snapping, discards, classification, coverage and depth
(R291 to R296). -/

namespace Sys2Proof
namespace Machine

/-- The integer nearest to n / d, ties to even. -/
def nearest (n : Int) (d : Nat) : Int :=
  let q := n / d
  let r := (n % d).toNat
  if 2 * r > d || (2 * r == d && q % 2 != 0) then q + 1 else q

/-- A clip-space vertex in units of 2^-149. -/
structure Vtx where
  x : Int
  y : Int
  z : Int
  w : Int
  deriving DecidableEq, Repr, Inhabited

/-- The vertex of four fp32 words, none with a component that is not finite. -/
def vtxOf (ws : List Word) : Option Vtx :=
  let c (i : Nat) : Nat := (ws.getD i 0).toNat
  if (List.range 4).all fun i => finiteCode fp32 (c i) then
    some { x := units fp32 (c 0), y := units fp32 (c 1), z := units fp32 (c 2), w := units fp32 (c 3) }
  else none

/-- A projected vertex: position in 256ths of a pixel, depth in units of 2^-149. -/
structure Scr where
  x : Int
  y : Int
  z : Ext
  deriving DecidableEq, Repr, Inhabited

/-- Projects a vertex with w > 0 (R291). -/
def Vtx.project (v : Vtx) (width height : Nat) : Scr :=
  let d := v.w.toNat
  { x := nearest ((v.x + v.w) * (width * 128 : Nat)) d, y := nearest ((v.w - v.y) * (height * 128 : Nat)) d,
    z := roundQ 0 (v.z * 2 ^ 149) d }

/-- Twice the signed area of a snapped triangle, in 256ths squared. -/
def area2 (a b c : Scr) : Int := (b.x - a.x) * (c.y - a.y) - (c.x - a.x) * (b.y - a.y)

/-- The determinant of the rows (x, -y, w): its sign is the winding of a clipped triangle. -/
def clipDet (a b c : Vtx) : Int :=
  -(a.x * (b.y * c.w - c.y * b.w) - b.x * (a.y * c.w - c.y * a.w) + c.x * (a.y * b.w - b.y * a.w))

/-- What a triangle is after assembly: discarded, clipped, or whole with its projected vertices. -/
inductive Kept where
  | no
  | clipped
  | whole (a b c : Scr)
  deriving DecidableEq, Repr

/-- A winding is the one that CULL names: 1 clockwise (positive), 2 counter-clockwise. -/
def culled (cull : Nat) (winding : Int) : Bool := (cull == 1 && winding > 0) || (cull == 2 && winding < 0)

/-- The discards of R291 but for the cull bit. -/
def keep (width height cull : Nat) (vs : List (Option Vtx)) : Kept :=
  match vs with
  | [some a, some b, some c] =>
    let front := [a, b, c].filter fun v => v.w > 0
    let finiteZ : Bool := front.all fun v => match (v.project width height).z with | .fin _ => true | _ => false
    if front.isEmpty || !finiteZ then .no
    else if front.length < 3 then
      let d := clipDet a b c
      if d == 0 || culled cull d then .no else .clipped
    else
      let p := a.project width height
      let q := b.project width height
      let r := c.project width height
      let xs := [p.x, q.x, r.x]
      let ys := [p.y, q.y, r.y]
      let out : Bool := xs.all (· < 0) || xs.all (· > (width * 256 : Nat)) || ys.all (· < 0) || ys.all (· > (height * 256 : Nat))
      let s := area2 p q r
      if out || s == 0 || culled cull s then .no else .whole p q r
  | _ => .no

/-- Smallest and largest of three. -/
def range3 (a b c : Int) : Int × Int := (min a (min b c), max a (max b c))

/-- The bounding area of a triangle in 16ths of a square pixel (R294). -/
def boundArea (a b c : Scr) : Nat :=
  let x := range3 a.x b.x c.x
  let y := range3 a.y b.y c.y
  ceilDiv (x.2 - x.1).toNat 64 * ceilDiv (y.2 - y.1).toNat 64

/-- The numbers of 64-pixel regions that an extent in 256ths touches, clipped to `n` pixels. -/
def regionSpan (lo hi : Int) (n : Nat) : List Nat :=
  let a := (max lo 0).toNat / 16384
  let b := min ((min hi (n * 256 : Nat)).toNat / 16384) ((n - 1) / 64)
  (List.range (b + 1)).filter fun k => a ≤ k

/-- The regions that a whole triangle touches, as tx and ty. -/
def touched (width height : Nat) (a b c : Scr) : List (Nat × Nat) :=
  let x := range3 a.x b.x c.x
  let y := range3 a.y b.y c.y
  (regionSpan y.1 y.2 height).flatMap fun ty => (regionSpan x.1 x.2 width).map fun tx => (tx, ty)

/-- Every region of a screen. -/
def allRegions (width height : Nat) : List (Nat × Nat) :=
  (List.range (ceilDiv height 64)).flatMap fun ty => (List.range (ceilDiv width 64)).map fun tx => (tx, ty)

/-- Depth n / d clamped to [0, 1] and rounded, as fp32 bits (R296). -/
def depthBits (n : Int) (d : Nat) : Word :=
  match roundQ 0 n d with
  | .fin k => codeOfUnits (max 0 (min k (2 ^ 149)))
  | .pinf => 0x3F800000
  | .ninf => 0

/-- The depth of pixel (px, py) in a snapped triangle, none where its centre is not covered (R296). -/
def coverWhole (a b c : Scr) (px py : Nat) : Option Word :=
  let (b, c) := if area2 a b c < 0 then (c, b) else (b, c)
  let x : Int := 256 * px + 128
  let y : Int := 256 * py + 128
  let edge (p q : Scr) : Int × Bool :=
    let dx := q.x - p.x
    let dy := q.y - p.y
    let e := dx * (y - p.y) - dy * (x - p.x)
    (e, e > 0 || (e == 0 && (dy < 0 || (dy == 0 && dx > 0))))
  let ea := edge b c
  let eb := edge c a
  let ec := edge a b
  if ea.2 && eb.2 && ec.2 then
    some (depthBits (ea.1 * a.z.num + eb.1 * b.z.num + ec.1 * c.z.num) (area2 a b c).toNat)
  else none

/-- The depth of pixel (px, py) in a clipped triangle, none where its centre is not covered (R291). The weights of the three
vertices at the point that projects onto the centre are linear in the centre's position. -/
def coverClipped (width height : Nat) (a b c : Vtx) (px py : Nat) : Option Word :=
  let vx : V3 := { x := a.x, y := b.x, z := c.x }
  let vy : V3 := { x := a.y, y := b.y, z := c.y }
  let vw : V3 := { x := a.w, y := b.w, z := c.w }
  let vz : V3 := { x := a.z, y := b.z, z := c.z }
  let xy := vx.cross vy
  let xw := vx.cross vw
  let wy := vw.cross vy
  let w : Int := width
  let h : Int := height
  let det := vw.dot xy
  let s : Int := if det < 0 then -1 else 1
  let lam (i : Nat) : Int :=
    s * (w * h * xy.at i - w * (h - (2 * py + 1)) * xw.at i - h * ((2 * px + 1) - w) * wy.at i)
  let ok (i : Nat) : Bool :=
    let bx := -(s * wy.at i)
    let by_ := s * xw.at i
    lam i > 0 || (lam i == 0 && (bx > 0 || (bx == 0 && by_ > 0)))
  if det != 0 && ok 0 && ok 1 && ok 2 then
    some (depthBits ((lam 0 * vz.x + lam 1 * vz.y + lam 2 * vz.z) * 2 ^ 149) (w * h * det).natAbs)
  else none

end Machine
end Sys2Proof
end

