-- ==== Sys2Proof/Machine/Render.lean ====
section
/-! DEFINITION. The geometry fronts: draws, payload slots, meshlets, routing of triangles, the fixed rasteriser, software-path
waves and atlas requests (R285 to R299), and the instructions PAYW, PAYR, EMIT and ATLREQ (R478 to R482). -/

namespace Sys2Proof
namespace Machine

/-! ## Draws (R285, R293) -/

/-- The pipeline descriptor of 128 bytes at an address, its mesh and software addresses, and whether its fields and
reserved bits are in range (Table 11.1). -/
def pipeOf (x : Nat) (a : Addr) : PipeDesc × Addr × Addr × Bool :=
  let d : PipeDesc := { addr := a, vbuf := BitVec.ofNat 64 (bitsAt x 128 64), width := bitsAt x 192 16, height := bitsAt x 208 16,
                        pitch := bitsAt x 224 16, thresh := bitsAt x 240 16, cull := bitsAt x 256 2 }
  (d, BitVec.ofNat 64 (bitsAt x 0 64), BitVec.ofNat 64 (bitsAt x 64 64),
   d.vbuf.toNat % 8 == 0 && 1 ≤ d.width && d.width ≤ 16384 && 1 ≤ d.height && d.height ≤ 16384 && d.width ≤ d.pitch &&
     d.cull != 3 && bitsAt x 258 766 == 0)

/-- The dies recorded for a draw. -/
def State.drawDies (s : State) (c l : Nat) (a : Addr) : List Nat :=
  match (s.ctx c).draws.find? fun (k, b, _) => k == l && b == a with
  | some (_, _, ds) => ds
  | none => []

/-- Records the usable dies for a draw at its first PAYW. -/
def State.recordDraw (s : State) (c l : Nat) (a : Addr) : State :=
  if (s.ctx c).draws.any fun (k, b, _) => k == l && b == a then s
  else s.updCtx c fun x => { x with draws := x.draws ++ [(l, a, s.usableDies c)] }

/-- The die that owns a region of a draw. -/
def ownerOf (ds : List Nat) (tx ty : Nat) : Option Nat := ds[(tx + 3 * ty) % ds.length]?

/-! ## PAYW (R286, R287, R479) -/

/-- Fragments that wait for a payload slot of a die: PRIO, order of arrival, core and entry. -/
def State.slotWaiters (s : State) (d : Nat) : List (Nat × Nat × Nat × Nat) :=
  (coresOf d).flatMap fun n => (s.core n).frags.filterMap fun (e, f) =>
    if f.st == .syncwait && f.wait.kind == .payload then some ((s.ctx (s.whoAt n e).ctx).prio.toNat, f.wait.n, n, e) else none

/-- No waiter of the die comes before one of a PRIO that entered at time n (R287). -/
def State.firstWaiter (s : State) (d prio n : Nat) : Bool :=
  (s.slotWaiters d).all fun (p, k, _, _) => p < prio || (p == prio && n ≤ k)

/-- The accesses that read n bytes from a, each of one flit's payload at a peer (R49). -/
def objAccs (a : Addr) (n : Nat) : List Acc := (chunks a n).map fun (b, k) => { lane := 0, addr := b, n := k }

/-- Reads one object for a front or the atlas unit: its failures concern the whole MASK. -/
def State.readBlock (s : State) (w : Who) (pol : BitVec 2) (a : Addr) (n : Nat) (k : State → List Byte → Flow) : Flow :=
  let as := objAccs a n
  let g := s.gather w { uni := true, pol := pol } as
  if (g.rest ||| g.x.any) != 0 then g.x.finish g.rest g.s false (some (s.frag w).mask) fun _ => a
  else k g.s (g.bytes.flatMap Prod.snd)

/-- Reads a descriptor or an atlas entry at its home, as a number. -/
def State.readObj (s : State) (w : Who) (a : Addr) (n : Nat) (k : State → Nat → Flow) : Flow :=
  s.readBlock w 2 a n fun s bs => k s (leNat bs)

/-- The payload slot that a fragment has taken and not filled. -/
def Die.takenBy (d : Die) (core entry : Nat) : Option Nat :=
  (d.slots.find? fun (_, p) => match p.taker with | some (_, c, e) => c == core && e == entry | none => false).map Prod.fst

/-- The slot that a fragment has taken returns to FREE (R286). -/
def State.giveBack (s : State) (w : Who) : State :=
  match (s.die w.die).takenBy w.core w.entry with
  | some slot => s.updDie w.die fun x => { x with slots := x.slots.erase slot }
  | none => s

/-- A PAYW that traps, at its 16th round too, keeps no slot (R64, R286). -/
def Flow.givesBack (w : Who) : Flow → Flow
  | .trap s t => .trap (s.giveBack w) t
  | .park s ls ps wr a => .park (if (s.frag w).rounds ≥ 16 then s.giveBack w else s) ls ps wr a
  | f => f

/-- A fragment's earlier stores are performed before a front reads memory (R228, R290). -/
def State.storesDone (s : State) (w : Who) : State :=
  (s.performWhere w.core fun p => p.slot == w.slot).cleanCore w.core 2 fun _ => true

/-- A front reads memory for a fragment once its earlier stores are performed. -/
def State.frontRead (s : State) (w : Who) (a : Addr) (n : Nat) (k : State → List Byte → Flow) : Flow :=
  if s.hindered w.core fun p => p.slot == w.slot then .part s (s.frag w).mask else (s.storesDone w).readBlock w 1 a n k

/-- Copies a payload into the slot taken for a draw and makes its mesh tickets. -/
def State.copyPayload (s : State) (w : Who) (gd slot : Nat) (a : Addr) (size n : Nat) : Flow :=
  let d := w.die
  let desc := ((s.die d).slots.getD slot {}).desc
  let k (s : State) (bs : List Byte) : Flow :=
    let s := { s with mem := bs.zipIdx.foldl (fun m (b, i) => m.put (payLoc d slot i) b) (s.mem.clear (payLoc d slot 0) (payLoc d slot 65536)) }
    let grid := (s.launch w.launch).grids
    let s := (s.addCount w.launch (n + 1)).updLaunch w.launch fun l => { l with grids := l.grids + 1 }
    let s := s.recordDraw w.ctx w.launch desc.addr
    let e : LEntry := { launch := w.launch, grid := grid, desc := desc.mesh, kind := .mesh slot, next := 0, bound := n }
    let p : PaySlot := { held := true, launch := w.launch, ctx := w.ctx, desc := desc, size := size, meshes := n }
    let s := s.updDie d fun x => { x with slots := x.slots.set slot p, meshPending := x.meshPending ++ [e] }
    .done (s.updWave w fun wv => wv.setG gd (BitVec.ofNat 32 slot))
  if size == 0 then k s [] else s.frontRead w a size k

/-- Takes the lowest FREE slot for a draw, or waits for one in SYNCWAIT behind the waiters that come first (R287, R494). -/
def State.takeSlot (s : State) (w : Who) (p : PipeDesc) (k : State → Nat → Flow) : Flow :=
  let fr := s.frag w
  let waiting := fr.st == .syncwait && fr.wait.kind == .payload
  let at_ := if waiting then fr.wait.n else s.nextId
  match ([0, 1, 2, 3].find? fun k => ((s.die w.die).slots.get? k).isNone).filter fun _ => s.firstWaiter w.die (s.ctx w.ctx).prio.toNat at_ with
  | some slot =>
    let s := s.updDie w.die fun x =>
      { x with slots := x.slots.set slot { held := true, desc := p, taker := some (w.team, w.core, w.entry) } }
    k (s.updFrag w fun f => if waiting then { f with st := f.runSt, wait := {} } else f) slot
  | none =>
    if waiting then .hold s
    else
      let (id, s) := s.fresh
      .wait s { kind := .payload, n := id }

/-- The descriptors of a draw are read and checked (R285). -/
def State.readDraw (s : State) (w : Who) (d : Addr) (k : State → PipeDesc → Flow) : Flow :=
  let bad : Trap := { code := 1, cause := 6, lanes := (s.frag w).mask, addr := d }
  s.readObj w d 128 fun s x =>
    let (p, ma, sa, ok) := pipeOf x d
    let at_ := match (s.laneTr w none d 128 false) with
      | .ok locs => some (locs.headD 0, Place.home)
      | _ => none
    let s := s.acquire w (s.captured w 4) (some (d, at_))
    let lp := (s.launch w.launch).lanepriv
    if !ok || ma.toNat % 64 != 0 || sa.toNat % 64 != 0 then .trap s bad
    else
      s.readObj w ma 64 fun s mx =>
        let m := descOf mx
        if !descOk mx lp none || m.teams != 1 || m.affname != 0 then .trap s bad
        else if sa == 0 then k s { p with mesh := m, sw := none }
        else
          s.readObj w sa 64 fun s sx =>
            let q := descOf sx
            if !descOk sx lp none || q.waves != 1 || q.width != 4 then .trap s bad else k s { p with mesh := m, sw := some q }

/-- PAYW: gd := the slot. One that has taken its slot goes on with the draw it has read. -/
def execPayw (f : UForm) (s : State) :=
  uniOp (.payw f) f { a := true, b := true, c := true } (fun e s w =>
    let wv := s.regs w
    let mask := (s.frag w).mask
    let d := wv.g64 f.ga.toNat
    let pay := wv.g64 f.gb.toNat
    let size := (wv.greg e.src3.toNat).toNat
    let n := (wv.greg (e.src3.toNat + 1)).toNat
    let bad : Trap := { code := 1, cause := 6, lanes := mask, addr := d }
    let copy (s : State) (slot : Nat) : Flow := s.copyPayload w f.gd.toNat slot pay size n
    Flow.givesBack w (match (s.die w.die).takenBy w.core w.entry with
    | some slot => copy s slot
    | none =>
      if d.toNat % 128 != 0 then .trap s bad
      else if pay.toNat % 16 != 0 then .trap s { code := 3, lanes := mask, addr := pay }
      else if size > 16384 || size % 16 != 0 || n == 0 || n > 65535 then .trap s bad
      else
        s.readDraw w d fun s p =>
          if isWindow pay && (s.winLoc w.team none pay size).isNone then .trap s { code := 5, lanes := mask, addr := pay }
          else s.takeSlot w p copy)) s

/-- PAYR: gd := a word of the mesh team's payload. -/
def execPayr (f : UForm) (s : State) :=
  uniOp (.payr f) f { a := true } (fun _ s w =>
    let bad : Trap := { code := 5, lanes := (s.frag w).mask }
    let o := ((s.wave w).greg f.ga.toNat).toNat
    match (s.team w.team).mesh with
    | none => .trap s bad
    | some (d, slot, _) =>
      if o % 4 != 0 || ((s.die d).slots.getD slot {}).size ≤ o then .trap s bad
      else
        let x := leNat ((List.range 4).map fun i => s.mem.get (payLoc d slot (o + i)))
        .done (s.updWave w fun wv => wv.setG f.gd.toNat (BitVec.ofNat 32 x))) s

/-- MESH_STARVATION (R288): with a mesh ticket that has waited for room and teams waiting at PAYW on the die, the youngest such
team is asked to save, and with it its cluster (R171). Input: unit the die. -/
def execMeshStarvation (s : State) : Host.Outcome State Fault Refusal :=
  let d := s.inp.unit
  let waits := (s.meshTickets d).any fun e => !s.fitsOn e.ticket d
  let ts := (s.slotWaiters d).map fun (_, _, n, e) => (s.whoAt n e).team
  .next (if !waits then s
  else match bestBy (fun a b => b < a) (ts.filter fun t => !(s.team t).preempt) with
    | none => s
    | some t => (s.members t).foldl (fun s m => s.updTeam m fun x => { x with preempt := true }) s)

/-! ## Triangles in flight (R292, R295) -/

/-- Key of a draw. -/
def drawKey (l : Nat) (a : Addr) : Nat := l * 2 ^ 64 + a.toNat
/-- Key of a region of a draw. -/
def regionKey (l : Nat) (a : Addr) (tx ty : Nat) : Nat := drawKey l a * 2 ^ 16 + ty * 256 + tx
/-- Key of a region of a draw from a source. -/
def inKey (src l : Nat) (a : Addr) (tx ty : Nat) : Nat := regionKey l a tx ty * 8 + src

/-- Triangles of a source in flight to a destination. -/
def Die.inFlight (d : Die) (dst : Nat) : Nat := (d.tris.filter fun t => t.dst == dst && t.sent).length

/-- A triangle enters the source's list with its sequence numbers; it is sent at once where its destination has room and no
earlier one waits. One to a fenced die is dropped. -/
def State.routeTri (s : State) (t : Tri) (regions : List (Nat × Nat)) : State :=
  if (s.die t.dst).fenced then s.blame t.launch .killed
  else
    let d := s.die t.src
    let (rs, seqs) := regions.foldl (fun ((rs, m) : List (Nat × Nat × Nat) × Tbl Nat) (tx, ty) =>
      let k := regionKey t.launch t.desc.addr tx ty
      let n := m.getD k 0
      (rs ++ [(tx, ty, n)], m.set k ((n + 1) % 2 ^ 32))) ([], d.seqOut)
    let room : Bool := d.inFlight t.dst < 256 && !(d.tris.any fun u => u.dst == t.dst && !u.sent)
    let s := s.setDie t.src { d with seqOut := seqs, tris := d.tris ++ [{ t with regions := rs, sent := room }] }
    s.updDie t.src fun x => { x with slots := x.slots.upd t.slot {} fun p => { p with tris := p.tris + 1 } }

/-- Routes one kept triangle to its dies. -/
def State.emitTri (s : State) (w : Who) (src slot : Nat) (p : PipeDesc) (number : Word) (verts : List Word) (kept : Kept) : State :=
  let ds := s.drawDies w.ctx w.launch p.addr
  let (regions, clipped, soft) := match kept with
    | .no => ([], false, false)
    | .clipped => (allRegions p.width p.height, true, false)
    | .whole a b c => (touched p.width p.height a b c, false, p.sw.isSome && boundArea a b c ≤ p.thresh)
  ds.foldl (fun s dst =>
    let mine := regions.filter fun (tx, ty) => ownerOf ds tx ty == some dst
    if mine.isEmpty && !clipped then s
    else
      s.routeTri { src := src, dst := dst, slot := slot, launch := w.launch, desc := p, number := number, verts := verts, regions := [],
                   clipped := clipped, soft := soft, sent := false } mine) s

/-- EMIT: the front reads the block and takes its triangles in order (R290, R481). -/
def execEmit (f : UForm) (s : State) :=
  uniOp (.emit f) f { a := true, b := true } (fun _ s w =>
    let fr := s.frag w
    let wv := s.regs w
    let mask := fr.mask
    let a := wv.g64 f.ga.toNat
    let v := ((wv.greg f.gb.toNat).extractLsb' 0 8).toNat
    let t := ((wv.greg f.gb.toNat).extractLsb' 8 8).toNat
    let number := ((wv.greg f.gd.toNat).extractLsb' 0 24).toNat
    match (s.team w.team).mesh with
    | none => .trap s { code := 5, lanes := mask }
    | some (src, slot, _) =>
      if isWindow a && (s.winLoc w.team none a 2176).isNone then .trap s { code := 5, lanes := mask, addr := a }
      else if a.toNat % 16 != 0 then .trap s { code := 3, lanes := mask, addr := a }
      else if v > 96 || t > 160 then .trap s { code := 15, lanes := mask, addr := a }
      else if (List.range 8).any fun d => 256 ≤ (s.die src).inFlight d then
        (if fr.st == .syncwait then .hold s else .wait s { kind := .emit })
      else
        (s.updFrag w fun f => if f.st == .syncwait then { f with st := f.runSt, wait := {} } else f).frontRead w a 2176 fun s b =>
          let p := ((s.die src).slots.getD slot {}).desc
          let word (o : Nat) : Word := BitVec.ofNat 32 (leNat ((b.drop o).take 4))
          let vert (i : Nat) : List Word := (List.range 4).map fun k => word (16 * i + 4 * k)
          .done ((List.range t).foldl (fun s k =>
            let ix := (word (1536 + 4 * k)).toNat
            let is := [ix % 256, ix / 256 % 256, ix / 65536 % 256]
            if is.any (fun i => v ≤ i) then s.updWave w fun wv => wv.orFlags Fl.bound
            else if ix / 2 ^ 24 % 2 == 1 then s
            else
              s.emitTri w src slot p (BitVec.ofNat 32 (number * 256 + k)) (is.flatMap vert)
                (keep p.width p.height p.cull (is.map fun i => vtxOf (vert i)))) s)) s

/-- The first triangle of a list that waits for a destination is sent. -/
def markSent (dst : Nat) : List Tri → List Tri
  | [] => []
  | t :: r => if t.dst == dst && !t.sent then { t with sent := true } :: r else t :: markSent dst r

/-- TRIANGLE_SEND (R295): the oldest triangle that waits at a source for a destination is sent once fewer than 256 are in
flight. Input: unit the source die, item the destination. -/
def execTriangleSend (s : State) : Host.Outcome State Fault Refusal :=
  let d := s.die s.inp.unit
  .next (if d.inFlight s.inp.item < 256 then
    match takeFirst (fun t => t.dst == s.inp.item && !t.sent) d.tris with
    | none => s
    | some _ =>
      s.setDie s.inp.unit { d with tris := markSent s.inp.item d.tris }
  else s)

/-! ## The fixed rasteriser (R296) -/

/-- The rasteriser of a die acting for a launch. -/
def rasterEng (d c : Nat) (id : Nat) : Eng := { die := d, ctx := c, team := noTeam, client := .pixel d id, level := 2 }

/-- A maximum that is dropped: a SLOWFAIL record, and FAULT. -/
def State.dropPixel (s : State) (l : Nat) (a : Addr) : State := (s.launchRec l 7 (addr := a)).blame l .fault

/-- What a maximum comes to. -/
inductive PixOut where
  | done (s : State)
  | miss (s : State)
  | fault (s : State) (pages : List Nat)

/-- Performs one maximum at the die's L2, or drops it. A visibility buffer in a window has no place there. -/
def State.pixelMax (s : State) (d c l id : Nat) (a : Addr) (word : BitVec 64) : PixOut :=
  let e := rasterEng d c id
  match (if isWindow a then .access else s.trDie e a true) with
  | .loc n =>
    let s := s.useDie e a true
    let (bs, s) := s.readBytes (.l2 d true) (s.tagOf c) (locsFrom n 8)
    if anyBad bs then .done (s.dropPixel l a)
    else
      let old := engNat bs
      .done (if old < word.toNat then s.writeBytes (.l2 d true) (s.tagOf c) ((natBytes 8 word.toNat).mapIdx fun i b => (n + i, b)) else s)
  | .miss => .miss (s.engAsk e a true)
  | .fault => .fault (s.useDie e a true) [a.toNat / 4096]
  | .access | .peer _ => .done ((s.useDie e a true).dropPixel l a)

/-- A new maximum: performed at once, or owed to the launch until its translation is there. -/
def State.putPixel (s : State) (d c l : Nat) (a : Addr) (word : BitVec 64) : State :=
  let (id, s) := s.fresh
  let owe (s : State) (parked : Bool) : State :=
    let p : PixWrite := { id := id, launch := l, ctx := c, addr := a, word := word, parked := parked }
    (s.updDie d fun x => { x with pixels := x.pixels ++ [p] }).addCount l 1
  match s.pixelMax d c l id a word with
  | .done s => s
  | .miss s => owe s false
  | .fault s ps => (owe s true).parkGroup (.pixel d id) c ps true l

/-- Tries an owed maximum again; at its 16th round a fault counts as ACCESS. -/
def State.retryPixel (s : State) (d : Nat) (p : PixWrite) : State :=
  let drop (s : State) : State := s.updDie d fun x => { x with pixels := x.pixels.filter fun q => q.id != p.id }
  match s.pixelMax d p.ctx p.launch p.id p.addr p.word with
  | .done s => (drop s).subCount p.launch 1
  | .miss s => s
  | .fault s ps =>
    if p.rounds ≥ 16 then (drop (s.dropPixel p.launch p.addr)).subCount p.launch 1
    else
      (s.updDie d fun x => { x with pixels := x.pixels.map fun q => if q.id == p.id then { q with parked := true } else q }).parkGroup
        (.pixel d p.id) p.ctx ps true p.launch

/-- Tries every owed maximum of a die that is not parked. -/
def State.retryPixels (s : State) (d : Nat) : State :=
  ((s.die d).pixels.filter fun p => !p.parked).foldl (fun s p => s.retryPixel d p) s

/-- Rasterises a triangle's part of one region. -/
def State.rasterRegion (s : State) (d c : Nat) (t : Tri) (tx ty : Nat) : State :=
  let p := t.desc
  let vs := [0, 1, 2].map fun i => (vtxOf ((t.verts.drop (4 * i)).take 4)).getD default
  let v (i : Nat) : Vtx := vs.getD i default
  let q (i : Nat) : Scr := (v i).project p.width p.height
  let depth (x y : Nat) : Option Word :=
    if t.clipped then coverClipped p.width p.height (v 0) (v 1) (v 2) x y else coverWhole (q 0) (q 1) (q 2) x y
  (List.range 64).foldl (fun s j => (List.range 64).foldl (fun s i =>
    let x := tx * 64 + i
    let y := ty * 64 + j
    if p.width ≤ x || p.height ≤ y then s
    else match depth x y with
      | none => s
      | some z => s.putPixel d c t.launch (p.vbuf + BitVec.ofNat 64 (8 * (y * p.pitch + x))) (z ++ t.number)) s) s

/-! ## The software path (R297) -/

/-- The registers v0 to v9 of a software-path lane. A depth that is or rounds to zero has the sign of z. -/
def softLane (t : Tri) : List Word :=
  let q (i : Nat) : Scr := ((vtxOf ((t.verts.drop (4 * i)).take 4)).getD default).project t.desc.width t.desc.height
  let pos (n : Int) : Word := fpOfQ (n * 2 ^ 141) 1
  let z (i : Nat) : Word :=
    if (q i).z.num == 0 then t.verts.getD (4 * i + 2) 0 &&& 0x80000000 else codeOfUnits (q i).z.num
  [pos (q 0).x, pos (q 0).y, pos (q 1).x, pos (q 1).y, pos (q 2).x, pos (q 2).y, z 0, z 1, z 2, t.number]

/-- A triangle of a slot has been processed. -/
def State.triDone (s : State) (src slot n : Nat) : State :=
  match (s.die src).slots.get? slot with
  | none => s
  | some p => (s.updDie src fun x => { x with slots := x.slots.set slot { p with tris := p.tris - n } }).freeSlot src slot

/-- Forms the wave of a pack: a team of SWDESC in the draw's own grid on the die, without cluster or affinity whatever SWDESC names. DESIGN
CHOICE, log entry 29. -/
def State.formPack (s : State) (d : Nat) (p : SwPack) : State :=
  match p.desc.sw with
  | none => s
  | some sw =>
    let k := drawKey p.launch p.desc.addr
    let (grid, n, s) := match (s.die d).swGrids.get? k with
      | some (g, n) => (g, n, s)
      | none => ((s.launch p.launch).grids, 0, s.updLaunch p.launch fun l => { l with grids := l.grids + 1 })
    let m := fullMask p.tris.length
    let v := p.tris.zipIdx.foldl (fun v (ws, l) => ws.zipIdx.foldl (fun v (x, i) => Tbl.set v (i * 64 + l) x) v) ([] : Tbl Word)
    let e : LEntry := { launch := p.launch, grid := grid, desc := { sw with affname := 0, crows := 1, ccols := 1 },
                        kind := .raster p.desc.vbuf p.desc.pitch p.tx p.ty m v, next := n, bound := n + 1 }
    let s := (s.updDie d fun x => { x with swGrids := x.swGrids.set k (grid, n + 1), packs := x.packs.filter fun q => q != p }).addCount p.launch 1
    (s.listOn d e).triDone p.src p.slot p.tris.length

/-- A slot of a source has a running mesh team. -/
def State.meshRuns (s : State) (src slot : Nat) : Bool :=
  s.teams.any fun (_, t) => t.st == .resident && (match t.mesh with | some (d, k, _) => d == src && k == slot | none => false)

/-- Packs a software-path triangle for one region; a full pack, or one whose slot has no running mesh team, forms a wave. -/
def State.packTri (s : State) (d : Nat) (t : Tri) (tx ty : Nat) : State :=
  let same (p : SwPack) : Bool :=
    p.launch == t.launch && p.desc.addr == t.desc.addr && p.src == t.src && p.slot == t.slot && p.tx == tx && p.ty == ty
  let old := ((s.die d).packs.find? same).getD
    { launch := t.launch, ctx := (s.launch t.launch).ctx, src := t.src, slot := t.slot, desc := t.desc, tx := tx, ty := ty, tris := [] }
  let p : SwPack := { old with tris := old.tris ++ [softLane t] }
  let s := s.updDie d fun x => { x with packs := x.packs.filter (fun q => !same q) ++ [p] }
  let s := s.updDie t.src fun x => { x with slots := x.slots.upd t.slot {} fun y => { y with tris := y.tris + 1 } }
  if p.tris.length ≥ 64 || !s.meshRuns t.src t.slot then s.formPack d p else s

/-- The packs of slots whose last running mesh team has gone form their waves (R297). -/
def State.settlePacks (s : State) : State :=
  s.dies.foldl (fun s (d, x) => (x.packs.filter fun p => !s.meshRuns p.src p.slot).foldl (fun s p => s.formPack d p) s) s

/-- TRIANGLE_ARRIVAL (R295): a sent triangle is processed once every lower number of each of its regions has been. Input: unit
the destination die, item the source die, id its place in the source's list. -/
def execTriangleArrival (s : State) : Host.Outcome State Fault Refusal :=
  let d := s.inp.unit
  let src := s.inp.item
  .next (match (s.die src).tris[s.inp.id]? with
    | none => s
    | some t =>
      let key (tx ty : Nat) : Nat := inKey src t.launch t.desc.addr tx ty
      if t.dst != d || !t.sent || !(t.regions.all fun (tx, ty, n) => (s.die d).seqIn.getD (key tx ty) 0 == n) then s
      else
        let c := (s.launch t.launch).ctx
        let s := s.updDie src fun x => { x with tris := x.tris.eraseIdx s.inp.id }
        let s := s.updDie d fun x =>
          { x with seqIn := t.regions.foldl (fun m (tx, ty, n) => m.set (key tx ty) ((n + 1) % 2 ^ 32)) x.seqIn }
        let s := t.regions.foldl (fun s (tx, ty, _) => if t.soft then s.packTri d t tx ty else s.rasterRegion d c t tx ty) s
        s.triDone src t.slot 1)

/-- SW_WAVE_TIMEOUT (R297): the pack has waited 4,096 cycles, or its slot has no running mesh team: its wave is formed. Input:
unit the die, item the place in its list of packs. -/
def execSwWaveTimeout (s : State) : Host.Outcome State Fault Refusal :=
  .next (match (s.die s.inp.unit).packs[s.inp.item]? with
    | some p => s.formPack s.inp.unit p
    | none => s)

/-! ## The atlas (R299, R482) -/

/-- The probes of an atlas request from entry h on; `n` are left of `size`. -/
def atlasProbe (w : Who) (a : Addr) (key : BitVec 64) (size h next nblk : Nat) : Nat → State → (State → Option Nat → Option (Nat × Addr) → Flow) → Flow
  | 0, s, k => k s none none
  | n + 1, s, k =>
    let e := a + BitVec.ofNat 64 (16 + 16 * (h % size))
    s.readObj w e 16 fun s x =>
      if bitsAt x 0 64 == key.toNat then k s (some (bitsAt x 64 32)) none
      else if bitsAt x 0 64 == 0 then (if next ≥ nblk then k s none none else k s (some next) (some (next, e)))
      else atlasProbe w a key size (h + 1) next nblk n s k

/-- ATLREQ: gd := the block, or all ones. The request acts as acq_rel at the system scope. -/
def execAtlreq (f : UForm) (s : State) :=
  uniOp (.atlreq f) f { a := true, b := true } (fun _ s w =>
    let fr := s.frag w
    let wv := s.regs w
    let mask := fr.mask
    let a := wv.g64 f.ga.toNat
    let key := wv.g64 f.gb.toNat
    let cap := s.captured w 4
    let access : Trap := { code := 5, lanes := mask, addr := a }
    -- where the table lies, with write permission
    let near (s : State) (b : Addr) (k : State → Nat → Flow) : Flow :=
      match joinTr b 16 (fun c => s.trFrag w c true) with
      | .ok locs => if locs.all isDev then k s (locs.headD 0) else .trap s access
      | .miss ps => .part (s.askPages w ps true) mask
      | .fault ps => .park s mask ps true b
      | .access | .peer _ | .mixed _ => .trap s access
    if key == 0 || isWindow a then .trap s access
    else if a.toNat % 16 != 0 then .trap s { code := 3, lanes := mask, addr := a }
    else
      near s a fun s l =>
        if s.mustWait w cap then (if fr.st == .syncwait then .hold s else .wait s { kind := .post, cap := cap })
        else
          let s := s.releaseFor w cap a
          s.readObj w a 16 fun s x =>
            let lg := bitsAt x 64 4
            let next := bitsAt x 0 32
            if lg < 4 || bitsAt x 69 59 != 0 then .trap s { code := 1, cause := 6, lanes := mask, addr := a }
            else
              atlasProbe w a key (2 ^ lg) (key.toNat % 2 ^ lg) next (bitsAt x 32 32) (2 ^ lg) s fun s got new =>
                let put (s : State) (l : Nat) (bs : List Byte) : State := s.writeBytes .home (s.tagOf w.ctx) (bs.mapIdx fun i b => (l + i, b))
                let got32 : Word := BitVec.ofNat 32 (got.getD 0xFFFFFFFF)
                let fin (s t : State) (wrote : Bool) : Flow :=
                  let t := ((s.keepRels .home l t).acquire w cap (some (a, some (l, .home)))).updWave w fun wv => wv.setG f.gd.toNat got32
                  .done (if wrote then
                      t.noteRelease { loc := l, place := .home, party := .core w.core, set := cap.set, binds := some (s.bound w a) }
                    else t)
                match got, new with
                | _, some (n, e) => near s e fun s le => fin s (put (put s le (natBytes 8 key.toNat ++ natBytes 4 n)) l (natBytes 4 (n + 1))) true
                | some _, none => fin s s false
                | none, none => fin s (put s (l + 8) (natBytes 4 (bitsAt x 64 4 + 16))) true) s

end Machine
end Sys2Proof
end

