-- ==== Sys2Proof/Machine/Fence.lean ====
section
/-! DEFINITION. What takes teams and units down from outside their programs: the kill of a cluster after an uncorrected
scratchpad error (R119, R120), and the fencing of a die (R68, R121, R295, R313). -/

namespace Sys2Proof
namespace Machine

/-! ## Clusters killed by errors -/

/-- A ticket that is put back goes to the head of its die's launch list, a mesh ticket to that of the die's mesh tickets. -/
def State.relist (s : State) (d : Nat) (e : LEntry) : State :=
  s.updDie d fun x => match e.kind with
    | .mesh _ => { x with meshPending := e :: x.meshPending }
    | _ => { x with list := e :: x.list }

/-- The ticket of a cluster's first member, to be placed anew with the same team numbers. -/
def Team.again (t : Team) (first kills : Nat) : LEntry :=
  { launch := t.launch, grid := t.grid, desc := t.desc, kind := t.kind, next := first / t.desc.teams, bound := first / t.desc.teams + 1, kills := kills }

/-- A team killed by an uncorrected error of its core's scratchpad takes its cluster with it; one ECCKILL record tells the
relaunch count. An idempotent launch's ticket is put back, until its fourth kill. Where some members had exited before, of whom R120 says
nothing, the whole ticket runs again, and the counter rises by those members, which it has counted down. DESIGN CHOICE, log entry 25. -/
def State.killCluster (s : State) (t : Nat) : State :=
  let tm := s.team t
  if tm.st != .resident then s
  else
    let ms := s.members t
    let l := tm.launch
    let kills := tm.kills + 1
    let back : Bool := (s.launch l).idemp && kills < 4
    let first := ms.foldl (fun n m => min n (s.team m).number) tm.number
    let s := s.launchRec l 8 (unit := tm.core) (detail := if back then kills else kills - 1)
    let s := if back then (s.relist (dieOf tm.core) (tm.again first kills)).addCount l (tm.desc.teams - ms.length) else s.blame l .killed
    ms.foldl (fun s m => if back then (s.updTeam m fun t => { t with mesh := none }).endTeam m 0 else s.endTeam m 1) s

/-! ## Fencing (R68) -/

/-- Kills the teams that meet a test. -/
def State.killTeams (s : State) (p : Nat → Team → Bool) : State :=
  (s.teams.filter fun (k, t) => t.st != .ended && p k t).foldl (fun s (k, t) => (s.blame t.launch .killed).endTeam k 1) s

/-- Something of a launch is lost with a die: `n` of its counter goes. -/
def State.lose (s : State) (l n : Nat) : State := if n == 0 then s else (s.blame l .killed).subCount l n

/-- A die's unclaimed tickets are dropped: listed, pending, and those of mesh teams (R121). -/
def State.dropTickets (s : State) (d : Nat) : State :=
  let x := s.die d
  let s := s.setDie d { x with list := [], pending := [], meshPending := [], resume := [] }
  let s := (x.list ++ x.meshPending).foldl (fun s e => s.lose e.launch (e.left * e.desc.teams)) s
  x.pending.foldl (fun s tk => s.lose tk.launch tk.desc.teams) s

/-- A die's copy and task jobs end; a task that was armed is idle again. -/
def State.dropJobs (s : State) (d : Nat) : State :=
  (s.die d).jobs.foldl (fun s j =>
    if j.ended then s
    else
      let s := if j.task then s.updCtx j.ctx fun x => { x with tasks := x.tasks.map fun (n, k) =>
          (n, if k.st == .armed && k.die == d && k.job == j.id then { k with st := .idle, status := 4, packet := [] } else k) } else s
      (s.blame j.launch .killed).endJob d j false) s

/-- The requests and queries of a quartet end. -/
def State.dropQuartet (s : State) (q : Nat) : State :=
  let x := s.quartet q
  let s := x.requests.foldl (fun s r => (s.blame r.launch .killed).endReq q r) s
  (x.queue ++ x.slots.vals).foldl (fun s k => (s.blame k.launch .killed).closeQuery q k 5) s

/-- The posted operations of a core are dropped. -/
def State.dropPosts (s : State) (n : Nat) : State :=
  let ps := (s.core n).posts
  let s := s.updCore n fun c => { c with posts := [] }
  ps.foldl (fun s p =>
    let s := if p.op.locs.any isChip then s.unowe p.team else s
    s.lose p.launch 1) s

/-- Triangles from and to a die are dropped with its payload slots, packs and pixels (R295). -/
def State.dropRender (s : State) (d : Nat) : State :=
  let x := s.die d
  let s := s.setDie d { x with slots := [], tris := [], packs := [], pixels := [] }
  let s := x.slots.foldl (fun s (_, p) => if p.held && p.taker.isNone then s.lose p.launch 1 else s) s
  let s := x.pixels.foldl (fun s p => s.lose p.launch 1) s
  let s := x.packs.foldl (fun s p => (s.blame p.launch .killed).triDone p.src p.slot p.tris.length) s
  ((List.range 8).filter (· != d)).foldl (fun s k =>
    let y := s.die k
    let s := s.setDie k { y with tris := y.tris.filter fun t => t.dst != d, packs := y.packs.filter fun p => p.src != d }
    (y.tris.filter fun t => t.dst == d).foldl (fun s t => (s.blame t.launch .killed).triDone k t.slot 1) s) s

/-- The clients that stand on a die. -/
def onDie (d : Nat) (x : Client) : Bool :=
  match x with
  | .frag c _ => dieOf c == d
  | .job k _ | .pixel k _ => k == d
  | .matrix q _ | .query q _ => q / 10 == d
  | _ => false

/-- A leaf has acknowledged an invalidation, which completes with its last leaf (R67). -/
def State.ackInval (s : State) (itag leaf : Nat) : State :=
  match s.link.invals.find? fun i => i.itag == itag with
  | none => s
  | some i =>
    let rest := i.leaves.filter (· != leaf)
    if rest.isEmpty then
      (s.updLink fun l => { l with invals := l.invals.filter fun j => j.itag != itag }).send (.invalCompletion itag)
    else s.updLink fun l => { l with invals := l.invals.map fun j => if j.itag == itag then { j with leaves := rest } else j }

/-- A leaf counts as having acknowledged every outstanding invalidation. -/
def State.ackAll (s : State) (leaf : Nat) : State := s.link.invals.foldl (fun s i => s.ackInval i.itag leaf) s

/-- Pre-emption requests no longer wait for the cores of a die. -/
def State.reachedDie (s : State) (d : Nat) : State :=
  s.launches.foldl (fun s (l, x) =>
    if x.request then (s.updLaunch l fun y => { y with reqCores := y.reqCores.filter fun n => dieOf n != d }).checkPreempt l else s) s

/-- Fences a die: its units stop, its caches of translations are cleared, its teams and those whose images it holds are killed,
its tickets and everything else of a launch on it is dropped, its status bit, the log entry and the DIEFENCE records are
written, and it counts as having acknowledged whatever it has not. -/
def State.fenceDie (s : State) (d : Nat) : State :=
  if (s.die d).fenced then s
  else
    let s := s.updDie d fun x => { x with fenced := true, tc := [], past := [], ats := [], answers := [], l2 := [], llc := [] }
    let s := s.updMgmt fun m => { m with fenced := m.fenced ||| BitVec.ofNat 8 (2 ^ d) }
    let s := (s.logError (0x8000 + d) 0 0 7).mgmtEvent
    let s := s.ctxs.foldl (fun s (c, x) => if x.st == .free then s else s.errRec c { kind := 1, unit := 0x8000 + d }) s
    let s := s.killTeams fun _ t => if t.st == .resident then dieOf t.core == d else t.imageDie == d
    let s := s.dropTickets d
    let s := s.dropRender d
    let s := s.dropJobs d
    let s := ((List.range 10).map fun k => d * 10 + k).foldl (fun s q => s.dropQuartet q) s
    let s := (coresOf d).foldl (fun s n => (s.dropPosts n).updCore n fun c => { c with tc := [], l1 := [], icache := [] }) s
    let s := s.dropClients (onDie d)
    let s := (s.ackAll d).reachedDie d
    s.ctxs.keys.foldl (fun s c => s.scopeAck c d false) s

end Machine
end Sys2Proof
end

