-- ==== Sys2Proof/Machine/Save.lean ====
section
/-! DEFINITION. Pre-emption: requests and victims (R94, R95), stop points and saves (R158, R159, R171, R309 to R313), the
swap-out of waiting teams (R419), and idempotent regions (R161). -/

namespace Sys2Proof
namespace Machine

/-! ## Requests and victims (R94) -/

/-- A launch has a team resident on a core. -/
def State.running (s : State) (l : Nat) : Bool := s.teams.any fun (_, t) => t.launch == l && t.st == .resident

/-- Requests the pre-emption of a launch, which is multicast to the cores of the dies in service; a launch without a resident
team resolves it at once. -/
def State.requestPreempt (s : State) (l : Nat) : State :=
  let x := s.launch l
  if x.complete || x.request then s
  else
    let cores := s.liveDies.flatMap coresOf
    let s := s.updLaunch l fun y => { y with request := true, savedTeams := 0, reqCores := cores }
    let s := s.updCtx x.ctx fun y => { y with pending := true }
    if s.running l then s else (s.updLaunch l fun y => { y with reqCores := [] }).resolvePreempt l

/-- The victim for a waiting seed: the running launch of the lowest PRIO below the seed's that has no open request (R491), the one
dispatched last among equals. -/
def State.victimFor (s : State) (seed : Nat) : Option Nat :=
  let prio (l : Nat) : Nat := (s.ctx (s.launch l).ctx).prio.toNat
  let ls := (s.launches.filter fun (l, x) => !x.complete && !x.request && s.running l && prio l < prio seed).map Prod.fst
  bestBy (fun a b => prio a < prio b || (prio a == prio b && (s.launch b).order < (s.launch a).order)) ls

/-- While a seed waits that fits nowhere, Woad requests the pre-emption of its victim, unless the one it has chosen for that seed is
unresolved (R94, R95). -/
def State.chooseFor (s : State) (tk : Ticket) : State :=
  if s.launches.any (fun (_, x) => x.request && x.forSeed == some tk.launch) || (s.offerSeed tk s.woad.seedPtr).isSome then s
  else match s.victimFor tk.launch with
    | some l => (s.updLaunch l fun x => { x with forSeed := some tk.launch }).requestPreempt l
    | none => s

/-- Chooses a victim for each waiting seed, in the order in which Woad offers them. -/
def chooseAll : Nat → List Ticket → State → State
  | 0, _, s => s
  | n + 1, ts, s =>
    match bestBy (fun a b => s.before a.launch b.launch) ts with
    | none => s
    | some tk => chooseAll n (ts.filter fun x => x.launch != tk.launch) (s.chooseFor tk)

/-- Victims for the seeds that wait. -/
def State.chooseVictim (s : State) : State := chooseAll s.woad.seeds.length s.woad.seeds s

/-- PREEMPT_ARRIVAL (R94, R419): a request reaches a core: the launch's teams there are to save; a swapped-out team of the core
counts as saved. Input: unit the core, item the launch. -/
def execPreemptArrival (s : State) : Host.Outcome State Fault Refusal :=
  let n := s.inp.unit
  let l := s.inp.item
  .next (if (s.launch l).request && (s.launch l).reqCores.contains n then
    let out := (s.teams.filter fun (_, t) => t.launch == l && t.core == n && t.st == .saved && t.swapOut).length
    let s := s.updLaunch l fun x => { x with reqCores := x.reqCores.filter (· != n), savedTeams := x.savedTeams + out }
    let ask (t : Team) : Team := if t.launch == l && t.core == n && t.st == .resident then { t with preempt := true } else t
    let s := { s with teams := s.teams.map fun (k, t) => (k, ask t) }
    s.checkPreempt l
  else s)

/-! ## Stop points (R158) -/

/-- A fragment is at a stop point. -/
def Frag.stopped (f : Frag) : Bool :=
  f.trap.isNone &&
  match f.st with
  | .ystop | .rcvwait | .ffwait | .splitwait | .xlate => true
  | .syncwait => (match f.wait.kind with
    | .barrier | .waitc | .copy | .taskDone | .payload | .emit => true
    | _ => false)
  | _ => false

/-- A wave may be saved: its fragments are at stop points and its results have returned. A debugger's halt that finds no
fragment in YSTOP holds the save up (R313). -/
def Core.waveStopped (c : Core) (slot : Nat) : Bool :=
  let w := c.wave slot
  let fs := (c.fragsOf slot).map Prod.snd
  w.owed.isEmpty && w.pend.isEmpty && fs.all (fun f => f.stopped && f.board.isEmpty) && (!w.haltReq || fs.any fun f => f.st == .ystop)

/-- The engine requests of a team that count as outstanding results (R256, R284). -/
def State.engineWork (s : State) (t : Nat) : Bool :=
  s.quartets.any fun (_, q) => q.requests.any (fun r => r.team == t) || (q.queue ++ q.slots.vals).any fun k => k.team == t

/-- A team may be saved: its waves are stopped, its engine requests have completed, and nothing it has posted waits for a peer. -/
def State.teamStopped (s : State) (t : Nat) : Bool :=
  let tm := s.team t
  let c := s.core tm.core
  tm.st == .resident && !tm.saving && tm.reattach.isEmpty && tm.segmiss.isNone && tm.slots.vals.all c.waveStopped && !s.engineWork t &&
    !s.hindered tm.core (fun p => p.team == t) && tm.attach.all fun (a : Attach) => !s.segBusy t tm.ctx a.handle s.nextId

/-! ## Saving (R159, R171, R189, R309) -/

/-- The team gives up an attachment as by SEGDET; its name and nesting count stay recorded. -/
def State.releaseAttach (s : State) (t : Nat) (a : Attach) : State := (s.segDrain t a.handle).dirOp.detach t a.handle

/-- What memory holds in a range of locations: cells, empty granules, poison. -/
def Mem.part (m : Mem) (lo hi : Nat) : List Host.Cell × List Nat × List Nat :=
  let mine (a : Nat) : Bool := lo ≤ a && a < hi
  (m.cells.filter fun (a, _) => mine a, m.empties.keys.filter fun g => mine (g * 16), m.poison.keys.filter mine)

/-- A saved team's storage is written to its image and freed, once no posted job or operation holds an address in it (R170, R171). -/
def State.finishStorage (s : State) (t : Nat) : State :=
  let tm := s.team t
  if tm.st == .saved && tm.storage && tm.owed == 0 then
    let s := s.writeImage t (tm.image - s.storageSize t) (s.imageStorage t)
    let (cells, empties, bad) := s.mem.part (teamLoc t) (tileLoc t 0 0)
    (s.updTeam t fun x => { x with savedCells := cells ++ x.savedCells, savedEmpties := empties ++ x.savedEmpties,
                                   savedPoison := bad ++ x.savedPoison }).clearStorage t
  else s

/-- Every saved team whose jobs have ended has its storage saved. -/
def State.settleSaved (s : State) : State :=
  s.teams.foldl (fun s (t, x) => if x.st == .saved && x.storage && x.owed == 0 then s.finishStorage t else s) s

/-- Saves one team: its operations are performed and its core's writes raised, its image is written and its attachments released, its
tiles, waves, fragments and storage are taken from the core, and its demand returns to the board. `keep` leaves its monitors armed (R419). -/
def State.saveTeam (s : State) (t : Nat) (keep : Bool) : State :=
  let tm := s.team t
  let s := (s.performWhere tm.core fun p => p.team == t).cleanCore tm.core 4 fun _ => true
  let s := s.writeImage t 0 (s.imageHead t)
  let s := tm.attach.foldl (fun s a => s.releaseAttach t a) s
  let c := s.core tm.core
  let ws := tm.slots.vals.map fun k => ({ wave := c.wave k, frags := (c.fragsOf k).map Prod.snd } : SavedWave)
  let (cells, empties, bad) := s.mem.part (tileLoc t 0 0) (teamLoc (t + 1))
  let arm (m : Monitor) : Monitor := if m.team == t then { m with saved := true } else m
  let s := if keep then { s with dies := s.dies.map fun (k, d) => (k, { d with monitors := d.monitors.map arm }) } else s.dropMonitors t
  let s := (s.leaveCore tm.core tm.slots.vals).updCore tm.core fun c => tm.slots.vals.foldl Core.removeWave c
  let s := (s.returnDemand t).dropTaken t
  let s := s.updTeam t fun x =>
    { x with st := .saved, saved := ws, savedCells := cells, savedEmpties := empties, savedPoison := bad,
             slots := [], attach := tm.attach, preempt := false, saving := false, swapOut := keep }
  let s := { s with mem := s.mem.clear (tileLoc t 0 0) (teamLoc (t + 1)) }
  let s := s.finishStorage t
  let s := s.updDie (dieOf tm.core) fun d => { d with resume := if keep then d.resume else d.resume ++ [t] }
  s.updLaunch tm.launch fun x => { x with savedTeams := if x.request && !keep then x.savedTeams + 1 else x.savedTeams }

/-- A team that is not saved runs on from its YLD. -/
def State.runOn (s : State) (t : Nat) : State :=
  let tm := s.team t
  tm.slots.vals.foldl (fun s k => s.updCore tm.core fun c => ((c.wave k).order).foldl (fun c e => c.updFrag e fun f =>
    if f.st == .ystop then { f with st := f.runSt } else f) c) s

/-- The members of a team's cluster are all to save and all stopped. -/
def State.clusterStopped (s : State) (t : Nat) : Bool := (s.members t).all fun m => s.asked m && s.teamStopped m

/-- TEAM_SAVE (R158, R309): every member of the cluster is stopped, and the agent begins to write their images; where these do
not fit into the die's reserve, the teams run on and count as not saved. Input: item the team. -/
def execTeamSave (s : State) : Host.Outcome State Fault Refusal :=
  let t := s.inp.item
  let tm := s.team t
  .next (if tm.st != .resident || !(tm.preempt || s.drains t) || !s.clusterStopped t then s
  else
    let ms := s.members t
    let d := dieOf tm.core
    match s.fitsReserve d ms with
    | none =>
      let s := ms.foldl (fun s m => (s.runOn m).updTeam m fun x => { x with preempt := false }) s
      s.checkPreempt tm.launch
    | some at_ =>
      let s := ms.foldl (fun s m => s.updTeam m fun x => { x with saving := true }) s
      (s.takeReserve d at_).push [.event .teamSaveDone { unit := d, item := t }])

/-- TEAM_SAVE_DONE (R171, R312): the images of the cluster are written, the storage is freed, and the teams become resume
tickets; the request may now be resolved. Input: item the team. -/
def execTeamSaveDone (s : State) : Host.Outcome State Fault Refusal :=
  let t := s.inp.item
  let tm := s.team t
  .next (if tm.st != .resident || !tm.saving then s
  else
    (((s.members t).filter fun m => (s.team m).saving).foldl (fun s m => s.saveTeam m false) s).checkPreempt tm.launch)

/-- Saves the teams of a cluster in one go, their images at the given places. -/
def State.saveAll (s : State) (d : Nat) (at_ : List (Nat × Nat)) (keep : Bool) : State :=
  at_.foldl (fun s (m, _) => s.saveTeam m keep) (s.takeReserve d at_)

/-- RETIREMENT_SAVE (R118, R313): at its yield point a team on a retiring unit is saved, to be bound anew where it resumes;
where no room is found it runs on, and the save is tried again at its next yield point. Input: item the team. -/
def execRetirementSave (s : State) : Host.Outcome State Fault Refusal :=
  let t := s.inp.item
  let tm := s.team t
  .next (if tm.st != .resident || tm.preempt || !s.mustMove t || !s.clusterStopped t then s
  else
    let ms := s.members t
    let d := dieOf tm.core
    let stay := ms.foldl (fun s m => s.runOn m) s
    match s.fitsReserve d ms with
    | none => stay
    | some at_ =>
      let s := s.saveAll d at_ false
      if (s.usableDies tm.ctx).any fun k => (s.chooseResume t k).isSome then s.checkPreempt tm.launch else stay)

/-- Every fragment of a team has waited at WAITC for 65,536 cycles, and none of its lanes reads again on a timer. -/
def State.longWait (s : State) (t : Nat) : Bool :=
  let tm := s.team t
  let c := s.core tm.core
  tm.slots.vals.all fun k => (c.fragsOf k).all fun (_, f) =>
    f.st == .syncwait && f.wait.kind == .waitc && 65536 ≤ f.since && f.wait.gran.vals.all (· != 0)

/-- WAITC_SWAP_OUT (R419): a team that only waits is saved, with its cluster, its monitors left armed. Input: unit the core,
item a fragment entry of it. -/
def execWaitcSwapOut (s : State) : Host.Outcome State Fault Refusal :=
  let w := s.whoAt s.inp.unit s.inp.item
  let ms := s.members w.team
  .next (if (s.team w.team).st == .resident && !ms.isEmpty && ms.all (fun m => s.longWait m && s.teamStopped m) then
    match s.fitsReserve w.die ms with
    | none => s
    | some at_ => s.saveAll w.die at_ true
  else s)

/-! ## Idempotent regions (R161, R444) -/

/-- Free words from the state's counter. -/
def State.takeWords (s : State) (n : Nat) : (Nat → Word) × State :=
  (fun i => Config.freeWord (s.free + i), { s with free := s.free + n })

/-- A stream register of a lane from free words. -/
def freeStrm (free : Nat → Word) (k : Nat) : Strm :=
  let x (i : Nat) : Word := free (k + i)
  { isOpen := (x 0).getLsbD 0, indirect := (x 0).getLsbD 1, fmt := ((x 0).extractLsb' 2 4).toNat, pol := (x 0).extractLsb' 6 2,
    a := x 1 ++ x 2, b := x 3 ++ x 4, bound := x 5, pos := x 6 }

/-- A wave runs its region again: one fragment of its live lanes at the entry, the masked registers as they stood, and every
other register unspecified, which is a free value: stream registers, %fpmode and %fpflags too. -/
def Wave.rerun (w : Wave) (r : Region) (free : Nat → Word) (e : Nat) : Wave :=
  let g := (List.range 64).foldl (fun t i => Tbl.set t i (if r.mask.getLsbD i then r.saved.getD i 0 else free i)) ([] : Tbl Word)
  let v := (List.range w.vregs).foldl (fun t i => (List.range w.lanes).foldl (fun t l => Tbl.set t (i * 64 + l) (free (64 + i * 64 + l))) t)
    ([] : Tbl Word)
  let p := (List.range 7).foldl (fun t i => Tbl.set t (i + 1) (free (8256 + 2 * i) ++ free (8257 + 2 * i))) ([] : Tbl Mask)
  let st := (List.range 16).foldl (fun t n => (List.range w.lanes).foldl (fun t l => Tbl.set t (n * 64 + l) (freeStrm free (8273 + (n * 64 + l) * 7))) t)
    ([] : Tbl Strm)
  { w with g := g, v := v, p := p, q := (free 8270).extractLsb' 0 8 &&& 0xFE, fpmode := (free 8271 &&& 0x1F00) + BitVec.ofNat 32 ((free 8271).toNat % 6),
           fpflags := free 8272 &&& 0x7F, streams := st,
           pend := [], order := [e], owed := [], lateV := [], lateG := [], badV := [], badG := [], badP := [], badQ := false, badS := [] }

/-- IDR_PREEMPT (R161, R162): a privileged wave inside its region is pre-empted, its results discarded and its fragments made
one, and it runs again from the region's entry. Input: unit the core, item the wave slot. -/
def execIdrPreempt (s : State) : Host.Outcome State Fault Refusal :=
  let c := s.core s.inp.unit
  let w := c.wave s.inp.item
  .next (match w.region, w.order with
  | some r, e :: rest =>
    if !w.priv || c.mode == .service then s
    else
      let (free, s) := s.takeWords 15441
      let fs := (e :: rest).map c.frag
      let f : Frag := { pc := r.entry, mask := w.live, slot := s.inp.item, st := .run, budget := (fs.map fun f => f.budget).foldl min (c.frag e).budget }
      let s := s.leaveCore s.inp.unit [s.inp.item]
      s.updCore s.inp.unit fun c => ((rest.foldl Core.freeFrag c).updFrag e fun _ => f).updWave s.inp.item fun w => w.rerun r free e
  | _, _ => s)

end Machine
end Sys2Proof
end

