-- ==== Sys2Proof/Machine/UniSys.lean ====
section
/-! DEFINITION. Special registers and roles: MFS, MTS and ROLE (R129, R304, R337, R362, R363, R456, R457). -/

namespace Sys2Proof
namespace Machine

/-- Number of a core mode (Table 6.3). -/
def modeCode : CoreMode → Nat
  | .service => 0 | .startUp => 1 | .selfTest => 2 | .recovery => 3

/-- PRIV (R301). -/
def privTrap (m : Mask) : Trap := { code := 2, lanes := m }
/-- ILLOP for a reserved field. -/
def rsvTrap (m : Mask) : Trap := { code := 1, cause := 3, lanes := m }

/-- The special registers whose value a read returns at once. -/
def State.srn (s : State) (w : Who) (n : Nat) : Word :=
  let wv := s.wave w
  let tm := s.team w.team
  let c := s.core w.core
  match n with
  | 0x010 => BitVec.ofNat 32 wv.lanes
  | 0x011 => BitVec.ofNat 32 tm.number
  | 0x012 => BitVec.ofNat 32 wv.idx
  | 0x013 => BitVec.ofNat 32 tm.role
  | 0x014 => BitVec.ofNat 32 w.entry
  | 0x015 => BitVec.ofNat 32 (modeCode c.mode)
  | 0x016 => BitVec.ofNat 32 (s.frag w).budget
  | 0x018 => if wv.som then 1 else 0
  | 0x019 => BitVec.ofNat 32 wv.fuseTo
  | 0x01A => BitVec.ofNat 32 c.missThresh
  | 0x020 => wv.fpmode
  | 0x021 => wv.fpflags
  | _ => 0

/-- The index of a register %mdn. -/
def mdIndex (n : Nat) : Option Nat := if 0x100 ≤ n && n < 0x120 then some (n - 0x100) else none

/-- MFS: %cyclelo, %cyclehi, %mhalt, %minvlo and %minvhi return later (R362). -/
def execMfs (f : UForm) (s : State) :=
  uniOp (.mfs f) f { c := f.srn == 0x040 } (fun e s w =>
    let fr := s.frag w
    let wv := s.wave w
    let n := f.srn
    let gd := f.gd.toNat
    let give (s : State) (x : Word) : Flow := .done (s.updWave w fun wv => wv.setG gd x)
    let cyc : BitVec 64 := BitVec.ofNat 64 (s.core w.core).cycle
    match mdIndex n with
    | some k =>
      if !s.owns w k then .trap s { code := 5, lanes := fr.mask }
      else if s.tileWritten w.team k then .hold s
      else give s (s.shapeReg w.team k)
    | none =>
      match n with
      | 0x022 => if wv.priv then give s ((s.core w.core).pipe wv.pipe).sr else .trap s (privTrap fr.mask)
      | 0x028 => .done ((s.updWave w fun wv => { wv with cyclehi := cyc.extractLsb' 32 32 }).laterG w [(gd, cyc.extractLsb' 0 32)])
      | 0x029 => .done (s.laterG w [(gd, wv.cyclehi)])
      | 0x030 => .done (s.laterG w [(gd, BitVec.ofNat 32 (s.team w.team).mhalt)])
      | 0x031 => .done (s.laterG w [(gd, s.invBits w.team 0)])
      | 0x032 => .done (s.laterG w [(gd, s.invBits w.team 16)])
      | 0x040 =>
        match fr.trap with
        | none => .trap s (privTrap fr.mask)
        | some r => give s (r.word (wv.greg e.src3.toNat).toNat)
      | _ => give s (s.srn w n)) s

/-- The reserved bits of a special register, and the codes %fpmode refuses (R129, R337, R363). -/
def srnReserved (n : Nat) (x : Word) : Bool :=
  match n with
  | 0x018 => x.extractLsb' 1 31 != 0
  | 0x019 | 0x01A => x.extractLsb' 16 16 != 0
  | 0x020 => x.extractLsb' 0 3 == 6 || x.extractLsb' 0 3 == 7 || x.extractLsb' 3 5 != 0 || x.extractLsb' 13 19 != 0
  | 0x021 => x.extractLsb' 7 25 != 0
  | _ => false

/-- The reserved bits of word i of a trap record (Table 12.2). -/
def trapReserved (i : Nat) (x : Word) : Bool :=
  match i with
  | 0 => x.extractLsb' 20 12 != 0
  | 3 => x.extractLsb' 7 25 != 0
  | 11 => x.extractLsb' 0 2 != 0
  | 20 | 21 => x != 0
  | _ => false

/-- MTS. -/
def execMts (f : UForm) (s : State) :=
  uniOp (.mts f) f { c := f.srn == 0x040 } (fun e s w =>
    let fr := s.frag w
    let wv := s.wave w
    let n := f.srn
    let x := wv.greg f.gd.toNat
    let wave (g : Wave → Wave) : Flow := if srnReserved n x then .trap s (rsvTrap fr.mask) else .done (s.updWave w g)
    match mdIndex n with
    | some k =>
      if !s.owns w k then .trap s { code := 5, lanes := fr.mask }
      else if s.tileUsed w.team k then .hold s
      else .done ((s.updTeam w.team fun t => { t with shapes := t.shapes.put k x 0 }).setInv w.team k 0)
    | none =>
      match n with
      | 0x018 => wave fun wv => { wv with som := x.getLsbD 0 }
      | 0x019 => wave fun wv => { wv with fuseTo := x.toNat }
      | 0x020 => wave fun wv => { wv with fpmode := x }
      | 0x021 => wave fun wv => { wv with fpflags := x }
      | 0x01A =>
        if !wv.priv then .trap s (privTrap fr.mask)
        else if srnReserved n x then .trap s (rsvTrap fr.mask)
        else .done (s.updCore w.core fun c => { c with missThresh := x.toNat })
      | 0x022 =>
        if !wv.priv then .trap s (privTrap fr.mask)
        else if x == 0 then .done s
        else .done (s.updCore w.core fun c => { c with pipes := c.pipes.set wv.pipe { c.pipe wv.pipe with sr := x } })
      | _ =>
        match fr.trap with
        | none => .trap s (privTrap fr.mask)
        | some r =>
          let i := (wv.greg e.src3.toNat).toNat
          if trapReserved i x then .trap s (rsvTrap fr.mask)
          else .done (s.updFrag w fun f => { f with trap := some (r.setWord i x) })) s

/-- ROLE: VALID in bit 31 and the unit number; an invalid entry reads as 0. -/
def execRole (f : UForm) (s : State) :=
  uniOp (.role f) f {} (fun _ s w =>
    let x : Word := match s.roleOf w (f.ga.toNat % 32) with
      | some u => BitVec.ofNat 32 (2 ^ 31 + u % 2 ^ 15)
      | none => 0
    .done (s.updWave w fun wv => wv.setG f.gd.toNat x)) s

end Machine
end Sys2Proof
end

