-- ==== Sys2Proof/Machine/Debug.lean ====
section
/-! DEFINITION. The debugger's commands (R315, R316). Each acts for the context `unit` of the input under its DBG_SEL, once function 1 is
there (R26). -/

namespace Sys2Proof
namespace Machine

/-! ## Halts -/

/-- The wave that DBG_SEL names, when it is one of the context. -/
def State.dbgWave (s : State) (c : Nat) : Option Wave :=
  let x := (s.ctx c).dbg
  ((s.core x.core).waves.get? x.slot).filter fun w => !w.priv && (s.team w.team).st == .resident && (s.team w.team).ctx == c

/-- A command is refused: ERR is set. -/
def State.dbgErr (s : State) (c : Nat) : State := s.updCtx c fun x => { x with dbg := { x.dbg with err := true } }

/-- A halt stops each fragment of the wave before its next issue; a resume clears it. -/
def State.haltSel (s : State) (c : Nat) (h : Bool) : State :=
  match s.dbgWave c with
  | none => s.dbgErr c
  | some _ =>
    let x := (s.ctx c).dbg
    s.updCore x.core fun k => k.updWave x.slot fun w => { w with haltReq := h }

/-- Every wave of a context. -/
def State.haltAll (s : State) (c : Nat) (h : Bool) : State :=
  (s.teams.filter fun (_, t) => t.ctx == c && t.st == .resident).foldl (fun s (_, t) =>
    t.slots.vals.foldl (fun s k => s.updCore t.core fun x => x.updWave k fun w => { w with haltReq := h }) s) s

/-- A command of the debugger, of no effect before the hand-off. -/
def State.command (s : State) (f : State → State) : Host.Outcome State Fault Refusal := .next (if s.mgmt.ready then f s else s)

/-- HALT_WAVE (R316): OP 1. -/
def execHaltWave (s : State) : Host.Outcome State Fault Refusal := s.command fun s => s.haltSel s.inp.unit true
/-- RESUME_WAVE (R316): OP 2. -/
def execResumeWave (s : State) : Host.Outcome State Fault Refusal := s.command fun s => s.haltSel s.inp.unit false
/-- HALT_CONTEXT (R316): OP 3. -/
def execHaltContext (s : State) : Host.Outcome State Fault Refusal := s.command fun s => s.haltAll s.inp.unit true
/-- RESUME_CONTEXT (R316): OP 4. -/
def execResumeContext (s : State) : Host.Outcome State Fault Refusal := s.command fun s => s.haltAll s.inp.unit false

/-! ## Objects (Tables 7.5, 8.2, 8.3, 12.2, 12.4) -/

/-- Parts of OBJ 0 before g0: the two headers, then fragment entries and frames. -/
def State.headBytes (s : State) (core slot : Nat) : List Byte :=
  let c := s.core core
  s.headerBytes (c.wave slot).team ++ c.waveHeader slot ++ pad64 (c.fragBytes slot)

/-- A directory entry (Table 7.5). -/
def Seg.image (g : Seg) : BitVec 256 :=
  let st : Nat := match g.st with
    | .released => 0 | .declared => 1 | .resident => 2 | .evicted => 3
  let b (x : Bool) : BitVec 1 := bit1 x
  g.name ++ BitVec.ofNat 32 g.size ++ g.detstamp ++ BitVec.ofNat 16 g.home ++ BitVec.ofNat 4 g.hcols ++ BitVec.ofNat 3 g.hrows ++
    BitVec.ofNat 2 g.level ++ BitVec.ofNat 2 st ++ b g.pin ++ b g.dying ++ b g.busy ++ b g.noevict ++ BitVec.ofNat 13 g.attach ++
    g.syncseq ++ (0 : BitVec 20)

/-- A scope-table entry (Table 8.2). -/
def ScopeEntry.image (e : ScopeEntry) : BitVec 384 :=
  e.cores ++ e.gen ++ e.l2mask ++ bit1 e.llc ++ bit1 e.hostfab ++ bit1 e.valid ++ (0 : BitVec 45)

/-- A region-binding entry (Table 8.3). -/
def Binding.image (b : Binding) : BitVec 256 :=
  b.base ++ b.sync ++ BitVec.ofNat 40 b.len ++ b.scope ++ bit1 b.valid ++ (0 : BitVec 82)

/-- The bytes of the object that DBG_SEL names; none where it is not there or may not be read. -/
def State.dbgObj (s : State) (c : Nat) : Option (List Byte) :=
  let x := (s.ctx c).dbg
  match x.obj with
  | 0 => (s.dbgWave c).bind fun w => if w.halted then some (s.headBytes x.core x.slot ++ w.gBytes ++ pad64 w.pBytes) else none
  | 1 => (s.dbgWave c).bind fun w => if w.halted then some w.vBytes else none
  | 2 => (s.dbgWave c).bind fun w =>
    if w.halted && w.order.contains x.index then
      (((s.core x.core).frag x.index).trap).map fun r => (List.range (32 + 16 * r.snaps.length)).flatMap fun i => natBytes 4 (r.word i).toNat
    else none
  | 3 => if x.index < 1024 then some (natBytes 32 ((s.ctx c).segs.getD x.index {}).image.toNat) else none
  | 4 => if x.index < 32 then some (natBytes 48 ((s.ctx c).scopes.getD x.index {}).image.toNat) else none
  | 5 => if x.index < 256 then some (natBytes 32 ((s.ctx c).binds.getD x.index {}).image.toNat) else none
  | _ => none

/-- DBG_READ (R316): OP 5: the selected page goes to DBG_DATA. -/
def execDbgRead (s : State) : Host.Outcome State Fault Refusal :=
  let c := s.inp.unit
  s.command fun s => (match s.dbgObj c with
  | none => s.dbgErr c
  | some bs =>
    let p := (s.ctx c).dbg.page
    if bs.length ≤ p * 1024 then s.dbgErr c
    else
      let page := (bs.drop (p * 1024)).take 1024
      s.updCtx c fun x => { x with dbg := { x.dbg with data := page ++ List.replicate (1024 - page.length) 0 } })

/-- Word i of the page of DBG_DATA, where the page covers byte `o` of the object. -/
def Dbg.byteAt (x : Dbg) (o : Nat) : Option Byte := if x.page * 1024 ≤ o && o < (x.page + 1) * 1024 then some (x.data.getD (o - x.page * 1024) 0) else none

/-- A register word written from the page. -/
def Dbg.wordAt (x : Dbg) (o : Nat) : Option Word :=
  match x.byteAt o, x.byteAt (o + 1), x.byteAt (o + 2), x.byteAt (o + 3) with
  | some a, some b, some c, some d => some (BitVec.ofNat 32 (leNat [a, b, c, d]))
  | _, _, _, _ => none

/-- The page replaces the uniform registers and predicates it covers, which begin at byte `o` of the object. -/
def Wave.dbgSet (w : Wave) (x : Dbg) (o : Nat) : Wave :=
  let w := (List.range 64).foldl (fun w i => match x.wordAt (o + 4 * i) with
    | some v => w.setG i v
    | none => w) w
  (List.range w.lanes).foldl (fun w l => match x.byteAt (o + 256 + l) with
    | some b => (List.range 7).foldl (fun w i => w.setPreds (i + 1) (laneBit l) (if b.getLsbD (i + 1) then laneBit l else 0)) w
    | none => w) w

/-- The page replaces the vector registers it covers. -/
def Wave.dbgSetV (w : Wave) (x : Dbg) : Wave :=
  (List.range w.vregs).foldl (fun w i => (List.range w.lanes).foldl (fun w l => match x.wordAt (4 * (i * w.lanes + l)) with
    | some v => w.setV l i v
    | none => w) w) w

/-- DBG_WRITE (R316): OP 6: DBG_DATA goes into the registers and predicates of a halted wave that the page covers; a page that
holds none of them sets ERR. -/
def execDbgWrite (s : State) : Host.Outcome State Fault Refusal :=
  let c := s.inp.unit
  let x := (s.ctx c).dbg
  s.command fun s => (match s.dbgObj c with
  | none => s.dbgErr c
  | some bs =>
    let o := (s.headBytes x.core x.slot).length
    if bs.length ≤ x.page * 1024 || 2 ≤ x.obj || (x.obj == 0 && (x.page + 1) * 1024 ≤ o) then s.dbgErr c
    else
      s.updCore x.core fun k => k.updWave x.slot fun w => if x.obj == 0 then w.dbgSet x o else w.dbgSetV x)

end Machine
end Sys2Proof
end

