-- ==== Sys2Proof/Machine/Sha.lean ====
section
/-! DEFINITION. SHA-384, the hash of the firmware measurement (R27). The spec names the function alone; what it computes is FIPS 180-4's.
PRESUMED, log entry 10. -/

namespace Sys2Proof
namespace Machine

/-- The largest r below 2 ^ bits, above a start, with r ^ k at most n. -/
def rootFrom (k n : Nat) : Nat → Nat → Nat
  | 0, r => r
  | b + 1, r => rootFrom k n b (if (r + 2 ^ b) ^ k ≤ n then r + 2 ^ b else r)

/-- The primes below n. -/
def primesBelow (n : Nat) : List Nat := (List.range n).filter fun p => 2 ≤ p && (List.range p).all fun d => d < 2 || p % d != 0

/-- Round constants: 64 fraction bits of the cube roots of the first 80 primes. -/
def shaK : List (BitVec 64) := (primesBelow 410).map fun p => BitVec.ofNat 64 (rootFrom 3 (p * 2 ^ 192) 68 0)

/-- The first hash value of SHA-384: 64 fraction bits of the square roots of the ninth to sixteenth primes. -/
def sha384Init : List (BitVec 64) := ((primesBelow 54).drop 8).map fun p => BitVec.ofNat 64 (rootFrom 2 (p * 2 ^ 128) 68 0)

/-- Two rotations and a third, to be exclusive-ored. -/
def rot3 (x : BitVec 64) (a b : Nat) (c : BitVec 64) : BitVec 64 := x.rotateRight a ^^^ x.rotateRight b ^^^ c

/-- A number of n bytes from bytes, the first the most significant. -/
def beNat (l : List Byte) : Nat := l.foldl (fun x b => 256 * x + b.toNat) 0

/-- The message padded to blocks of 128 bytes. -/
def shaPad (m : List Byte) : List Byte :=
  let n := 8 * m.length
  m ++ [0x80] ++ List.replicate ((239 - m.length % 128) % 128) 0 ++ (List.range 16).map fun i => BitVec.ofNat 8 (n / 256 ^ (15 - i))

/-- The message schedule, newest word first, of a block's 16 words in the same order. -/
def schedule : Nat → List (BitVec 64) → List (BitVec 64)
  | 0, w => w
  | n + 1, w =>
    let at_ (i : Nat) : BitVec 64 := w.getD (i - 1) 0
    let x := rot3 (at_ 2) 19 61 (at_ 2 >>> 6) + at_ 7 + rot3 (at_ 15) 1 8 (at_ 15 >>> 7) + at_ 16
    schedule n (x :: w)

/-- One round on the eight working words. -/
def shaRound (h : List (BitVec 64)) (kw : BitVec 64) : List (BitVec 64) :=
  match h with
  | [a, b, c, d, e, f, g, k] =>
    let t1 := k + rot3 e 14 18 (e.rotateRight 41) + ((e &&& f) ^^^ (~~~ e &&& g)) + kw
    let t2 := rot3 a 28 34 (a.rotateRight 39) + ((a &&& b) ^^^ (a &&& c) ^^^ (b &&& c))
    [t1 + t2, a, b, c, d + t1, e, f, g]
  | h => h

/-- A block's words. -/
def blockWords (b : List Byte) : List (BitVec 64) := (List.range 16).map fun i => BitVec.ofNat 64 (beNat ((b.drop (8 * i)).take 8))

/-- The hash value after the blocks of a padded message; `n` bounds their number. -/
def shaBlocks (k : List (BitVec 64)) : Nat → List Byte → List (BitVec 64) → List (BitVec 64)
  | 0, _, h => h
  | n + 1, m, h =>
    if m.isEmpty then h
    else
      let w := (schedule 64 (blockWords m).reverse).reverse
      let r := (k.zipWith (· + ·) w).foldl shaRound h
      shaBlocks k n (m.drop 128) (h.zipWith (· + ·) r)

/-- SHA-384 of bytes: the digest as a number, its first byte the most significant. -/
def sha384 (m : List Byte) : BitVec 384 :=
  let p := shaPad m
  BitVec.ofNat 384 (((shaBlocks shaK (p.length / 128) p sha384Init).take 6).foldl (fun x w => x * 2 ^ 64 + w.toNat) 0)

end Machine
end Sys2Proof
end

