-- ==== Sys2Proof/Machine/Rank.lean ====
section
/-! DEFINITION. Rank programs (R82, R83): what the enable checks, and a run over a packet. -/

namespace Sys2Proof
namespace Machine

/-- A guard of an extension word is q0 with sense 0. -/
def openGuard (x : Option EMod) : Bool :=
  match x with
  | none => true
  | some e => e.guard == 0 && !e.gsense

/-- An instruction that a rank program may hold. -/
def rankAllows : Instr → Bool
  | .gadd f | .gsub f | .gmul f | .gand f | .gor f | .gxor f | .gshl f | .gshr f | .gmov f | .gld f | .nop f | .exit f => openGuard f.ext
  | .gaddI _ | .gsubI _ | .gmulI _ | .gandI _ | .gorI _ | .gxorI _ | .gshlI _ | .gshrI _ | .gldI _ | .gmovi _ => true
  | _ => false

/-- An instruction is EXIT. -/
def isExit : Instr → Bool
  | .exit _ => true
  | _ => false

/-- The shape under which a rank program's words decode: its instructions name uniform registers alone. -/
def rankShape : WaveShape := { vregs := 128, lanes := 64 }

/-- The instructions of a rank program up to its first EXIT, none where a checked word is not allowed. -/
def rankParse : Nat → List Word → Option (List Instr)
  | 0, _ => some []
  | _, [] => some []
  | n + 1, w :: t =>
    let one (e : Word) (rest : List Word) : Option (List Instr) :=
      match decodeWords rankShape w e with
      | .ok i => if !rankAllows i then none else if isExit i then some [i] else (rankParse n rest).map (i :: ·)
      | .error _ => none
    if wordX w then
      match t with
      | [] => none
      | e :: rest => one e rest
    else one 0 t

/-- What one instruction makes of the uniform registers; none is a fault of the program. -/
def rankDo (packet : List Byte) (i : Instr) (w : Wave) : Option Wave :=
  let e (f : UForm) : EMod := i.extU f
  let fn (h : Nat → Nat → Nat → Nat) (f : UForm) : Option Wave :=
    let bits := fmtBits (e f).fmt.toNat
    some (w.putG bits f.gd.toNat (h bits (w.usrcG bits f.ga.toNat) (w.usrcG bits f.gb.toNat) % 2 ^ bits))
  let imm (h : Nat → Nat → Nat) (f : UImm) : Option Wave :=
    some (w.putG 32 f.gd.toNat (h (w.greg f.ga.toNat).toNat f.imm.toNat % 2 ^ 32))
  let load (a : Addr) (gd : BitVec 6) : Option Wave :=
    if a.toNat % 4 != 0 || a.toNat > 60 then none
    else some (w.setG gd.toNat (BitVec.ofNat 32 (leNat ((packet.drop a.toNat).take 4))))
  match i with
  | .gadd f => fn (fun _ a b => a + b) f
  | .gsub f => fn subN f
  | .gmul f => fn (fun _ a b => a * b) f
  | .gand f => fn (fun _ a b => a &&& b) f
  | .gor f => fn (fun _ a b => a ||| b) f
  | .gxor f => fn (fun _ a b => a ^^^ b) f
  | .gshl f => fn (fun n a b => a * 2 ^ (b % n)) f
  | .gshr f => fn (gshrN ((e f).mod.getLsbD 0)) f
  | .gmov f => fn (fun _ _ b => b) f
  | .gaddI f => imm (fun a b => a + b) f
  | .gsubI f => imm (subN 32) f
  | .gmulI f => imm (fun a b => a * b) f
  | .gandI f => imm (fun a b => a &&& b) f
  | .gorI f => imm (fun a b => a ||| b) f
  | .gxorI f => imm (fun a b => a ^^^ b) f
  | .gshlI f => imm (fun a b => a * 2 ^ (b % 32)) f
  | .gshrI f => imm (gshrN (f.gb.getLsbD 0) 32) f
  | .gmovi f => imm (fun _ b => b) f
  | .gld f => load (uniAddr w f.ga.toNat (w.greg f.gb.toNat)) f.gd
  | .gldI f => load (uniAddr w f.ga.toNat f.imm) f.gd
  | _ => some w

/-- Runs a list of instructions. -/
def rankRun (packet : List Byte) : List Instr → Wave → Option Wave
  | [], w => some w
  | i :: t, w => if isExit i then some w else (rankDo packet i w).bind (rankRun packet t)

/-- The words of a context's rank program. -/
def rankWords (t : Tbl Word) : List Word := (List.range 16).map fun i => t.getD i 0

/-- A rank program is valid. -/
def rankValid (t : Tbl Word) : Bool := (rankParse 16 (rankWords t)).isSome

/-- The rank of a packet, none where the program faults. -/
def rankOf (t : Tbl Word) (packet : List Byte) : Option Word :=
  ((rankParse 16 (rankWords t)).bind fun is => rankRun packet is {}).map fun w => w.greg 0

end Machine
end Sys2Proof
end

