-- ==== Sys2Proof/Machine/Woad.lean ====
section
/-! DEFINITION. Contexts and Woad (R72 to R96): enable, rings, arrival, the queue, dispatch by kind, fall-back mode, and
teardown. -/

namespace Sys2Proof
namespace Machine

/-! ## Enable (R75) -/

/-- The code of the first condition of an enable that fails; 0: none. -/
def State.enableCode (s : State) (c : Nat) : Nat :=
  let x := s.ctx c
  let others := s.ctxs.filter fun (k, _) => k != c
  let quotas := ((others.filter fun (_, y) => y.st == .active).map fun (_, y) => y.quota.toNat).sum
  if !rankValid x.rankprog then 1
  else if x.minmax == 3 || x.acc == 3 then 2
  else if x.dring != 0 && !(4 ≤ x.dringLog.toNat && x.dringLog.toNat ≤ 12) then 3
  else if x.quota.toNat == 0 || 4096 < x.quota.toNat || 4096 < quotas + x.quota.toNat then 4
  else if others.any (fun (_, y) => y.st != .free && y.pasid == x.pasid) then 5
  else 0

/-- The cores' copies of a context's tables are empty. -/
def State.clearCopies (s : State) (c : Nat) : State :=
  let keep (t : Tbl ScopeEntry) : Tbl ScopeEntry := t.filter fun (k, _) => k / 256 != c
  let keepB (t : Tbl Binding) : Tbl Binding := t.filter fun (k, _) => k / 256 != c
  s.mapCores fun x => { x with scopes := keep x.scopes, binds := keepB x.binds }

/-- The counts of the copy channels for a context are clear (R231). -/
def State.clearChans (s : State) (c : Nat) : State :=
  let keep (t : Tbl Chan) : Tbl Chan := t.filter fun (k, _) => k % 64 != c
  s.mapDies fun x => { x with chans := keep x.chans }

/-- CONTEXT_ENABLE (R75): a write of 1 to ENABLE; outside FREE it is ignored, as it is before the hand-off, when function 1 is not there
(R26). Input: unit the context. -/
def execContextEnable (s : State) : Host.Outcome State Fault Refusal :=
  let c := s.inp.unit
  .next (if !s.mgmt.ready || (s.ctx c).st != .free then s
  else
    let code := s.enableCode c
    if code != 0 then s.updCtx c fun x => { x with cfgerr := code }
    else
      ((s.updCtx c fun x =>
        { x with st := .active, cfgerr := 0, subTail := 0, subHead := 0, dringHead := 0, errCount := 0, scopes := [], binds := [],
                 segs := [], sources := [], tasks := [], taskQ := [], draws := [], errWait := [], errParked := false, errRounds := 0,
                 dringStopped := false, dringParked := false, dringRounds := 0, dringLook := true, cxlSeen := 0, priFail := false,
                 busySince := none, scopeUpd := [], bindUpd := [] }).clearCopies c).clearChans c)

/-- SUB_TAIL_WRITE (R78): a count that moves backwards or exceeds the ring is ignored and sets RINGERR. Input: unit the
context, val the count. -/
def execSubTailWrite (s : State) : Host.Outcome State Fault Refusal :=
  let c := s.inp.unit
  let v : Word := BitVec.ofNat 32 s.inp.val
  .next (if !s.mgmt.ready then s
  else s.updCtx c fun x =>
    if 2 ^ 31 ≤ (v - x.subTail).toNat || 512 < (v - x.subHead).toNat then { x with ringerr := true } else { x with subTail := v })

/-! ## Sources (R76, R77, R87) -/

/-- The tracking of a source. -/
def Ctx.source (x : Ctx) (src : Nat) : Source := x.sources.getD src {}

/-- The lowest incomplete number of a source. -/
def Source.low (r : Source) : Nat := r.open_.foldl min r.read

/-- The newest number read is less than 8,192 above the lowest incomplete one (R87). -/
def Source.room (r : Source) : Bool := r.read < r.low + 8193

/-- Packets of a context that are queued. -/
def State.queued (s : State) (c : Nat) : Nat := (s.woad.packets.filter fun p => p.ctx == c && !p.dispatched).length

/-- Woad may read a source of a context, which holds an unread packet or, for the device ring, has a slot to look at. -/
def State.readable (s : State) (c src : Nat) : Bool :=
  let x := s.ctx c
  x.st == .active && s.queued c < x.quota.toNat && (x.source src).room &&
  match src with
  | 0 => x.subHead != x.subTail
  | 1 => x.dring != 0 && !x.dringStopped && !x.dringParked && x.dringLook
  | _ => !x.taskQ.isEmpty

/-- The source that comes next in the round: contexts in ascending number, within one its sources in code order. -/
def State.nextSource (s : State) : Option (Nat × Nat) :=
  ((List.range 192).map fun k => (s.woad.rr + 1 + k) % 192).findSome? fun n => if s.readable (n / 3) (n % 3) then some (n / 3, n % 3) else none

/-! ## Checks at arrival (R80, R81) -/

/-- A packet's bytes as a number. -/
def Packet.image (p : Packet) : Nat := leNat p.bytes

/-- The seed's team (R90). -/
def Packet.seedDesc (p : Packet) : Desc :=
  let x := p.image
  { entry := BitVec.ofNat 64 (bitsAt x 192 64), arg := BitVec.ofNat 64 (bitsAt x 256 64), teamscr := bitsAt x 400 16, width := bitsAt x 416 3,
    vregs := bitsAt x 419 5, mtiles := bitsAt x 433 6, fuseTo := bitsAt x 440 16 }

/-- The kind that a packet's number names (Table 4.2). -/
def kindOf : Nat → Option PktKind
  | 1 => some .launch | 2 => some .barrier | 3 => some .signal | 4 => some .segment | 5 => some .scope | 6 => some .teardown
  | _ => none

/-- The fields of a kind are well-formed: reserved bits zero, addresses aligned, LAUNCH fields in their ranges (Table 4.3). -/
def Packet.fieldsOk (p : Packet) : Bool :=
  let x := p.image
  let z (lo n : Nat) : Bool := bitsAt x lo n == 0
  match p.kind with
  | .launch =>
    let lp := bitsAt x 384 16
    let d := p.seedDesc
    z 128 4 && z 439 1 && z 456 56 && lp ≤ 1024 && lp % 4 == 0 && d.ranges && d.holds lp
  | .barrier => z 128 4 && z 192 320
  | .signal => z 128 4 && z 192 3 && z 320 192
  | .segment => z 128 4 && z 262 26 && z 320 192
  | .scope => z 133 3 && z 147 45 && 5 ≤ bitsAt x 128 5
  | .teardown => z 128 384

/-- An after reference of a packet: 0 or 1. -/
def Packet.after (p : Packet) (k : Nat) : Nat := p.field (8 + 4 * k) 4

/-- A non-empty reference. -/
def named (r : Nat) : Bool := r != 0xFFFFFFFF

/-- The checks of R81 that do not run the rank program, for a packet whose KIND is legal. -/
def Packet.ok (p : Packet) : Bool :=
  let x := p.image
  bitsAt x 4 4 == 1 && bitsAt x 9 23 == 0 && p.fieldsOk &&
    (p.kind == .teardown || [0, 1].all fun k => !(named (p.after k) && p.after k / 2 ^ 30 == 3))

/-- A reference names the packet's own number or a later one of its own source. -/
def Packet.badAfter (p : Packet) : Bool :=
  [0, 1].any fun k => named (p.after k) && p.after k / 2 ^ 30 == p.src && ((p.after k + 2 ^ 30 - p.num % 2 ^ 30) % 2 ^ 30) < 2 ^ 29

/-! ## The queue (R84, R85) -/

/-- A reference is complete: it names a packet read and not among the incomplete ones. A number that no packet of the source has borne is
never complete, whether it lies ahead of those read or before packet 0: R85 does not say so. DESIGN CHOICE, log entry 23. -/
def State.refDone (s : State) (c r : Nat) : Bool :=
  let x := (s.ctx c).source (r / 2 ^ 30)
  let back := (x.read + 2 ^ 30 - r % 2 ^ 30) % 2 ^ 30
  1 ≤ back && back ≤ 2 ^ 29 && back ≤ x.read && !(x.open_.contains (x.read - back))

/-- A queued packet may be dispatched (R85, R89). -/
def State.eligible (s : State) (p : Packet) : Bool :=
  !p.dispatched && [0, 1].all (fun k => !named (p.after k) || s.refDone p.ctx (p.after k)) &&
  (!(s.ctx p.ctx).fb || s.woad.packets.all fun q => q.ctx != p.ctx || p.stamp ≤ q.stamp || q.dispatched) &&
  match p.kind with
  | .launch => (s.woad.packets.filter fun q => q.kind == .launch && q.dispatched).length < 256
  | .barrier => s.woad.packets.all fun q => q.ctx != p.ctx || p.stamp ≤ q.stamp
  | _ => true

/-- The packet that is dispatched next: the smallest rank, then the smallest stamp. -/
def State.nextPacket (s : State) : Option Packet :=
  bestBy (fun (a b : Packet) => a.rank.toNat < b.rank.toNat || (a.rank == b.rank && a.stamp < b.stamp)) (s.woad.packets.filter s.eligible)

/-- Dispatches the next packet where it is of a kind and meets a test. -/
def State.dispatch (s : State) (k : PktKind) (f : Packet → Bool) (go : State → Packet → State) : State :=
  match s.nextPacket with
  | none => s
  | some p =>
    if p.kind == k && f p then
      let s := s.updWoad fun w => { w with packets := w.packets.map fun q => if q.stamp == p.stamp then { q with dispatched := true } else q }
      let s := s.updCtx p.ctx fun x => { x with busySince := if x.busySince.isSome then x.busySince else some s.mgmt.uptime }
      go s p
    else s

/-! ## Teardown (R71, R96) -/

/-- A launch of a context is still incomplete. -/
def State.openLaunches (s : State) (c : Nat) : List Nat := (s.launches.filter fun (_, x) => x.ctx == c && !x.complete).map Prod.fst

/-- A job is under way: what it does stops at its next record boundary (R96). -/
def Job.underWay (j : Job) : Bool := !j.task && j.running && !j.parked && !j.ended
/-- A query is under way. -/
def Query.underWay (q : Query) : Bool := q.started && !q.parked && !q.ending

/-- Drops what the dies hold for the launches of a context: tickets, slots and triangles; the jobs, requests and queries that wait in queues,
on the slow path or for page responses. What an engine has begun goes on to its next record or pass boundary (R96). The launches
themselves complete with ABORTED. -/
def State.dropWork (s : State) (c : Nat) : State :=
  let mine (l : Nat) : Bool := (s.launch l).ctx == c
  let trim (d : Die) : Die :=
    { d with list := d.list.filter (fun e => !mine e.launch), pending := d.pending.filter (fun t => !mine t.launch),
             meshPending := d.meshPending.filter (fun e => !mine e.launch),
             slots := d.slots.filter (fun (_, p) => p.ctx != c), tris := d.tris.filter (fun t => !mine t.launch),
             packs := d.packs.filter (fun p => p.ctx != c), pixels := d.pixels.filter fun p => p.ctx != c }
  let s := (s.mapDies trim).updWoad fun w =>
    { w with seeds := w.seeds.filter (fun t => !mine t.launch), held := w.held.filter fun e => !mine e.launch }
  let s := s.dies.foldl (fun s (d, x) =>
    (x.jobs.filter fun j => j.ctx == c && !j.ended && !j.underWay).foldl (fun s j => s.endJob d j false) s) s
  s.quartets.foldl (fun s (q, x) =>
    let s := (x.table.filter fun r => r.ctx == c).foldl (fun s r => s.endReq q r) s
    ((x.queue ++ x.slots.vals).filter fun k => k.ctx == c && !k.underWay).foldl (fun s k => s.closeQuery q k 5) s) s

/-- The clients of a context that its teardown drops: not the records of Woad, and not the work that an engine has begun. -/
def State.clientOf (s : State) (c : Nat) (x : Client) : Bool :=
  match x with
  | .frag n e => (s.team (((s.core n).wave ((s.core n).frag e).slot).team)).ctx == c
  | .job d id => (s.die d).jobs.any fun j => j.id == id && j.ctx == c && !j.underWay
  | .matrix q id => (s.quartet q).table.any fun r => r.id == id && r.ctx == c
  | .query q k => match (s.quartet q).slots.get? k with
    | some x => x.ctx == c && !x.underWay
    | none => false
  | .pixel d id => (s.die d).pixels.any fun p => p.id == id && p.ctx == c
  | .seg k _ | .dring k => k == c
  | .err _ | .write _ | .dst _ _ | .gone => false

/-- A segment's move in progress is given up. -/
def State.dropMove (s : State) (c h : Nat) (g : Seg) : State :=
  let s := match g.reload with
    | some (home, cols, rows) => s.chargeSeg { g with home := home, hcols := cols, hrows := rows } false
    | none => s
  s.updCtx c fun x => { x with segs := x.segs.upd h {} fun g => { g with busy := false, reload := none, asker := none, parked := false, destroyer := none } }

/-- Steps 1 to 3 of teardown: nothing more is read, queued and dispatched packets complete with ABORTED, waves are killed, and
the context's work is dropped. -/
def State.startTeardown (s : State) (c : Nat) : State :=
  if (s.ctx c).st != .active then s
  else
    let s := s.updCtx c fun x => { x with st := .tearing }
    let s := (s.woad.packets.filter fun p => p.ctx == c && !p.dispatched).foldl (fun s p => s.completePacket p .aborted) s
    let s := s.dropClients (s.clientOf c)
    let s := (s.openLaunches c).foldl (fun s l => s.blame l .aborted) s
    let s := s.dropWork c
    let s := (s.teams.filter fun (_, t) => t.ctx == c && t.st != .ended).foldl (fun s (k, _) => s.endTeam k 0) s
    let s := (s.ctx c).segs.foldl (fun s (h, g) => s.dropMove c h g) s
    let s := s.updCtx c fun x => { x with scopeUpd := x.scopeUpd.map fun u => { u with packet := none } }
    let s := s.updWoad fun w => { w with writes := w.writes.filter fun v => v.ctx != c || v.signal.isNone }
    let s := (s.openLaunches c).foldl (fun s l => s.completeLaunch l) s
    (s.woad.packets.filter fun p => p.ctx == c).foldl (fun s p => s.completePacket p .aborted) s

/-- TEARDOWN (R96): the packet of a TEARDOWN takes effect at its arrival. Input: unit the context. -/
def execTeardown (s : State) : Host.Outcome State Fault Refusal := .next (s.startTeardown s.inp.unit)
/-- CTX_TEARDOWN_WRITE (R96): a write of 1 to CTX_CTL.TEARDOWN, of no effect before the hand-off (R26). Input: unit the context. -/
def execCtxTeardownWrite (s : State) : Host.Outcome State Fault Refusal := .next (if s.mgmt.ready then s.startTeardown s.inp.unit else s)

/-- Every unit is quiescent for a context: its records are written, its posted operations performed, its operations to peers
acknowledged, the jobs, requests and queries under way have stopped, and no update of its tables is under way. -/
def State.quiescent (s : State) (c : Nat) : Bool :=
  let x := s.ctx c
  x.errWait.isEmpty && x.scopeUpd.isEmpty && x.bindUpd.isEmpty && !(s.woad.writes.any fun w => w.ctx == c) && !s.fabBusy c &&
    !(s.cores.any fun (_, k) => k.posts.any fun p => p.ctx == c) && !(s.dies.any fun (_, d) => d.jobs.any fun j => j.ctx == c && !j.ended) &&
    !(s.quartets.any fun (_, q) => q.requests.any (fun r => r.ctx == c) || q.slots.any fun (_, k) => k.ctx == c)

/-- Lines of a tag are invalidated without being written back (R32). -/
def dropTag (tag : Nat) (t : Tbl Line) : Tbl Line := t.filter fun (_, ln) => ln.key != tag

/-- The slot's lines go, and its key is new (R30, R32). -/
def State.newKey (s : State) (slot : Nat) : State :=
  let tag := s.tagOf slot
  let s := (s.mapCores fun x => { x with l1 := dropTag tag x.l1, icache := dropTag tag x.icache }).mapDies fun x =>
    { x with l2 := dropTag tag x.l2, llc := x.llc.filter fun (_, ln) => ln.key != tag }
  s.updMgmt fun m => { m with keyGen := m.keyGen.upd slot 0 (· + 1) }

/-- The dies drop the PASID's translations, its queued page requests are discarded, and a stop marker goes out (R71). -/
def State.dropPasid (s : State) (pasid : BitVec 20) : State :=
  let keep (l : List Xlat) : List Xlat := l.filter fun x => x.pasid != pasid
  let ask (l : List AtsReq) : List AtsReq := l.filter fun r => r.pasid != pasid
  let rest (l : List Answer) : List Answer := l.filter fun r => r.pasid != pasid
  let s := s.mapCores fun x => { x with tc := keep x.tc }
  let s := s.mapDies fun x => { x with tc := keep x.tc, past := keep x.past, ats := ask x.ats, answers := rest x.answers }
  let s := s.updLink fun l =>
    { l.discard pasid with tc := keep l.tc, ats := ask l.ats, answers := rest l.answers }
  s.send (.stopMarker pasid)

/-- Every segment of a context is RELEASED; storage that it still held is free. -/
def State.releaseSegs (s : State) (c : Nat) : State :=
  ((s.ctx c).segs.foldl (fun s (h, g) => s.freeSeg c h g) s).updCtx c fun x => { x with segs := [] }

/-- TEARDOWN_QUIESCENT (R32, R71, R96): steps 4 to 7. Input: unit the context. -/
def execTeardownQuiescent (s : State) : Host.Outcome State Fault Refusal :=
  let c := s.inp.unit
  .next (if (s.ctx c).st != .tearing || !s.quiescent c then s
  else
    let s := (((s.newKey c).dropPasid (s.ctx c).pasid).releaseSegs c).clearChans c
    let s := (s.teams.filter fun (_, t) => t.ctx == c && t.storage).foldl (fun s (k, _) => s.clearStorage k) s
    let s := s.updCtx c fun x => { x with st := .free, priFail := false, tasks := [], taskQ := [], draws := [], pending := false }
    s.irq c 4)

/-! ## Arrival (R77 to R83) -/

/-- A packet that fails its checks completes at once with its status, and an error record of kind BADPKT is written. -/
def State.failPacket (s : State) (p : Packet) (st : Status) (detail : Nat) : State :=
  (s.completePacket p st).errRec p.ctx
    { kind := 9, ref := p.ref, launchid := if p.kind == .launch then BitVec.ofNat 64 (p.field 40 8) else 0, detail := detail }

/-- A packet of a source arrives with its bytes: it is numbered, stamped, checked, ranked and queued, or it fails. -/
def State.takePacket (s : State) (c src : Nat) (bytes : List Byte) (unread : Bool) : State :=
  let n := ((s.ctx c).source src).read
  let stamp := s.woad.nextStamp
  let s := s.updWoad fun w => { w with nextStamp := stamp + 1, rr := 3 * c + src }
  let s := s.updCtx c fun x => { x with sources := x.sources.upd src {} fun r => { r with read := n + 1, open_ := r.open_ ++ [n] } }
  let k := kindOf (leNat (bytes.take 4) % 16)
  let p : Packet := { ctx := c, src := src, num := n, stamp := stamp, kind := if unread then .scope else k.getD .scope, bytes := bytes }
  if unread then s.failPacket p .badpkt 3
  else if k.isNone || !p.ok then s.failPacket p .badpkt 0
  else if p.kind == .teardown then
    let s := s.updCtx c fun x => { x with sources := x.sources.upd src {} fun r => { r with open_ := r.open_.filter (· != n) } }
    s.startTeardown c
  else
    match (if (s.ctx c).fb then some 0 else rankOf (s.ctx c).rankprog bytes) with
    | none => s.failPacket p .badpkt 1
    | some r =>
      if p.badAfter then s.failPacket p .badafter 2
      else s.updWoad fun w => { w with packets := w.packets ++ [{ p with rank := r }] }

/-- The access of Woad to a device ring. -/
def ringEng (c : Nat) : Eng := { die := 0, ctx := c, team := noTeam, client := .dring c, level := 4, io := true }

/-- The device ring stops (R79). -/
def State.stopRing (s : State) (c : Nat) (a : Addr) (detail : Nat) : State :=
  (s.updCtx c fun x => { x with dringStopped := true }).errRec c { kind := 12, addr := a, detail := detail }

/-- Looks at the next slot of a device ring: its header, and when that is admitted the rest (R79). -/
def State.readRing (s : State) (c : Nat) : State :=
  let x := s.ctx c
  let log := x.dringLog.toNat
  let n := x.dringHead.toNat
  let base : Addr := x.dring ++ (0 : BitVec 12)
  let a := base + BitVec.ofNat 64 (64 * (n % 2 ^ log))
  let e := ringEng c
  let park (s : State) (ps : List Nat) : State := (s.updCtx c fun x => { x with dringParked := true }).parkGroup (.dring c) c ps false
  let take (s : State) (bytes : List Byte) (unread : Bool) : State :=
    let s := (s.fabForget (.dring c)).updCtx c fun x => { x with dringHead := x.dringHead + 1, dringRounds := 0 }
    let s := s.woadWrite { ctx := c, addr := base + BitVec.ofNat 64 (64 * 2 ^ log), data := natBytes 4 (s.ctx c).dringHead.toNat }
    s.takePacket c 1 bytes unread
  match s.engRead e a 4 with
  | .miss s => s
  | .fault s ps _ => if x.dringRounds ≥ 16 then s.stopRing c a 1 else park s ps
  | .access s _ => s.stopRing c a 1
  | .ok s h =>
    if anyBad h then s.stopRing c a 2
    else if bitsAt (engNat h) 4 4 != 1 || bitsAt (engNat h) 8 1 != n / 2 ^ log % 2 then
      (s.fabForget (.dring c)).updCtx c fun x => { x with dringLook := false, dringRounds := 0 }
    else
      let head := h.map Prod.fst
      match s.engRead e (a + 4) 60 with
      | .miss s => s
      | .fault s ps _ => if x.dringRounds ≥ 16 then take s head true else park s ps
      | .access s _ => take s head true
      | .ok s r => if anyBad r then take s head true else take s (head ++ r.map Prod.fst) false

/-- The 64 bytes of a slot of the host ring (R78). -/
def Ctx.slotBytes (x : Ctx) (n : Nat) : List Byte := (List.range 64).map fun i => cellGet x.ring (64 * (n % 512) + i)

/-- PACKET_ARRIVAL (R77, R81): Woad reads one packet, in the round over contexts and sources. -/
def execPacketArrival (s : State) : Host.Outcome State Fault Refusal :=
  .next (match s.nextSource with
  | none => s
  | some (c, 0) =>
    let bs := (s.ctx c).slotBytes (s.ctx c).subHead.toNat
    (s.updCtx c fun x => { x with subHead := x.subHead + 1 }).takePacket c 0 bs false
  | some (c, 1) => (s.readRing c).updWoad fun w => { w with rr := 3 * c + 1 }
  | some (c, _) =>
    match (s.ctx c).taskQ with
    | [] => s
    | t :: rest =>
      let k := (s.ctx c).tasks.getD t {}
      let stamp := s.woad.nextStamp
      (s.updCtx c fun x => { x with taskQ := rest, tasks := x.tasks.set t { k with stamp := some stamp } }).takePacket c 2 k.packet false)

/-- DRING_WAKE (R79): a write to the next slot's first granule wakes Woad's monitor. Input: unit the context. -/
def execDringWake (s : State) : Host.Outcome State Fault Refusal :=
  .next (s.updCtx s.inp.unit fun x => if x.st == .active && x.dring != 0 && !x.dringStopped then { x with dringLook := true } else x)

/-! ## Dispatch (R86, R90) -/

/-- The dispatch of a LAUNCH drops its context's lines from every instruction cache (R358). -/
def State.dropIcache (s : State) (c : Nat) : State :=
  let tag := s.tagOf c
  s.mapCores fun x => { x with icache := dropTag tag x.icache }

/-- The launch of a LAUNCH packet. -/
def Packet.launchOf (p : Packet) (order : Nat) : Launch :=
  let x := p.image
  { ctx := p.ctx, ref := p.ref, launchid := BitVec.ofNat 64 (bitsAt x 320 64), doneaddr := BitVec.ofNat 64 (bitsAt x 128 64), stamp := p.stamp,
    order := order, lanepriv := bitsAt x 384 16, dlceil := bitsAt x 424 8, idemp := bitsAt x 432 1 == 1 }

/-- LAUNCH (R86, R90, R94, R110): the seed is offered to the dies in turn after the one that took the last; if none takes it, it
waits, and Woad may choose a victim. -/
def execLaunch (s : State) : Host.Outcome State Fault Refusal :=
  .next (s.dispatch .launch (fun _ => true) fun s p =>
    let l := p.stamp
    let s := { s with launches := s.launches.set l (p.launchOf s.woad.dispatched) }
    let s := (s.updWoad fun w => { w with dispatched := w.dispatched + 1 }).dropIcache p.ctx
    let tk : Ticket := { launch := l, grid := 0, first := 0, desc := p.seedDesc, kind := .seed p.ref }
    match s.offerSeed tk ((s.woad.seedPtr + 1) % 8) with
    | some s => s
    | none => s.updWoad fun w => { w with seeds := w.seeds ++ [tk] })

/-- BARRIER (R85, R86): it completes at its dispatch. -/
def execBarrier (s : State) : Host.Outcome State Fault Refusal :=
  .next (s.dispatch .barrier (fun _ => true) fun s p => s.completePacket p .ok)

/-- SIGNAL (R86): its store is on its way. -/
def execSignal (s : State) : Host.Outcome State Fault Refusal :=
  .next (s.dispatch .signal (fun _ => true) fun s p =>
    let (id, s) := s.fresh
    let w : WoadWrite := { id := id, ctx := p.ctx, addr := BitVec.ofNat 64 (p.field 24 8), data := natBytes 8 (p.field 32 8), signal := some p.stamp }
    s.updWoad fun x => { x with writes := x.writes ++ [w] })

/-- SIGNAL_STORE_DONE (R86): the store is performed, and the packet completes with OK; ACCESS or poisoned memory: nothing is
stored, and it completes with FAULT. Input: id the write. -/
def execSignalStoreDone (s : State) : Host.Outcome State Fault Refusal :=
  .next (match s.woad.writes.find? (fun w => w.id == s.inp.id && w.signal.isSome && !w.parked) with
  | none => s
  | some w =>
    let stamp := w.signal.getD 0
    let upd (s : State) (f : WoadWrite → WoadWrite) : State :=
      s.updWoad fun x => { x with writes := x.writes.map fun y => if y.id == w.id then f y else y }
    let done (s : State) (st : Status) : State :=
      (s.updWoad fun x => { x with writes := x.writes.filter fun y => y.id != w.id }).completeStamp stamp st
    if w.sent then (if s.fabBusy w.ctx then s else done s .ok)
    else
      let poisoned : Option Nat := match s.trWoad (.write w.id) w.ctx w.addr true with
        | .loc l => ((List.range 8).map (l + ·)).find? fun a => (s.homeRead (s.tagOf w.ctx) a).2
        | _ => none
      if poisoned.isSome then done (s.touch (s.tagOf w.ctx) (poisoned.getD 0)) .fault
      else
        match s.woadStore (.write w.id) w.rounds w.ctx w.addr w.data with
        | .done s => done s .ok
        | .dropped s => done s .fault
        | .peer s win => upd (s.fabSend w.ctx win .store w.addr 8 w.data true none none) fun y => { y with sent := true }
        | .waits s parked => upd s fun y => { y with parked := parked })

/-- SCOPE (R208, R209): the update joins its context's, and the packet completes when it ends. -/
def execScope (s : State) : Host.Outcome State Fault Refusal :=
  .next (s.dispatch .scope (fun _ => true) fun s p =>
    let x := p.image
    let (id, s) := s.fresh
    let set : ScopeEntry := { cores := BitVec.ofNat 320 (bitsAt x 192 320), l2mask := BitVec.ofNat 8 (bitsAt x 136 8), llc := bitsAt x 144 1 == 1,
                              hostfab := bitsAt x 145 1 == 1 }
    s.addScopeUpd p.ctx { id := id, entry := bitsAt x 128 5, set := set, inval := bitsAt x 146 1 == 1, packet := some p.stamp })

/-! ## Segment packets (R180, R181) -/

/-- OP of a SEGMENT packet. -/
def Packet.op (p : Packet) : Nat := bitsAt p.image 256 4
/-- The name a SEGMENT packet gives. -/
def Packet.name (p : Packet) : Addr := BitVec.ofNat 64 (p.field 24 8)

/-- The largest SIZE of a level (R180). -/
def maxSize : Nat → Nat
  | 0 => 1536 * 1024 | 1 => 18432 * 1024 | _ => 65280 * 1024

/-- The lowest RELEASED entry of a directory. -/
def Ctx.freeHandle (x : Ctx) : Option Nat := (List.range 1024).find? fun h => (Tbl.get? x.segs h).isNone

/-- SEGMENT_CREATE: the name goes into the lowest RELEASED entry as DECLARED. -/
def execSegmentCreate (s : State) : Host.Outcome State Fault Refusal :=
  .next (s.dispatch .segment (fun p => p.op == 1) fun s p =>
    let s := s.dirOp
    let level := bitsAt p.image 260 2
    let size := bitsAt p.image 288 32
    match (s.ctx p.ctx).freeHandle with
    | some h =>
      if p.name == 0 || (s.segFind p.ctx p.name).isSome || level == 3 || size < 16 || maxSize level < size || size % 16 != 0 then s.completePacket p .segfail
      else
        (s.updCtx p.ctx fun x => { x with segs := x.segs.set h { name := p.name, size := size, level := level, st := .declared } }).completePacket p .ok
    | none => s.completePacket p .segfail)

/-- SEGMENT_DESTROY: DYING; the packet completes once the segment is RELEASED. -/
def execSegmentDestroy (s : State) : Host.Outcome State Fault Refusal :=
  .next (s.dispatch .segment (fun p => p.op == 2) fun s p =>
    let s := s.dirOp
    match s.segFind p.ctx p.name with
    | none => s.completePacket p .segfail
    | some h =>
      if (s.seg p.ctx h).dying then s.completePacket p .segfail
      else (s.updSeg p.ctx h fun g => { g with dying := true, destroyer := some p.stamp }).releaseSeg p.ctx h)

/-- Sets PIN of the live entry that holds a packet's name. -/
def State.pinPacket (s : State) (p : Packet) (pin : Bool) : State :=
  let s := s.dirOp
  match s.segFind p.ctx p.name with
  | none => s.completePacket p .segfail
  | some h => (s.updSeg p.ctx h fun g => { g with pin := pin }).completePacket p .ok

/-- SEGMENT_PIN. -/
def execSegmentPin (s : State) : Host.Outcome State Fault Refusal :=
  .next (s.dispatch .segment (fun p => p.op == 3) fun s p => s.pinPacket p true)
/-- SEGMENT_UNPIN. -/
def execSegmentUnpin (s : State) : Host.Outcome State Fault Refusal :=
  .next (s.dispatch .segment (fun p => p.op == 4) fun s p => s.pinPacket p false)
/-- SEGMENT_INVALID_OP: OP 0 or 5 to 15 completes with SEGFAIL. -/
def execSegmentInvalidOp (s : State) : Host.Outcome State Fault Refusal :=
  .next (s.dispatch .segment (fun p => p.op == 0 || 5 ≤ p.op) fun s p => s.dirOp.completePacket p .segfail)

/-! ## Fall-back and pre-emption by the host (R89, R94) -/

/-- QUANTUM_EXPIRY (R89): a fall-back context has been busy for its quantum since it became so or since the last. Input: unit
the context. -/
def execQuantumExpiry (s : State) : Host.Outcome State Fault Refusal :=
  let c := s.inp.unit
  let x := s.ctx c
  .next (match x.busySince with
  | none => s
  | some t =>
    if x.fb && x.quantum != 0 && t + x.quantum.toNat ≤ s.mgmt.uptime then
      (s.updCtx c fun y => { y with busySince := some (t + x.quantum.toNat) }).irq c 2
    else s)

/-- CTX_PREEMPT_REQ (R94): a write of 1 to CTX_PREEMPT.REQ requests the pre-emption of every incomplete launch of the context; of no
effect before the hand-off (R26). Input: unit the context. -/
def execCtxPreemptReq (s : State) : Host.Outcome State Fault Refusal :=
  .next (if s.mgmt.ready then (s.openLaunches s.inp.unit).foldl (fun s l => s.requestPreempt l) s else s)

end Machine
end Sys2Proof
end

