-- ==== Sys2Proof/Machine/Mgmt.lean ====
section
/-! DEFINITION. The management plane: starts (R20, R25 to R28), power (R21 to R24), SPDM (R29), soft errors and retirement (R15,
R33 to R36), the modes of a core (R162), and errors of device memory (R36, R48). -/

namespace Sys2Proof
namespace Machine

/-! ## Retired units (R15) -/

/-- Marks a unit as retired; a retired core has no agent (R100). Units are numbered as Table 5.3 numbers them: core n, 0x1000 + 16 × die + bank, 0x4000 + quartet,
0x5000 + quartet, 0x6000 + 16 × die + channel. -/
def State.markRetired (s : State) (u : Nat) : State :=
  let bit (k : Nat) : BitVec 16 := BitVec.ofNat 16 (2 ^ (k % 16))
  match u / 0x1000 with
  | 0 =>
    (s.updCore u fun c => { c with retired := true, waves := c.waves.erase 191, frags := c.frags.erase 511 }).updBoard u fun b =>
      { b with retired := true }
  | 1 => s.updDie (u / 16 % 256) fun d => { d with bankRetired := d.bankRetired ||| bit u }
  | 4 => s.updQuartet (u % 0x1000) fun q => { q with mRetired := true }
  | 5 => s.updQuartet (u % 0x1000) fun q => { q with iRetired := true }
  | 6 => s.updDie (u / 16 % 256) fun d => { d with chanRetired := d.chanRetired ||| bit u }
  | _ => s

/-- Cores in service: CORES_LIVE.COUNT. -/
def State.coresLive (s : State) : Nat := ((List.range 320).filter fun n => !(s.core n).retired).length

/-- Segments with storage on a retired core or bank are to be evicted, whatever PIN holds (R35). -/
def State.markLeaving (s : State) (u : Nat) : State :=
  let on (g : Seg) : Bool :=
    let cores := match g.reload with
      | some (home, cols, rows) => ({ g with home := home, hcols := cols, hrows := rows } : Seg).homeCores
      | none => g.homeCores
    let home := match g.reload with
      | some (home, _, _) => home
      | none => g.home
    (g.st == .resident || g.reload.isSome) &&
      if u < 0x1000 then g.level != 2 && cores.contains u else g.level == 2 && home == 0x8000 + u / 16 % 256
  let mark (x : Ctx) : Ctx := { x with segs := x.segs.map fun (h, g) => (h, if on g then { g with leaving := true } else g) }
  if u / 0x1000 ≤ 1 then { s with ctxs := s.ctxs.map fun (c, x) => (c, mark x) } else s

/-- A running query of a retired engine ends with FAULT and ADDR 0 (R284). -/
def Query.cutOff (q : Query) : Query :=
  if q.ending then q
  else { q with ending := true, status := 5, addr := 0, slotsToo := q.started, stack := [], parked := false, rounds := 0 }

/-- A query's client of a quartet. -/
def onQuartet (qn : Nat) (x : Client) : Bool :=
  match x with
  | .query q _ => q == qn
  | _ => false

/-- The work of a retired engine: what is queued goes to the engine that its role is bound to anew, the live engine of its die with the
lowest quartet number (R35, R117); running queries end (R284). The jobs of a retired copy channel need no move (`State.serves`). -/
def State.moveWork (s : State) (u : Nat) : State :=
  let q := u % 0x1000
  let ungrant (r : MReq) : MReq := { r with granted := false }
  match u / 0x1000 with
  | 4 =>
    let k := s.liveMatrix q
    if k == q then s
    else
      let work := (s.quartet q).requests.map ungrant
      (s.updQuartet q fun x => { x with table := [], array := none, port := none }).updQuartet k fun x => { x with table := x.table ++ work }
  | 5 =>
    let s := (s.dropClients (onQuartet q)).updQuartet q fun x => { x with slots := x.slots.map fun (n, k) => (n, k.cutOff) }
    let k := s.liveIndigo q
    if k == q then s
    else
      let work := (s.quartet q).queue
      (s.updQuartet q fun x => { x with queue := [] }).updQuartet k fun x => { x with queue := x.queue ++ work }
  | _ => s

/-- Retires a unit in service: it is recorded in flash, its queued work moves, and its segments leave; the teams on it or bound to it move
at their next yield points (`State.mustMove`, `State.rebind`; R15, R35, R118). -/
def State.retire (s : State) (u : Nat) : State :=
  let s := s.updMgmt fun m => { m with retiredUnits := m.retiredUnits ++ [u] }
  ((s.markRetired u).moveWork u).markLeaving u

/-! ## Starts (R25 to R28, R46) -/

/-- What a start leaves: the flash, the memory of the host and of the devices, which the new keys make unreadable, and, on a warm
start, the fields that Tables 1.3 and 2.3 leave unchanged and the kept result of R27; the entries of the log begin at 0 (R9, Table 2.4). The
model's own counters and the record of what was sent go on. -/
def State.blank (s : State) (warm : Bool) : State :=
  let m := s.mgmt
  let kept : Mgmt := { power := true, authFail := m.authFail, keyGen := m.keyGen, spares := m.spares.filter (·.2), images := m.images,
                       retiredUnits := m.retiredUnits, flashLog := m.flashLog, interleave := m.interleave }
  let kept : Mgmt := if warm then { kept with cap := m.cap, capNext := m.capNext, errCount := m.errCount,
                                              authKept := m.authKept, warm := true } else kept
  let mem : Mem := { cells := s.mem.cells.filter fun (a, _) => !isChip a, tags := s.mem.tags, poison := s.mem.poison.filter fun (a, _) => !isChip a }
  { State.reset with mgmt := kept, mem := mem, link := { sent := s.link.sent }, agenda := s.agenda, inp := s.inp, free := s.free, choice := s.choice }

/-- MGMT_STATUS.STEP changes. -/
def State.toStep (s : State) (n : Nat) : State := (s.updMgmt fun m => { m with step := n }).mgmtEvent

/-- Lays out one interleave set after those before it. -/
def layOut (ports : Tbl CxlPort) (sets : List CxlSet) (members : List Nat) : List CxlSet :=
  let ways := members.length
  let least := members.foldl (fun n p => min n (Tbl.getD ports p {}).capacity) 0x1FFFFFF
  let base := sets.foldl (fun e x => max e (x.base + x.bytes)) Config.secondTier
  sets ++ [{ base := base, ports := sortNat members, bytes := if [1, 2, 4, 8, 16].contains ways then ways * least * 2 ^ 28 else 0 }]

/-- Step 5: the CXL ports that train, and the interleave sets of the flash configuration. -/
def State.trainLinks (s : State) (x : StartInputs) : State :=
  let setOf (p : Nat) : Option Nat := (List.range s.mgmt.interleave.length).find? fun k => (s.mgmt.interleave.getD k []).contains p
  let port (p cap : Nat) : CxlPort := { up := true, mem := (setOf p).isSome, set := (setOf p).getD 0, capacity := cap }
  let ps := (x.cxl.filter fun (p, _) => p < 20).foldl (fun t (p, cap) => Tbl.set t p (port p cap)) ([] : Tbl CxlPort)
  let s := s.updMgmt fun m => { m with cxlPorts := ps, cxlSets := m.interleave.foldl (layOut ps) [] }
  ps.foldl (fun s _ => s.mgmtEvent) s

/-- Step 6: the measurement, and both signatures over it unless a kept success is for it. True: the start goes on. -/
def State.authenticate (s : State) (warm : Bool) : Bool × State :=
  let x := sha384 s.mgmt.images
  let s := s.updMgmt fun m => { m with measurement := x }
  if warm && s.mgmt.authKept == some (x, true) then (true, s)
  else
    let ok := Config.ecdsaVerify x s.mgmt.images && Config.lmsVerify x s.mgmt.images
    let s := s.updMgmt fun m => { m with authKept := some (x, ok), authFail := !ok }
    (ok, if ok then s else s.mgmtEvent)

/-- The Ochre agent's wave as it starts: privileged, of 4 lanes, on the uniform path, which is no vector pipe (R100). Its team's number is no
team's, so that it acts under the firmware key. The instructions that it runs are firmware, which the spec does not give: what an agent does
stands in the events, and entry 511 never issues. DESIGN CHOICE, log entry 10. -/
def agentWave : Wave := { team := noTeam, lanes := 4, vregs := 8, pipe := 4, priv := true, order := [511] }

/-- A core's agent stands in slot 191 with fragment entry 511 (R100, R125). -/
def Core.startAgent (c : Core) : Core :=
  { c with waves := c.waves.set 191 agentWave, frags := c.frags.set 511 { mask := 0xF, slot := 191, st := .run, budget := 64 } }

/-- Step 9: the cores that are live come into service with their agents, and READY is set. -/
def State.handOff (s : State) : State :=
  let s := s.mapCores fun c => if c.retired then c else { c.startAgent with mode := .service }
  (s.updMgmt fun m => { m with ready := true }).mgmtEvent

/-- The nine steps of a start, on a machine that is otherwise blank. -/
def State.startUp (s : State) (warm : Bool) (x : StartInputs) : State :=
  let s := (s.blank warm).toStep 1
  let s := s.toStep 2
  let s := { s with cores := (List.range 320).map fun n => (n, {}), dies := (List.range 8).map fun d => (d, {}) }
  let s := s.mgmt.retiredUnits.foldl State.markRetired s
  let s := ((s.toStep 3).toStep 4).toStep 5
  let s := (s.trainLinks x).toStep 6
  let (ok, s) := s.authenticate warm
  if !ok then s
  else
    let s := (s.toStep 7).toStep 8
    let s := s.updMgmt fun m => { m with keyGen := (List.range 65).map fun k => (k, Tbl.getD m.keyGen k 0 + 1) }
    (s.toStep 9).handOff

/-- COLD_START (R25): module power is applied. Input: start what link training finds. -/
def execColdStart (s : State) : Host.Outcome State Fault Refusal := .next (s.startUp false s.inp.start)

/-- WARM_START (R25): while power is applied; where a checksum of the flash log or of the training values fails (flag), a cold
start follows instead. Input: start, flag. -/
def execWarmStart (s : State) : Host.Outcome State Fault Refusal :=
  .next (if s.mgmt.power then s.startUp (!s.inp.flag) s.inp.start else s)

/-- RESET_CTL_WARM (R25, Table 2.3): writing 1 to RESET_CTL.WARM ends every context at once, answers the host reads of function 1
that are outstanding with Unsupported Request, and requests a warm start. Input: id the bytes written, which must include byte 0,
val the value, unit how many reads are outstanding; start and flag are those of the warm start. -/
def execResetCtlWarm (s : State) : Host.Outcome State Fault Refusal :=
  let x := s.inp
  .next (if x.val % 2 == 1 && x.id % 2 == 1 then
    let s := (List.range x.unit).foldl (fun s _ => s.send .unsupported) s
    let s := { s.blank true with mgmt := s.mgmt, cores := s.cores, link := s.link }
    let s := s.mapCores fun c => { c with waves := [], frags := [], entryWaiters := [], pipes := [], posts := [] }
    s.push [.event .warmStart { start := x.start, flag := x.flag }]
  else s)

/-- POWER_REMOVAL (R20): all state is lost except the firmware flash; what device memory held is unspecified from then on. -/
def execPowerRemoval (s : State) : Host.Outcome State Fault Refusal :=
  let b := s.blank false
  .next { b with mgmt := { b.mgmt with power := false, authFail := false },
                 mem := { cells := b.mem.cells.filter (fun (a, _) => !isDev a), tags := b.mem.tags } }

/-! ## Power (R21 to R24) -/

/-- The bytes of a register that a write covers replace the register's (R44): `lanes` has a bit for each byte covered. -/
def mergeBytes (n cover old new : Nat) : Nat :=
  (List.range n).foldl (fun a i => a + (if cover / 2 ^ i % 2 == 1 then new else old) / 256 ^ i % 256 * 256 ^ i) 0

/-- PWR_CAP_WRITE (R21): the merged CAP is checked; a valid one applies at the next refill period. Input: id the bytes covered, one
bit each; val the value. -/
def execPwrCapWrite (s : State) : Host.Outcome State Fault Refusal :=
  let x := s.inp
  .next (s.updMgmt fun m =>
    let m := if x.id / 8 % 2 == 1 && x.val / 2 ^ 31 % 2 == 1 then { m with capErr := false } else m
    if x.id % 4 == 0 then m
    else
      let cap := mergeBytes 2 x.id m.capNext.toNat x.val
      if 6000 ≤ cap && cap ≤ 14000 then { m with capNext := BitVec.ofNat 16 cap } else { m with capErr := true })

/-- TOKEN_REFILL (R22): once per microsecond. Input: val P_other of the past microsecond in W. -/
def execTokenRefill (s : State) : Host.Outcome State Fault Refusal :=
  .next (if !s.mgmt.power then s
  else s.updMgmt fun m =>
    let r := min 5000 ((m.capNext.toNat - s.inp.val) * 100 / 168)
    let pool := min 10000 (m.pool + r)
    { m with cap := m.capNext, otherW := s.inp.val, refill := pool - m.pool, pool := pool, uptime := m.uptime + 1 })

/-- CLOCK_STEP (R24): by the P_other of the past microsecond, a step of 250 MHz down to 2 GHz or up to 4 GHz. -/
def execClockStep (s : State) : Host.Outcome State Fault Refusal :=
  .next (s.updMgmt fun m =>
    if m.cap.toNat < m.otherW then { m with clkStep := min 8 (m.clkStep + 1) }
    else if 500 < m.cap.toNat - m.otherW then { m with clkStep := m.clkStep - 1 }
    else m)

/-! ## SPDM (R29) -/

/-- The device identity key of the part (R29). -/
def identityKey : BitVec 384 := Config.deriveKey Config.fusedSecret

/-- An SPDM request is answered: what R29 states of the answer, and the rest as the standard has it under the identity key. -/
def State.spdm (s : State) (n : Nat) (stated : List Byte) : State :=
  if s.mgmt.power then s.send (.spdm n stated (Config.spdmBody n identityKey s.inp.bytes)) else s

/-- GET_VERSION. Input of each request: bytes its body. -/
def execGetVersion (s : State) : Host.Outcome State Fault Refusal := .next (s.spdm 1 [])
/-- GET_CAPABILITIES. -/
def execGetCapabilities (s : State) : Host.Outcome State Fault Refusal := .next (s.spdm 2 [])
/-- NEGOTIATE_ALGORITHMS. -/
def execNegotiateAlgorithms (s : State) : Host.Outcome State Fault Refusal := .next (s.spdm 3 [])
/-- GET_DIGESTS. -/
def execGetDigests (s : State) : Host.Outcome State Fault Refusal := .next (s.spdm 4 [])
/-- GET_CERTIFICATE. -/
def execGetCertificate (s : State) : Host.Outcome State Fault Refusal := .next (s.spdm 5 [])
/-- CHALLENGE. -/
def execChallenge (s : State) : Host.Outcome State Fault Refusal := .next (s.spdm 6 [])

/-- GET_MEASUREMENTS: index 1 is the firmware measurement, index 2 the list of retired units. Input: item the index. -/
def execGetMeasurements (s : State) : Host.Outcome State Fault Refusal :=
  .next (s.spdm 7 (match s.inp.item with
    | 1 => (natBytes 48 s.mgmt.measurement.toNat).reverse
    | 2 => s.mgmt.retiredUnits.flatMap fun u => natBytes 2 u
    | _ => []))

/-- UNSUPPORTED_SPDM_REQUEST: ERROR with code UnsupportedRequest. -/
def execUnsupportedSpdmRequest (s : State) : Host.Outcome State Fault Refusal :=
  .next (if s.mgmt.power then s.send .spdmUnsupported else s)

/-! ## Soft errors (R33 to R36) -/

/-- Spare rows of an array: 32 in the I/O die, 8 in a compute die (R35). -/
def spareRows (r : RowId) : Nat := if r.unit == 0xC000 then 32 else 8

/-- The row's contents go to a free spare, and its test begins (R34). -/
def State.startRowTest (s : State) (r : RowId) : State :=
  if s.mgmt.tests.contains r then s
  else s.updMgmt fun m =>
    let used := (m.spares.filter fun (x, _) => x.unit == r.unit && x.array == r.array).length
    { m with tests := m.tests ++ [r], spares := if used < spareRows r then m.spares ++ [(r, false)] else m.spares }

/-- Poisons the bytes of a line that are among some locations. -/
def Line.poisonAt (ln : Line) (n : Nat) (locs : List Nat) : Line :=
  { ln with poison := ln.poison ||| maskOf fun i => i < Config.lineBytes && locs.contains (n * Config.lineBytes + i) }

/-- An uncorrected error poisons the data of a unit's array: in the L1 of a core or the L2 of a die that holds it, else where it
lies (R36). -/
def State.poisonData (s : State) (unit : Nat) (locs : List Nat) : State :=
  let mark (t : Tbl Line) : Tbl Line := t.map fun (n, ln) => (n, ln.poisonAt n locs)
  let held (t : Tbl Line) : Bool := locs.any fun l => !isChip l && (Tbl.get? t (l / Config.lineBytes)).isSome
  if unit < 320 && held (s.core unit).l1 then s.updCore unit fun c => { c with l1 := mark c.l1 }
  else if 0x8000 ≤ unit && unit < 0x8008 && held (s.die (unit - 0x8000)).l2 then
    s.updDie (unit - 0x8000) fun d => { d with l2 := mark d.l2 }
  else { s with mem := { s.mem with poison := locs.foldl (fun t l => t.set l ()) s.mem.poison } }

/-- A clean line of a cache of a unit is fetched again (R36). -/
def State.refetch (s : State) (unit : Nat) (lvl : CacheLevel) (n : Nat) : State :=
  let clean (t : Tbl Line) : Option Line := (t.get? n).filter fun ln => ln.dirty == 0
  let d := unit - 0x8000
  match lvl with
  | .l1 => match clean (s.core unit).l1 with
    | some ln => ((s.updCore unit fun c => { c with l1 := c.l1.erase n }).l1Fill unit ln.key n).2
    | none => s
  | .icache => match clean (s.core unit).icache with
    | some ln => ((s.updCore unit fun c => { c with icache := c.icache.erase n }).iFill unit ln.key n).2
    | none => s
  | .l2 => match clean (s.die d).l2 with
    | some ln => ((s.updDie d fun x => { x with l2 := x.l2.erase n }).l2Fill d ln.key n).2
    | none => s
  | .llc => s

/-- ECC_ERROR (R33, R34, R36): an entry of the log, what an uncorrected error does to what it struck, and the row's test. Input: row,
flag uncorrected, ecc what it struck. -/
def execEccError (s : State) : Host.Outcome State Fault Refusal :=
  let x := s.inp
  let s := s.logError x.row.unit x.row.array x.row.row (if x.flag then 2 else 1)
  let s := if !x.flag then s else
    match x.ecc with
    | .cleanCache lvl n => s.refetch x.row.unit lvl n
    | .data locs => s.poisonData x.row.unit locs
    | .coreScratch t => s.killCluster t
    | .vectorReg slot l r => s.updCore x.row.unit fun c => c.updWave slot fun w => { w with badV := w.badV.set (r * 64 + l) () }
    | .uniformReg slot r => s.updCore x.row.unit fun c => c.updWave slot fun w => { w with badG := w.badG.set r () }
    | .predicate slot r => s.updCore x.row.unit fun c => c.updWave slot fun w => { w with badP := w.badP.set r () }
    | .uniPred slot => s.updCore x.row.unit fun c => c.updWave slot fun w => { w with badQ := true }
    | .streamReg slot l r => s.updCore x.row.unit fun c => c.updWave slot fun w => { w with badS := w.badS.set (r * 64 + l) () }
    | .splitEntry e => s.updCore x.row.unit fun c => c.updFrag e fun f => { f with bad := true }
    | .ioDie c =>
      if s.mgmt.badRows.contains x.row && (s.ctx c).st == .active then (s.errRec c { kind := 8, unit := 0xC000 }).startTeardown c else s
  .next (s.startRowTest x.row)

/-- Ways of a cache with k lines are disabled: what they hold is written back first, and the cache is smaller from then on (R35). Which
lines lie in them is not stated: the model has the whole cache written back and refilled. DESIGN CHOICE, log entry 15. -/
def State.disableWays (s : State) (unit : Nat) (lvl : CacheLevel) (k : Nat) : State :=
  let d := unit - 0x8000
  match lvl with
  | .l1 => ((s.core unit).l1.keys.foldl (fun s n => s.dropL1 unit n false) s).updCore unit fun c => { c with l1Off := c.l1Off + k }
  | .l2 => ((s.die d).l2.keys.foldl (fun s n => s.dropL2 d n) s).updDie d fun x => { x with l2Off := x.l2Off + k }
  | .icache => s.updCore unit fun c => { c with icache := [], icacheOff := c.icacheOff + k }
  | .llc => s.updDie d fun x => { x with llc := [], llcOff := x.llcOff + k }

/-- Ways of a translation cache are disabled, and its entries dropped; those of a die may have left lines (R35, R219). -/
def State.disableXlat (s : State) (unit k : Nat) : State :=
  if unit < 320 then s.updCore unit fun c => { c with tc := [], tcOff := c.tcOff + k }
  else s.updDie (unit - 0x8000) fun d => { d with past := d.tc ++ d.past, tc := [], tcOff := d.tcOff + k }

/-- A lasting error that no spare can take (R35), by the array's class: 0 a cache, 1 another array of a core, 2 of a matrix engine, 3
of an Indigo engine, 4 of copy channel `n`, 5 die-scratchpad bank `n`, 6 an array of the I/O die, 7 a translation cache; `k` is the
number of lines, or of a translation cache of ways, that a cache loses. -/
def State.noSpare (s : State) (r : RowId) (cls n : Nat) (lvl : CacheLevel) (k : Nat) : State :=
  let gone (s : State) (u : Nat) : State := (s.retire u).logError r.unit r.array r.row 5
  match cls with
  | 0 => s.disableWays r.unit lvl k
  | 1 => gone s r.unit
  | 2 => gone s r.unit
  | 3 => gone s (r.unit + 0x1000)
  | 4 => gone s (0x6000 + 16 * (r.unit - 0x8000) + n)
  | 5 => gone s (0x1000 + 16 * (r.unit - 0x8000) + n)
  | 6 =>
    let s := if s.mgmt.degraded then s else (s.updMgmt fun m => { m with degraded := true }).mgmtEvent
    (s.updMgmt fun m => { m with badRows := m.badRows ++ [r] }).logError 0xC000 r.array r.row 8
  | _ => s.disableXlat r.unit k

/-- Microseconds in 24 hours (R34). -/
def dayMicros : Nat := 86400000000

/-- ROW_TEST_RESULT (R34, R35): a transient error frees the spare; a lasting one, or the third transient within 24 hours, keeps it.
Input: row, flag the row passes, val the class, item the number and id the count that `noSpare` takes, level the cache. -/
def execRowTestResult (s : State) : Host.Outcome State Fault Refusal :=
  let x := s.inp
  let r := x.row
  let m := s.mgmt
  .next (if !m.tests.contains r then s
  else
    let recent := m.transients.filter fun (y, t) => y == r && m.uptime < t + dayMicros
    let others := m.transients.filter fun (y, _) => y != r
    let s := s.updMgmt fun m => { m with tests := m.tests.filter (· != r) }
    if x.flag && recent.length < 2 then
      (s.updMgmt fun m => { m with transients := others ++ recent ++ [(r, m.uptime)], spares := m.spares.filter (· != (r, false)) }).logError
        r.unit r.array r.row 3
    else
      let s := s.updMgmt fun m => { m with transients := others }
      if m.spares.contains (r, false) then
        (s.updMgmt fun m => { m with spares := m.spares.map fun y => if y == (r, false) then (r, true) else y }).logError r.unit r.array r.row 4
      else s.noSpare r x.val x.item x.level x.id)

/-! ## Modes of a core (R162) -/

/-- A core has resident teams. -/
def State.occupied (s : State) (n : Nat) : Bool := s.teams.any fun (_, t) => t.core == n && t.st == .resident

/-- The load-board entry of a core as what stands on it gives it (R104, Table 5.2). -/
def State.boardNow (s : State) (n : Nat) : Board :=
  let on := (s.teams.filter fun (_, t) => t.st == .resident && t.core == n).map Prod.snd
  let stores := ((s.teams.filter fun (_, t) => t.storage && t.core == n).map fun (_, t) => s.scrDemand t).sum
  let quartet := (s.teams.filter fun (_, t) => t.st == .resident && quartetOf t.core == quartetOf n).map Prod.snd
  let segs := s.ctxs.flatMap fun (_, x) => x.segs.filterMap fun (_, g) =>
    let g := match g.reload with
      | some (home, cols, rows) => { g with home := home, hcols := cols, hrows := rows, st := .resident }
      | none => g
    if g.st == .resident && g.level != 2 && g.homeCores.contains n then some g.share else none
  let empty : Board := { retired := (s.boardOf n).retired, waves := 191 - (on.map fun t => t.desc.waves).sum,
                         scr := 1536 - stores - segs.sum, tiles := 32 - (quartet.map fun t => t.desc.mtiles).sum }
  on.foldl (fun b t => t.pipes.foldl (fun b p =>
    { b with quads := unbump b.quads p (2 ^ t.desc.width), blocks := unbump b.blocks p (2 ^ t.desc.width * t.desc.vregs) }) b) empty

/-- A firmware wave that the management plane starts on a core outside service mode: its lanes run from an address of device memory (R162).
Where such a wave begins is not stated: the event brings it. DESIGN CHOICE, log entry 10. -/
def Core.startFirmware (c : Core) (slot : Nat) (lanes : Mask) (pc : Addr) : Core :=
  match c.freeEntry with
  | none => c
  | some e =>
    let p := slot % 4
    let pool := (c.pipe p).pool
    let w : Wave := { team := noTeam, lanes := 64, vregs := 128, pipe := p, age := c.nextAge, priv := true, order := [e], exited := ~~~ lanes }
    { c with waves := c.waves.set slot w, frags := c.frags.set e { pc := pc, mask := lanes, slot := slot, st := .run, budget := 64 },
             nextAge := c.nextAge + 1, pipes := if pool.length < 16 then c.pipes.set p { c.pipe p with pool := pool ++ [slot] } else c.pipes }

/-- The privileged waves of a core but its agent end. -/
def Core.endFirmware (c : Core) : Core :=
  (c.waves.filter fun (k, w) => w.priv && k != 191).foldl (fun c (k, w) => w.order.foldl Core.freeFrag (c.removeWave k)) c

/-- Recovery (R162): the agent begins its idempotent region anew, and publishes its load-board entry. -/
def State.recover (s : State) (n : Nat) : State :=
  (s.updCore n Core.startAgent).updBoard n fun _ => s.boardNow n

/-- COREMODE_CHANGE (R162): self-test begins once the core's teams have been saved; a core whose self-test finds a lasting fault is
retired; start-up mode belongs to a start; in recovery the agent begins anew. Outside service mode the management plane may start firmware
waves. Input: unit the core, mode, flag a lasting fault; with lanes, item a free wave slot and val the address at which a firmware wave of
those lanes begins. -/
def execCoremodeChange (s : State) : Host.Outcome State Fault Refusal :=
  let x := s.inp
  let n := x.unit
  let c := s.core n
  let set (s : State) (m : CoreMode) : State := s.updCore n fun c => { c with mode := m, draining := false }
  let fill (s : State) : State :=
    if x.lanes == 0 || 191 ≤ x.item || ((s.core n).waves.get? x.item).isSome then s
    else s.updCore n fun c => c.startFirmware x.item x.lanes (BitVec.ofNat 64 x.val)
  .next (if c.retired then s
  else match x.mode with
    | .selfTest => if s.occupied n then s.updCore n fun c => { c with draining := true } else fill (set s .selfTest)
    | .recovery => if s.mgmt.ready then set (s.recover n) .recovery else s
    | .service =>
      if c.mode == .selfTest && x.flag then ((s.updCore n Core.endFirmware).retire n).logError n 0 0 5
      else if s.mgmt.ready then ((set (s.updCore n Core.endFirmware) .service).updBoard n fun _ => s.boardNow n) else s
    | .startUp => if s.mgmt.ready then s else fill (set s .startUp))

/-! ## Errors of device memory (R36, R48) -/

/-- The line of device memory at an address is poisoned. -/
def State.poisonLine (s : State) (p : Nat) : State :=
  let n := p / Config.lineBytes
  { s with mem := { s.mem with poison := (locsFrom (n * Config.lineBytes) Config.lineBytes).foldl (fun t l => t.set l ()) s.mem.poison } }

/-- GDDR7_UNCORRECTED_ERROR (R36): the line is poisoned. Input: val the device physical address. -/
def execGddr7UncorrectedError (s : State) : Host.Outcome State Fault Refusal := .next (s.poisonLine s.inp.val)

/-- The KIND 6 entry of a CXL port: Table 2.4 gives a port no array and no row, so the model writes array 0 and the port's number as row
(R48). DESIGN CHOICE, log entry 17. -/
def State.logPort (s : State) (k : Nat) : State := s.logError 0xC000 0 k 6

/-- CXL_POISON (R48): a device reports poison for a line, whose granules are from then on read, written and recorded as those of a failed
port are (`State.deadPort`, `State.touch`). Input: unit the port, val the device physical address. -/
def execCxlPoison (s : State) : Host.Outcome State Fault Refusal :=
  let n := s.inp.val / Config.lineBytes
  .next (if (s.mgmt.cxlBad.get? n).isSome then s
  else (s.updMgmt fun m => { m with cxlBad := m.cxlBad.set n s.inp.unit }).logPort s.inp.unit)

/-- CXL_PORT_DOWN (R48): the port stays down until the next start. Input: unit the port. -/
def execCxlPortDown (s : State) : Host.Outcome State Fault Refusal :=
  let k := s.inp.unit
  .next (if (s.mgmt.cxlPorts.getD k {}).up then
    ((s.updMgmt fun m => { m with cxlPorts := m.cxlPorts.upd k {} fun p => { p with up := false } }).mgmtEvent).logPort k
  else s)

end Machine
end Sys2Proof
end

