-- ==== Sys2Proof/Machine/Fabric.lean ====
section
/-! DEFINITION. The fabric: ports and paths (R49 to R53, R56), streams at their source and at their destination (R54, R55), and what
arrives from peers. -/

namespace Sys2Proof
namespace Machine

/-! ## Ports and paths (R51, R52, R56) -/

/-- Port p. -/
def State.port (s : State) (p : Nat) : FabPort := s.mgmt.fabPorts.getD p {}
/-- Changes port p. -/
def State.updPort (s : State) (p : Nat) (f : FabPort → FabPort) : State :=
  s.updMgmt fun m => { m with fabPorts := m.fabPorts.upd p {} f }

/-- A path fails: FAILS rises, and every unacknowledged operation of each stream that used the port goes out again on the route's next enabled
path whose port is UP, in stream order under its number (R52, R56). -/
def State.pathFails (s : State) (p : Nat) : State :=
  let s := s.updPort p fun x => { x with fails := min 255 (x.fails + 1) }
  let back (x : SrcStream) : SrcStream :=
    if x.ops.any fun o => o.sent && o.port == p then { x with ops := x.ops.map fun o => { o with sent := false } } else x
  let s := { s with fab := { s.fab with src := s.fab.src.map back } }
  (s.fab.src.map fun x => x.id).foldl (fun s id => s.pump id) s

/-- A port that is UP is UP no longer, which is a management event (R43). -/
def State.dropUp (s : State) (p : Nat) (retrain : Bool) : State :=
  let was := (s.port p).up
  let s := s.updPort p fun x => { x with up := false, retrain := retrain, run := 0 }
  if was then s.mgmtEvent else s

/-- PORT_UP (R43, R56): a port has trained; while DEV_NUM.VALID is 0 it stays down. Streams without a path go on. Input: unit the
port. -/
def execPortUp (s : State) : Host.Outcome State Fault Refusal :=
  let p := s.inp.unit
  .next (if p ≥ 32 || !s.mgmt.devValid then s
  else
    let was := (s.port p).up
    let s := s.updPort p fun x => { x with up := true, retrain := false, run := 0 }
    let s := if was then s else s.mgmtEvent
    (s.fab.src.map fun x => x.id).foldl (fun s id => s.pump id) s)

/-- PORT_DOWN (R52): a port leaves UP. Input: unit the port. -/
def execPortDown (s : State) : Host.Outcome State Fault Refusal :=
  let p := s.inp.unit
  .next (if (s.port p).up then (s.dropUp p false).pathFails p else s)

/-- RETRAIN_TIMEOUT (R52): retraining has lasted 8,192 I/O-die cycles. Input: unit the port. -/
def execRetrainTimeout (s : State) : Host.Outcome State Fault Refusal :=
  let p := s.inp.unit
  .next (if (s.port p).retrain then (s.dropUp p true).pathFails p else s)

/-- A flit sent on a port is not acknowledged. -/
def State.unacked (s : State) (p : Nat) : Bool := s.fab.src.any fun x => x.ops.any fun o => o.sent && !o.refused && o.port == p

/-- ACK_TIMEOUT (R52): a flit has gone unacknowledged for 16,384 I/O-die cycles; the port is taken down and retrained. Input: unit the
port. -/
def execAckTimeout (s : State) : Host.Outcome State Fault Refusal :=
  let p := s.inp.unit
  .next (if s.unacked p then (s.dropUp p true).pathFails p else s)

/-- FLIT_RECEIVE (R50, R51): a bad CRC is resent, and after 16 failed retries of one flit the port retrains; a flit for another
device is dropped and counted; any other brings its operation. Input: unit the port, flit. -/
def execFlitReceive (s : State) : Host.Outcome State Fault Refusal :=
  let p := s.inp.unit
  .next (match s.inp.flit with
  | none => s
  | some f =>
    if !s.portUp p then s
    else if !f.crcOk then
      (s.updPort p fun x =>
        let x := { x with retries := min 65535 (x.retries + 1), run := x.run + 1 }
        if x.run ≥ 17 then { x with retrain := true, run := 0 } else x).send (.resend p)
    else
      let s := s.updPort p fun x => { x with run := 0 }
      if f.dest != s.mgmt.devNum then s.updPort p fun x => { x with misroute := min 63 (x.misroute + 1) }
      else s.push [.event .fabricOperationArrival { unit := p, stream := f.op.stream, flit := some f }])

/-! ## What a peer's operation does here (R54, R70) -/

/-- The context that an operation from a peer acts for: the active one with its PASID that holds a valid window whose PEER is the
source, whose PPASID is the source PASID, and whose range has the address. R54 names the context alone: that one being torn down accepts
nothing more is the model's choice. DESIGN CHOICE, log entry 18. -/
def State.dstCtx (s : State) (op : FabOp) : Option Nat :=
  let ok (e : BitVec 128) : Bool :=
    let base := ((e.extractLsb' 91 36).signExtend 43).toNat * 2 ^ 21
    let len := (e.extractLsb' 75 16).toNat * 2 ^ 21
    e.getLsbD 127 && winPeer e == op.stream.peer && winPpasid e == op.stream.pasid && base ≤ op.addr.toNat && op.addr.toNat + op.len ≤ base + len
  (s.ctxs.find? fun (_, x) => x.st == .active && x.pasid == op.ppasid && x.wins.vals.any ok).map Prod.fst

/-- How the access of an operation from a peer translates: as pages of its context, through the I/O die's cache. -/
def State.dstTr (s : State) (c : Nat) (op : FabOp) : LaneTr :=
  let as := answersOf s.link.answers (.dst op.stream.peer op.stream.pasid) (s.ctx c).pasid
  if isWindow op.addr then .access
  else joinTr op.addr op.len fun b => if canonical b then s.trPages c [s.link.tc] as b (op.kind != .load) else .access

/-- The operands of an operation, of one lane each: several lanes that meet on one address come in one operation (R203). -/
def fabOperands (op : FabOp) : List (List Byte) :=
  chunksOf (match op.kind with | .cas => max 1 (2 * op.len) | _ => max 1 op.len) op.data.length op.data

/-- The value that a read-modify-write of a peer leaves, lane by lane; `dst` the context here. -/
def fabResult (op : FabOp) (flush nancan : Bool) (old : Nat) : Nat :=
  (fabOperands op).foldl (fun m bs => match op.kind with
    | .atomic code fp sgn => rmwStep code.toNat fp sgn flush nancan (8 * op.len) m (leNat bs)
    | _ => if m == leNat (bs.take op.len) then leNat (bs.drop op.len) else m) old

/-- What performing an operation comes to: its answer, or it waits. -/
inductive Performed where
  | done (s : State) (refused poisoned : Bool) (data : List Byte)
  | waits (s : State) (parked : Bool)

/-- Performs an operation of a peer at the memory-side point of coherence, as a party outside the dies (R195, R213). The answer to a
read-modify-write is what its first lane finds. -/
def State.performFab (s : State) (op : FabOp) (rounds : Nat) : Performed :=
  match s.dstCtx op with
  | none => .done s true false []
  | some c =>
    let tag := s.tagOf c
    let used (s : State) : State := (List.range op.len).foldl (fun s i => s.useAnswer (.dst op.stream.peer op.stream.pasid) c (op.addr + BitVec.ofNat 64 i) (op.kind != .load)) s
    match s.dstTr c op with
    | .access | .peer _ | .mixed _ => .done (used s) true false []
    | .miss ps =>
      .waits (ps.foldl (fun s p => s.askLink (.dst op.stream.peer op.stream.pasid) c (BitVec.ofNat 64 (p * 4096)) (op.kind != .load)) s) false
    | .fault ps =>
      if rounds ≥ 16 then .done (used s) true false []
      else .waits ((used s).parkGroup (.dst op.stream.peer op.stream.pasid) c ps (op.kind != .load)) true
    | .ok locs =>
      let s := used s
      let l := locs.headD 0
      let mark (s : State) : State := if op.release then s.noteRelease (outsideRel l) else s
      match op.kind with
      | .store => .done (mark (s.writeBytes .home tag (locs.zip op.data))) false false []
      | .load =>
        let (bs, s) := s.readBytes .home tag locs
        .done s false (bs.any (·.2)) (bs.map (·.1))
      | .atomic .. | .cas =>
        let (bs, s) := s.readBytes .home tag locs
        let old := bs.map (·.1)
        if bs.any (·.2) then .done s false true []
        else
          let x := fabResult op (s.ctx c).flush (s.ctx c).nancan (leNat old)
          let t := if x == leNat old && op.kind == .cas then s else s.keepRels .home l (s.writeBytes .home tag (locs.zip (natBytes op.len x)))
          .done (mark t) false false old

/-! ## Streams at their destination (R55) -/

/-- The destination streams that the fabric unit holds. -/
def Fabric.dstStream (f : Fabric) (id : StreamId) : Option DstStream := f.dst.find? fun d => d.id == id
/-- Writes a destination stream. -/
def Fabric.setDst (f : Fabric) (x : DstStream) : Fabric :=
  if f.dst.any (fun y => y.id == x.id) then { f with dst := f.dst.map fun y => if y.id == x.id then x else y } else { f with dst := f.dst ++ [x] }

/-- The table of destination streams is full. -/
def Fabric.dstFull (f : Fabric) : Bool := f.dst.length ≥ 65536

/-- An operation comes before another of its epoch, or is the same (modulo 2^32). -/
def notAfter (a b : Word) : Bool := (b - a).toNat < 2 ^ 31
/-- An epoch is later than another (modulo 256). -/
def laterEpoch (a b : BitVec 8) : Bool := a != b && (a - b).toNat < 128

/-- The next operation that a stream may apply, among those held: the successor of the last one. -/
def DstStream.ready (d : DstStream) : Option FabOp := d.held.find? fun o => d.begun && o.epoch == d.epoch && o.num == d.last + 1

/-- Number 0 of a later epoch, or of a stream with no state, arrives: what is held of earlier epochs is discarded, and the epoch begins with
nothing applied. -/
def DstStream.begin_ (d : DstStream) (o : FabOp) : DstStream :=
  { d with begun := true, epoch := o.epoch, last := 0 - 1, acks := [], parked := false, rounds := 0,
           held := d.held.filter fun x => x.epoch == o.epoch || laterEpoch x.epoch o.epoch }

/-- A stream goes on past an operation of its epoch. -/
def DstStream.advance (d : DstStream) (o : FabOp) (a : FabAck) : DstStream :=
  { d with last := o.num, held := d.held.filter (· != o), acks := d.acks ++ [a], parked := false, rounds := 0 }

/-- Applies and acknowledges what a stream holds, in order, until its next operation is missing or must wait. -/
def State.applyHeld (s : State) (id : StreamId) : Nat → State
  | 0 => s
  | n + 1 =>
    match s.fab.dstStream id with
    | none => s
    | some d =>
      match d.ready with
      | none => s
      | some o =>
        if d.parked && (s.dstCtx o).isSome then s
        else match s.performFab o d.rounds with
        | .waits s parked => { s with fab := s.fab.setDst { d with parked := parked } }
        | .done s refused poisoned data =>
          let a : FabAck := { stream := id, epoch := o.epoch, num := o.num, refused := refused, poisoned := poisoned, data := data }
          State.applyHeld ({ s with fab := s.fab.setDst (d.advance o a) }.send (.ack a)) id n

/-- The stream idle longest among those with nothing held that are not closing. -/
def Fabric.idlest (f : Fabric) : Option DstStream :=
  bestBy (fun (a b : DstStream) => a.age < b.age) (f.dst.filter fun d => d.held.isEmpty && !d.closing)

/-- A stream with no entry finds the table full: the destination closes the idlest stream, and the operation comes again after a retry
response. -/
def State.refuseStream (s : State) (op : FabOp) : State :=
  let s := match s.fab.idlest with
    | some d => ({ s with fab := s.fab.setDst { d with closing := true } }).send (.close d.id d.epoch)
    | none => s
  s.send (.retry op.stream op.num)

/-- What an arriving operation comes to (the table of R55). -/
def State.arriveOp (s : State) (op : FabOp) : State :=
  let s := { s with fab := { s.fab with clock := s.fab.clock + 1 } }
  let d? := s.fab.dstStream op.stream
  if d?.isNone && s.fab.dstFull then s.refuseStream op
  else
    let d : DstStream := { d?.getD { id := op.stream } with age := s.fab.clock }
    if d.begun && laterEpoch d.epoch op.epoch then { s with fab := s.fab.setDst d }
    else if d.begun && op.epoch == d.epoch && notAfter op.num d.last then
      let s := { s with fab := s.fab.setDst d }
      match d.acks.find? fun a => a.num == op.num with
      | some a => s.send (.ack a)
      | none => s
    else
      let fresh : Bool := op.num == 0 && (!d.begun || laterEpoch op.epoch d.epoch)
      let s := if fresh then s.dropClients (· == .dst op.stream.peer op.stream.pasid) else s
      let d := if fresh then d.begin_ op else d
      { s with fab := s.fab.setDst { d with held := d.held ++ (if d.held.contains op then [] else [op]) } }.applyHeld op.stream (d.held.length + 1)

/-- FABRIC_OPERATION_ARRIVAL (R54, R55): an operation arrives, or, where no flit comes with it, a stream whose next operation has
waited for a translation goes on. Input: flit, stream. -/
def execFabricOperationArrival (s : State) : Host.Outcome State Fault Refusal :=
  .next (match s.inp.flit with
  | some f => s.arriveOp f.op
  | none => s.applyHeld s.inp.stream (((s.fab.dstStream s.inp.stream).map fun d => d.held.length).getD 0))

/-- CLOSE_ANSWER_RECEIVE (R55): the destination frees the entry. Input: stream, val the epoch. -/
def execCloseAnswerReceive (s : State) : Host.Outcome State Fault Refusal :=
  .next { s with fab := { s.fab with dst := s.fab.dst.filter fun d => !(d.id == s.inp.stream && d.closing && d.epoch.toNat == s.inp.val) } }

/-! ## Streams at their source (R55, R56) -/

/-- The source answers a close once every operation of its epoch is acknowledged; its next operation begins a new epoch. -/
def State.answerClose (s : State) (id : StreamId) : State :=
  let st := s.fab.srcStream id
  if st.closing && st.ops.isEmpty then
    ({ s with fab := s.fab.setSrc { st with closing := false, fresh := true } }).send (.closeAnswer id st.epoch)
  else s

/-- An operation has its answer: a waiter gets it, a store's launch counts it, and a refused store gives a STOREREF record (R54). -/
def State.opDone (s : State) (o : SentOp) (refused poisoned : Bool) (data : List Byte) : State :=
  let s := match o.waiter with
    | some (cl, k) => s.fabReply cl k refused poisoned data
    | none => if refused then s.errRec o.ctx { kind := 5, addr := o.op.addr } else s
  match o.launch with
  | some l => s.subCount l 1
  | none => s

/-- FABRIC_ACK (R55): an acknowledgement arrives at the source. Input: ack. -/
def execFabricAck (s : State) : Host.Outcome State Fault Refusal :=
  .next (match s.inp.ack with
  | none => s
  | some a =>
    let st := s.fab.srcStream a.stream
    match st.ops.find? fun o => o.op.epoch == a.epoch && o.op.num == a.num && o.sent with
    | none => s
    | some o =>
      let s := { s with fab := s.fab.setSrc { st with ops := st.ops.filter fun x => !(x.op.epoch == a.epoch && x.op.num == a.num) } }
      (s.opDone o a.refused a.poisoned a.data).answerClose a.stream)

/-- FABRIC_RELEASE_SEND (R56): a release whose earlier operations are all acknowledged goes out. Input: stream. -/
def execFabricReleaseSend (s : State) : Host.Outcome State Fault Refusal := .next (s.pump s.inp.stream)

/-- CLOSE_RECEIVE (R55): a close of a stream's epoch arrives; one of an earlier epoch is answered at once. Input: stream, val the
epoch. -/
def execCloseReceive (s : State) : Host.Outcome State Fault Refusal :=
  let id := s.inp.stream
  let st := s.fab.srcStream id
  .next (if st.epoch.toNat == s.inp.val && !st.fresh then
    ({ s with fab := s.fab.setSrc { st with closing := true } }).answerClose id
  else s.send (.closeAnswer id (BitVec.ofNat 8 s.inp.val)))

/-- Changes the operation of a stream with a number. -/
def State.updOp (s : State) (id : StreamId) (num : Nat) (f : SentOp → SentOp) : State :=
  let st := s.fab.srcStream id
  { s with fab := s.fab.setSrc { st with ops := st.ops.map fun o => if o.op.num.toNat == num then f o else o } }

/-- RETRY_RESPONSE (R55): the destination refuses an operation for now. Input: stream, val the number. -/
def execRetryResponse (s : State) : Host.Outcome State Fault Refusal :=
  .next (if (s.fab.srcStream s.inp.stream).ops.any fun o => o.op.num.toNat == s.inp.val && o.sent then
    s.updOp s.inp.stream s.inp.val fun o => { o with sent := false, refused := true }
  else s)

/-- RETRY_RESEND (R55): 1,024 I/O-die cycles later the operation is sent again. Input: stream, val the number. -/
def execRetryResend (s : State) : Host.Outcome State Fault Refusal :=
  .next (if (s.fab.srcStream s.inp.stream).ops.any fun o => o.op.num.toNat == s.inp.val && o.refused then
    (s.updOp s.inp.stream s.inp.val fun o => { o with refused := false }).pump s.inp.stream
  else s)

/-- No enabled path of the route to a stream's destination is UP. -/
def State.noPath (s : State) (id : StreamId) : Bool :=
  match routePaths s.mgmt.routes id.peer with
  | none => true
  | some ps => ps.all fun p => !s.portUp p

/-- STREAM_BREAK (R56): no path has been UP for 65,536 I/O-die cycles: loads and atomics return poisoned data, stores and releases are
dropped, each context that had one receives a FABRICDOWN record, and the next operation begins a new epoch. Input: stream. -/
def execStreamBreak (s : State) : Host.Outcome State Fault Refusal :=
  let id := s.inp.stream
  let st := s.fab.srcStream id
  .next (if st.ops.isEmpty || !s.noPath id then s
  else
    let s := { s with fab := s.fab.setSrc { st with ops := [], fresh := true, closing := false } }
    let s := st.ops.foldl (fun s o => s.opDone o false true []) s
    let s := ((st.ops.map fun o => o.ctx).eraseDups).foldl (fun s c => s.fabricDown c) s
    if st.closing then s.send (.closeAnswer id st.epoch) else s)

end Machine
end Sys2Proof
end

