-- ==== Sys2Proof/Machine/LaneAtomic.lean ====
section
/-! DEFINITION. Atomics, reductions and condition monitors (R416 to R419). -/

namespace Sys2Proof
namespace Machine

/-! ## Read-modify-writes (R417) -/

/-- What one lane of a read-modify-write does to the value it finds: the new value, none where it writes nothing. -/
abbrev Rmw := Nat → Nat → Option Nat

/-- A release read-modify-write's write: its location holds the release of its lane (R213). -/
def State.noteRmw (s : State) (w : Who) (h : How) (addr : Addr) (loc : Nat) (p : Place) : State :=
  if ordRel h.order then
    s.noteRelease { loc := loc, place := p, party := .core w.core, set := h.cap.set, binds := some (s.bound w addr) }
  else s

/-- One lane's read-modify-write at its place: the old value with its poison. -/
def State.rmwAt (s : State) (w : Who) (h : How) (r : Placed) (op : Rmw) : Byt × State :=
  match s.readAcc w h [] r with
  | (.data bs false, _, s) =>
    match r.2, op r.1.lane (leNat bs) with
    | .ok locs, some x =>
      let loc := locs.headD 0
      let p := placeOf w.core loc h.pol h.atomic
      let t := s.writeBytes p (s.tagOf w.ctx) (locs.zip (natBytes r.1.n x))
      (.data bs false, (s.keepRels p loc t).noteRmw w h r.1.addr loc p)
    | _, _ => (.data bs false, s)
  | (x, _, s) => (x, s)

/-- Runs lane operations in lane order. -/
def runLanes (op : State → Placed → Byt × State) : State → List Placed → List (Acc × Byt) × State
  | s, [] => ([], s)
  | s, r :: t =>
    let (b, s) := op s r
    let (bs, s) := runLanes op s t
    ((r.1, b) :: bs, s)

/-- Where an access goes: its address, and its first location, since lanes' private slices share addresses (R167). -/
def goesTo (r : Placed) : Addr × Nat :=
  (r.1.addr, match r.2 with | .ok locs => locs.headD 0 | _ => 0)

/-- Distinct targets of a list of accesses, each with its lanes in order. -/
def byAddr (rs : List Placed) : List (Placed × List Nat) :=
  let as := (rs.map goesTo).eraseDups
  as.filterMap fun a => ((rs.filter fun r => goesTo r == a).head?).map fun r =>
    (r, (rs.filter fun r => goesTo r == a).map fun r => r.1.lane)

/-- The lanes that meet on one address of a fabric window, as operations: their operands go in one flit, which holds 224 bytes (R49, R203);
what does not fit in one goes in the next (log entry 18). -/
def fabChunks (data : Nat → List Byte) (ls : List Nat) : List (List Nat) :=
  chunksOf (max 1 (Config.flitPayload / max 1 (data (ls.headD 0)).length)) ls.length ls

/-- The old values of lanes that meet on one address, from what the first of them finds (R417). -/
def oldValues (op : Rmw) (n : Nat) (a : Acc) : List Nat → Nat → List (Acc × Byt)
  | [], _ => []
  | l :: t, m => ({ a with lane := l }, .data (natBytes n m) false) :: oldValues op n a t ((op l m).getD m)

/-- Lanes that meet on one address of a fabric window: one operation with their operands in lane order, performed there without another
party's access between them (R203). -/
def State.rmwPeer (s : State) (w : Who) (h : How) (op : Rmw) (kind : FabKind) (data : Nat → List Byte) (r : Placed) (ls : List Nat) :
    List (Acc × Byt) × State :=
  match r.2 with
  | .peer e => (fabChunks data ls).zipIdx.foldl (fun (out, s) (ks, i) =>
      let (g, s) := s.fabAccess (.frag w.core w.entry) (r.1.key + i * 2 ^ 80) w.ctx e kind r.1.addr r.1.n (ks.flatMap data) (ordRel h.order)
      let all (b : Byt) : List (Acc × Byt) := ks.map fun l => ({ r.1 with lane := l }, b)
      (out ++ (match g with
        | none => all .waits
        | some g => if g.refused then all .refused else if g.poisoned then all (.data [] true) else oldValues op r.1.n r.1 ks (leNat g.data)), s)) ([], s)
  | _ => ([], s)

/-- A posted release that an access comes after must still wait. -/
def State.postsBlock (s : State) (w : Who) (h : How) (rs : List Placed) : Bool :=
  rs.any fun r => match r.2 with
    | .ok locs =>
      let p := placeOf w.core (locs.headD 0) h.pol h.atomic
      s.hindered w.core fun q => q.slot == w.slot && q.place.same p && q.op.locs.any fun l => locs.contains l
    | _ => false

/-- What a read-modify-write's release half must wait for: the writes that it covers, which for a seq_cst one are all (R218, R219). -/
def State.rmwMustWait (s : State) (w : Who) (h : How) (rs : List Placed) : Bool :=
  if h.order == 4 then s.mustWait w h.cap
  else ordRel h.order && ((h.cap.set.hostfab && s.fabBusy w.ctx) || rs.any fun r => s.hindered w.core (s.covers w r.1.addr))

/-- An access at a peer. -/
def isPeer (r : Placed) : Bool := match r.2 with | .peer _ => true | _ => false

/-- An atomic with a return (ATOM, ATCAS): once every page is known and every peer has answered, each lane's operation is performed in lane
order. -/
def State.atomFlow (s : State) (w : Who) (h : How) (act : Mask) (as : List Acc) (op : Rmw) (kind : FabKind)
    (data : Nat → List Byte) (words : Nat → Nat → List (Nat × Word)) : Flow :=
  match s.staleFlow w h act with
  | some f => f
  | none =>
    let rs := s.sortAccs w h as
    if !(missPages rs).isEmpty then .part (s.askFor w rs true) act
    else
      match misTrap s rs none with
      | some f => f
      | none =>
        let x := seenOf rs
        let mis := misLanes as &&& ~~~ x.acc
        let go := without (x.acc ||| x.flt ||| mis) rs
        let asked := go.any fun r => isPeer r && s.isSent w r.1.key
        if (!asked && s.rmwMustWait w h go) || s.postsBlock w h go then .part s act
        else
          let s := s.fillCore w (go.map fun r => r.1.addr) true
          let s := if asked then s
            else if h.order == 4 then s.fenceSc w h.cap
            else if ordRel h.order then ((go.map fun r => r.1.addr).eraseDups).foldl (fun s a => s.releaseFor w h.cap a) s
            else s
          let (ps, s) := (byAddr (go.filter isPeer)).foldl (fun (out, s) (r, ls) =>
            let (o, s) := s.rmwPeer w h op kind data r ls
            (out ++ o, s)) ([], s)
          if ps.any fun r => r.2 == .waits then .part s act
          else
            let here := go.filter fun r => !isPeer r
            let (bs, s) := runLanes (fun s r => s.rmwAt w h r op) s here
            let all := ps ++ bs
            let ref := bytLanes all (· == .refused)
            let bad := bytLanes all Byt.isBad
            let got := all.filterMap fun r => match r.2 with | .data b false => some (r.1, leNat b) | _ => none
            let s := s.acquireAll w h (go.filter fun r => got.any fun g => g.1.lane == r.1.lane)
            let vals := keyed (got.flatMap fun (a, v) => laneKeys a.lane (words a.lane v))
            let done := got.foldl (fun m r => m ||| laneBit r.1.lane) (0 : Mask)
            let s := if got.isEmpty then s else s.later w false false done vals
            (Seen.withMis { x with acc := x.acc ||| ref, ecc := bad } mis).flow s true none (addrOf as)

/-- The accesses of an atomic: the base alone (R416). -/
def atomAccs (f : LForm) (act : Mask) (n : Nat) (wv : Wave) : List Acc := accsOf act n fun l => wv.base64 l f.va.toNat


/-- ATOM. -/
def execAtom (f : LForm) (s : State) :=
  let i : Instr := .atom f
  let e := i.extL f
  issue i (opsLane { base := true, b := true } f e) (fun s w =>
    let act := s.active w e.gsense e.guard
    let wv := s.regs w
    let bits := fmtBits e.fmt.toNat
    let c := s.ctx w.ctx
    let v (l : Nat) : Nat := wv.srcLow e.usrc bits l f.vb.toNat
    let code := e.src3.toNat % 8
    let fp := e.fmt == 11
    let sgn := e.fmt.toNat < 4
    s.atomFlow w (s.how w e.byte (e.mod.extractLsb' 0 2) { wr := true, atomic := true }) act (atomAccs f act (bits / 8) wv)
      (fun l m => some (rmwStep code fp sgn c.flush c.nancan bits m (v l)))
      (.atomic (BitVec.ofNat 3 code) fp sgn) (fun l => natBytes (bits / 8) (v l))
      (fun _ x => regWords bits f.vd.toNat x)) s

/-- ATCAS. -/
def execAtcas (f : LForm) (s : State) :=
  let i : Instr := .atcas f
  let e := i.extL f
  issue i (opsLane { base := true, b := true, c := true } f e) (fun s w =>
    let act := s.active w e.gsense e.guard
    let wv := s.regs w
    let bits := fmtBits e.fmt.toNat
    let x2 := e.mod.getLsbD 2
    let n := imageBytes bits x2
    let cmp (l : Nat) : Nat := wv.image e.usrc bits x2 l f.vb.toNat
    let new (l : Nat) : Nat := wv.image false bits x2 l e.src3.toNat
    s.atomFlow w (s.how w e.byte (e.mod.extractLsb' 0 2) { wr := true, atomic := true }) act (atomAccs f act n wv)
      (fun l m => if m == cmp l then some (new l) else none)
      .cas (fun l => natBytes n (cmp l) ++ natBytes n (new l))
      (fun _ x => loadWords e.fmt.toNat x2 f.vd.toNat x)) s

/-- RED: one posted operation for each distinct address, with its lanes' operands in lane order (R203, R417). -/
def execRed (f : LForm) (s : State) :=
  let i : Instr := .red f
  let e := i.extL f
  issue i (opsLane { base := true, b := true } f e) (fun s w =>
    let act := s.active w e.gsense e.guard
    let wv := s.regs w
    let bits := fmtBits e.fmt.toNat
    let c := s.ctx w.ctx
    let h := s.how w e.byte (e.mod.extractLsb' 0 2) { wr := true, atomic := true }
    let as := atomAccs f act (bits / 8) wv
    let v (l : Nat) : Nat := wv.srcLow e.usrc bits l f.vb.toNat
    let code := e.src3.toNat % 8
    let fp := e.fmt == 11
    let sgn := e.fmt.toNat < 4
    match s.staleFlow w h act with
    | some fl => fl
    | none =>
      let rs := s.sortAccs w h as
      if !(missPages rs).isEmpty then .part (s.askFor w rs true) act
      else
        match misTrap s rs none with
        | some fl => fl
        | none =>
          let x := seenOf rs
          let mis := misLanes as &&& ~~~ x.acc
          let go := without (x.acc ||| x.flt ||| mis) rs
          if ordRel h.order && anyPeer go && s.mustWait w h.cap then .part s act
          else
            let s := (s.fillCore w (go.map fun r => r.1.addr) true).preStore w h go
            let s := (byAddr go).foldl (fun s (r, ls) =>
              match r.2 with
              | .ok locs => s.postOp w h (locs.headD 0) r.1.addr
                  (.red (locs.headD 0) (bits / 8) code fp sgn c.flush c.nancan (ls.map v))
              | .peer p => (fabChunks (fun l => natBytes (bits / 8) (v l)) ls).foldl (fun s ks =>
                  (s.addCount w.launch 1).fabSend w.ctx p (.atomic (BitVec.ofNat 3 code) fp sgn) r.1.addr (bits / 8)
                    (ks.flatMap fun l => natBytes (bits / 8) (v l)) (ordRel h.order) none (some w.launch)) s
              | _ => s) s
            (x.withMis mis).flow s true none (addrOf as)) s

/-! ## WAITC (R418, R419) -/

/-- A condition of WAITC. -/
def waitCond (code bits x y : Nat) : Bool :=
  match code with
  | 0 => x == y
  | 1 => x != y
  | 2 => y ≤ x
  | 3 => x < y
  | 4 => toSigned bits y ≤ toSigned bits x
  | _ => toSigned bits x < toSigned bits y

/-- Drops the monitors of a fragment. -/
def State.dropMonitorsOf (s : State) (core entry : Nat) : State :=
  if s.dies.any fun (_, d) => d.monitors.any fun m => m.core == core && m.entry == entry && !m.saved then
    { s with dies := s.dies.map fun (k, d) =>
        (k, { d with monitors := d.monitors.filter fun m => !(m.core == core && m.entry == entry && !m.saved) }) }
  else s

/-- Arms a monitor for a lane: its id + 1, or 0 where the lane must poll. -/
def State.arm (s : State) (w : Who) (h : How) (r : Placed) : Nat × State :=
  match r.2 with
  | .ok locs =>
    let loc := locs.headD 0
    let p := match placeOf w.core loc h.pol true with
      | .l2 d _ => Place.l2 d true
      | q => q
    let d := match p with
      | .l2 d _ => d
      | _ => homeDie loc
    if !isDev loc || ((s.die d).monitors.filter fun m => m.place == p).length ≥ 2048 then (0, s)
    else
      let (id, s) := s.fresh
      let m : Monitor := { id := id, place := p, granule := loc / 16, core := w.core, entry := w.entry, team := w.team }
      (id + 1, s.updDie d fun x => { x with monitors := x.monitors ++ [m] })
  | _ => (0, s)

/-- WAITC: lanes whose condition holds are done; the others arm a monitor, or poll. Wait.lanes are the lanes still waiting,
Wait.gran their monitors, Wait.m the lanes that read again. -/
def execWaitc (f : LForm) (s : State) :=
  let i : Instr := .waitc f
  let e := i.extL f
  issue i (opsLane { base := true, b := true } f e) (fun s w =>
    let fr := s.frag w
    let more := fr.st == .syncwait && fr.wait.kind == .waitc
    let act := if more then fr.wait.lanes else s.active w e.gsense e.guard
    let now := if more then BitVec.ofNat 64 fr.wait.m &&& act else act
    let wv := s.regs w
    let bits := fmtBits e.fmt.toNat
    let h := s.how w e.byte (e.mod.extractLsb' 0 2) { atomic := true }
    let as := atomAccs f now (bits / 8) wv
    let again (s : State) : Flow := if more then .hold s else .part s act
    if more && !fr.wait.ready then .hold s
    else
      match s.staleFlow w h act with
      | some fl => fl
      | none =>
        let rs := (s.sortAccs w h as).map fun r => if isWindow r.1.addr then (r.1, LaneTr.access) else r
        let x := seenOf rs
        let mis := misLanes as &&& ~~~ x.acc
        let stop (code : Nat) (ls : Mask) (s : State) (rest : Mask) : Flow :=
          .trap (s.dropMonitorsOf w.core w.entry) { code := code, lanes := ls, pend := rest &&& ~~~ ls, addr := addrOf as (lowestLane ls) }
        if !(missPages rs).isEmpty then again (s.askFor w rs false)
        else if x.acc != 0 then stop 5 x.acc s act
        else if mis != 0 then stop 3 mis s act
        else if x.flt != 0 then .park (s.dropMonitorsOf w.core w.entry) act x.pages false (addrOf as (lowestLane x.flt))
        else
          let (bs, s) := (s.fillCore w (as.map fun a => a.addr) false).readAccs w (fun _ => h) [] rs
          if bs.any fun r => r.2 == .waits then again s
          else
            let s := s.fabForget (.frag w.core w.entry)
            let ref := bytLanes bs (· == .refused)
            let bad := bytLanes bs Byt.isBad
            let ok := bs.filterMap fun r => match r.2 with
              | .data b false =>
                let x := leNat b
                if waitCond (e.src3.toNat % 8) bits x (wv.srcLow e.usrc bits r.1.lane f.vb.toNat) then some (r.1, x) else none
              | _ => none
            let done := ok.foldl (fun m r => m ||| laneBit r.1.lane) (0 : Mask)
            let s := s.updWave w fun wv => wv.putLanes (ok.map fun (a, x) => (a.lane, { v := regWords bits f.vd.toNat x }))
            let s := s.acquireEach w h (rs.filter fun r => done.getLsbD r.1.lane)
            let left := act &&& ~~~ done
            if ref != 0 then stop 5 ref s left
            else if bad != 0 then stop 16 bad s left
            else if left == 0 then .done (s.dropMonitorsOf w.core w.entry)
            else
              let (gran, s) := rs.foldl (fun (g, s) r =>
                if left.getLsbD r.1.lane && (Tbl.get? g r.1.lane).isNone then
                  let (id, s) := s.arm w h r
                  (Tbl.set g r.1.lane id, s)
                else (g, s)) ((if more then fr.wait.gran.filter fun r => left.getLsbD r.1 else []), s)
              .wait s { kind := .waitc, lanes := left, cap := h.cap, gran := gran }) s

end Machine
end Sys2Proof
end

