-- ==== Sys2Proof/Machine/LaneImage.lean ====
section
/-! DEFINITION. Texture samples, texel loads and texel stores (R420 to R423). -/

namespace Sys2Proof
namespace Machine

/-- An image descriptor (Table 16.4). -/
structure Image where
  base : Addr
  width : Nat
  height : Nat
  pitch : Nat
  tfmt : Nat
  filt : Nat
  wrapx : Nat
  wrapy : Nat
  rsv : Nat
  deriving DecidableEq, Repr, Inhabited

/-- Bytes and channels of a texel format (Table 16.5); no bytes: out of range. -/
def texelShape (t : Nat) : Nat × Nat :=
  match t with
  | 0 => (1, 1) | 1 => (2, 2) | 2 => (4, 4) | 3 => (2, 1) | 4 => (8, 4) | 5 => (4, 1) | 6 => (8, 2) | 7 => (16, 4) | 8 => (4, 1)
  | _ => (0, 0)

/-- The fields of a descriptor's bytes. -/
def imageOf (bs : List Byte) : Image :=
  let x := leNat bs
  let at_ (lo n : Nat) : Nat := x / 2 ^ lo % 2 ^ n
  { base := BitVec.ofNat 64 (at_ 0 64), width := at_ 64 16, height := at_ 80 16, pitch := at_ 96 32, tfmt := at_ 128 4,
    filt := at_ 132 2, wrapx := at_ 134 2, wrapy := at_ 136 2, rsv := at_ 138 118 }

/-- A descriptor within its ranges (R420). -/
def Image.ok (d : Image) (tex : Bool) : Bool :=
  let n := (texelShape d.tfmt).1
  n != 0 && d.base.toNat % n == 0 && 1 ≤ d.width && d.width ≤ 16384 && 1 ≤ d.height && d.height ≤ 16384
    && d.pitch % n == 0 && d.width * n ≤ d.pitch && d.filt < 2 && d.rsv == 0 && !(tex && d.tfmt == 8)

/-- Texel (i, j) as an access of a lane. -/
def Image.texel (d : Image) (l i j : Nat) : Acc :=
  let n := (texelShape d.tfmt).1
  { lane := l, addr := d.base + BitVec.ofNat 64 (j * d.pitch + i * n), n := n }

/-- Channel c of a texel's bytes as a value; a channel the format lacks is 0, and 1 for channel 3 (R421). UN8 channels are
left as their codes, to be divided by 255. -/
def Image.chan (d : Image) (flush : Bool) (bs : List Byte) (c : Nat) : Val :=
  let x := leNat bs
  if c ≥ (texelShape d.tfmt).2 then (if c == 3 then intV (if d.tfmt < 3 then 255 else 1) else zeroV false)
  else if d.tfmt < 3 then intV (elemAt 8 x c)
  else if d.tfmt < 5 then decodeCode fp16 flush (elemAt 16 x c)
  else decodeCode fp32 flush (elemAt 32 x c)

/-- round_rne of an exact channel sum to fp32: UN8 codes are divided by 255. -/
def Image.round (d : Image) (flush nancan : Bool) (v : Val) : Nat :=
  let v := match v with
    | .num x => if d.tfmt < 3 && !x.isZero then Val.num (divR x (ofInt 255 0)) else v
    | _ => v
  (roundVal fp32 0 false flush nancan 0 v).code

/-! ## The descriptor's read -/

/-- Applies a change to the state of an instruction that stays under way. -/
def Flow.underWay (fl : Flow) (g : State → State) : Flow :=
  match fl with
  | .wait s k => .wait (g s) k
  | .part s l => .part (g s) l
  | .park s l p wr a => .park (g s) l p wr a
  | x => x

/-- Reads the descriptor, once for the instruction, and goes on with it: one that stays under way keeps the bytes it has read. A
misaligned or ill-formed one raises ILLOP with cause 6 and the descriptor's address; conditions of the read concern every active lane
(R302, R420). -/
def State.withImage (s : State) (w : Who) (act : Mask) (a : Addr) (tex : Bool) (k : State → Image → Flow) : Flow :=
  let bad : Trap := { code := 1, cause := 6, lanes := act, addr := a }
  let use (s : State) (bs : List Byte) : Flow :=
    let d := imageOf bs
    if d.ok tex then (k s d).underWay fun s => s.updFrag w fun f => { f with desc := some bs } else .trap s bad
  if a.toNat % 32 != 0 then .trap s bad
  else
    match (s.frag w).issued.bind fun _ => (s.frag w).desc with
    | some bs => use s bs
    | none =>
      let g := s.gather w { uni := true } [{ lane := 0, addr := a, n := 32 }]
      if g.rest != 0 || g.x.any != 0 then g.x.finish g.rest g.s false (some act) fun _ => a
      else use g.s (bytesAt g.bytes 0 0)

/-- Applies a change to the state of an instruction that has performed its lanes. -/
def Flow.andThen (fl : Flow) (g : State → State) : Flow :=
  match fl with
  | .done s => .done (g s)
  | .trap s t => .trap (g s) t
  | .park s l p wr a => .park (g s) l p wr a
  | .wait s k => .wait (g s) k
  | .part s l => .part (g s) l
  | x => x

/-- Four registers of a lane as entries of a pending result. -/
def quadWords (l vd : Nat) (xs : List Nat) : List (Nat × Word) :=
  xs.mapIdx fun c x => ((vd + c) * 64 + l, BitVec.ofNat 32 x)

/-! ## TEX (R422) -/

/-- A coordinate in units of 2^-149: NaN is 0, and the range is −2^15 to 2^15. -/
def texCoord (flush : Bool) (c : Nat) : Int :=
  let lim : Int := 2 ^ 164
  match decodeCode fp32 flush c with
  | .nan _ _ => 0
  | .inf neg => if neg then -lim else lim
  | .num x => clampI (-lim) lim (x.toInt * 2 ^ (x.e + 149).toNat)

/-- A texel index under a wrap mode; none is a border texel. -/
def wrapIndex (mode : Nat) (n : Nat) (i : Int) : Option Nat :=
  match mode with
  | 0 => some (clampI 0 (n - 1) i).toNat
  | 1 => some (i % n).toNat
  | 2 =>
    let k := (i % (2 * n)).toNat
    some (if k < n then k else 2 * n - 1 - k)
  | _ => if i < 0 || i ≥ n then none else some i.toNat

/-- First texel and weight, in 256ths, of the next one: nearest, or bilinear with the weight rounded RNE. -/
def texPos (bilinear : Bool) (u : Int) (n : Nat) : Int × Nat :=
  let x := u * n - (if bilinear then 2 ^ 148 else 0)
  let i := x / 2 ^ 149
  if bilinear then
    let fr := (x % 2 ^ 149).toNat
    let q := fr / 2 ^ 141
    let r := fr % 2 ^ 141
    (i, if r > 2 ^ 140 || (r == 2 ^ 140 && q % 2 == 1) then q + 1 else q)
  else (i, 0)

/-- The texels of a lane with their weights in 65,536ths, those of weight 0 left out; a border texel has no index. -/
def Image.samples (d : Image) (u v : Int) : List (Option (Nat × Nat) × Nat) :=
  let bl := d.filt == 1
  let (i, fa) := texPos bl u d.width
  let (j, fb) := texPos bl v d.height
  let at_ (i j : Int) : Option (Nat × Nat) := (wrapIndex d.wrapx d.width i).bind fun i => (wrapIndex d.wrapy d.height j).map fun j => (i, j)
  ([(at_ i j, (256 - fa) * (256 - fb)), (at_ (i + 1) j, fa * (256 - fb)), (at_ i (j + 1), (256 - fa) * fb),
    (at_ (i + 1) (j + 1), fa * fb)]).filter fun t => t.2 != 0

/-- Pairs the samples of a lane with the bytes read for those that have a texel. -/
def pairSamples : List (Option (Nat × Nat) × Nat) → List (List Byte) → List (Option (List Byte) × Nat)
  | [], _ => []
  | (none, k) :: t, bs => (none, k) :: pairSamples t bs
  | (some _, k) :: t, b :: bs => (some b, k) :: pairSamples t bs
  | (some _, k) :: t, [] => (none, k) :: pairSamples t []

/-- Channel c of a sample: round_rne of the exact weighted sum. A border texel's channels are all 0. -/
def Image.sample (d : Image) (flush nancan : Bool) (ts : List (Option (List Byte) × Nat)) (c : Nat) : Nat :=
  let terms := ts.map fun (b, k) =>
    (mulV (match b with
      | some bs => d.chan flush bs c
      | none => zeroV false) (.num { neg := false, m := k, e := -16 })).1
  match sumV terms with
  | (.nan _ _, _) => 0x7FC00000
  | (v, _) => d.round flush nancan v

/-- TEX. MOD[2] is .se. -/
def execTex (f : LForm) (s : State) :=
  let i : Instr := .tex f
  let e := i.extL f
  issue i (opsLane { a := true } f e) (fun s w =>
    let act := s.active w e.gsense e.guard
    let c := s.ctx w.ctx
    let wv := s.regs w
    s.withImage w act (wv.g64 f.vb.toNat) true fun s d =>
      let lanes := (lanesOf act).map fun l =>
        (l, d.samples (texCoord c.flush (wv.vreg l f.va.toNat).toNat) (texCoord c.flush (wv.vreg l (f.va.toNat + 1)).toNat))
      let as := lanes.flatMap fun (l, ts) => ts.filterMap fun t => t.1.map fun (i, j) => d.texel l i j
      let g := s.gather w { pol := e.mod.extractLsb' 0 2 } as
      let ok := lanes.filter fun (l, _) => !(g.x.any ||| g.rest).getLsbD l
      let vals := keyed (ok.flatMap fun (l, ts) =>
        let px := pairSamples ts ((g.bytes.filter fun r => r.1.lane == l).map Prod.snd)
        quadWords l f.vd.toNat ((List.range 4).map fun ch => d.sample c.flush c.nancan px ch))
      let m := ok.foldl (fun m r => m ||| laneBit r.1) (0 : Mask)
      let s := if m == 0 then g.s else g.s.later w false (e.mod.getLsbD 2) m vals
      g.x.finish g.rest s false none (addrOf as)) s

/-! ## TLD and IMGST (R423) -/

/-- The texel a lane names, none when it is out of range. -/
def Image.at? (d : Image) (x y : Word) : Option (Nat × Nat) :=
  if x.toNat < d.width && y.toNat < d.height then some (x.toNat, y.toNat) else none

/-- The four registers of a texel load. -/
def Image.load (d : Image) (flush nancan : Bool) (bs : List Byte) : List Nat :=
  if d.tfmt == 8 then [leNat bs, 0, 0, 1]
  else (List.range 4).map fun c =>
    if d.tfmt ≥ 5 && c < (texelShape d.tfmt).2 then elemAt 32 (leNat bs) c else d.round flush nancan (d.chan flush bs c)

/-- TLD. An out-of-range lane gets zeros and sets BOUND. -/
def execTld (f : LForm) (s : State) :=
  let i : Instr := .tld f
  let e := i.extL f
  issue i (opsLane { a := true } f e) (fun s w =>
    let act := s.active w e.gsense e.guard
    let wv := s.regs w
    s.withImage w act (wv.g64 f.vb.toNat) false fun s d =>
      let at_ (l : Nat) := d.at? (wv.vreg l f.va.toNat) (wv.vreg l (f.va.toNat + 1))
      let ls := lanesOf act
      let as := ls.filterMap fun l => (at_ l).map fun (i, j) => d.texel l i j
      let g := s.gather w { pol := e.mod.extractLsb' 0 2 } as
      let ok := ls.filter fun l => !(g.x.any ||| g.rest).getLsbD l
      let vals := keyed (ok.flatMap fun l =>
        quadWords l f.vd.toNat
          (if (at_ l).isSome then d.load (s.ctx w.ctx).flush (s.ctx w.ctx).nancan (bytesAt g.bytes l 0) else [0, 0, 0, 0]))
      let m := ok.foldl (fun m l => m ||| laneBit l) (0 : Mask)
      let s := if ls.any fun l => (at_ l).isNone then g.s.updWave w fun wv => wv.orFlags Fl.bound else g.s
      let s := if m == 0 then s else s.later w false (e.mod.getLsbD 2) m vals
      g.x.finish g.rest s false none (addrOf as)) s

/-- The bytes of a texel that a store writes from four registers. -/
def Image.store (d : Image) (flush nancan : Bool) (r : Nat → Nat) : List Byte :=
  let (n, ch) := texelShape d.tfmt
  let un8 (x : Nat) : Nat :=
    match decodeCode fp32 flush x with
    | .nan _ _ => 0
    | .inf neg => if neg then 0 else 255
    | .num v => (clampI 0 255 (roundInt 0 0 (mulR v (ofInt 255 0))).1).toNat
  (List.range ch).flatMap fun c =>
    if d.tfmt < 3 then natBytes 1 (un8 (r c))
    else if d.tfmt < 5 then natBytes 2 (roundVal fp16 0 false flush nancan 0 (decodeCode fp32 flush (r c))).code
    else natBytes (n / ch) (r c)

/-- IMGST. An out-of-range lane writes nothing and sets BOUND. -/
def execImgst (f : LForm) (s : State) :=
  let i : Instr := .imgst f
  let e := i.extL f
  issue i (opsLane { a := true } f e) (fun s w =>
    let act := s.active w e.gsense e.guard
    let c := s.ctx w.ctx
    let wv := s.regs w
    s.withImage w act (wv.g64 f.vb.toNat) false fun s d =>
      let at_ (l : Nat) := d.at? (wv.vreg l f.va.toNat) (wv.vreg l (f.va.toNat + 1))
      let ls := lanesOf act
      let as := ls.filterMap fun l => (at_ l).map fun (i, j) => d.texel l i j
      let fl := s.storeFlow w { wr := true, pol := e.mod.extractLsb' 0 2 } false none act as fun l =>
        d.store c.flush c.nancan fun k => (wv.vreg l (f.vd.toNat + k)).toNat
      fl.andThen fun s => if ls.any fun l => (at_ l).isNone then s.updWave w fun wv => wv.orFlags Fl.bound else s) s

end Machine
end Sys2Proof
end

