-- ==== Sys2Proof/Machine/LaneStream.lean ====
section
/-! DEFINITION. Stream registers and their instructions (R424 to R429). -/

namespace Sys2Proof
namespace Machine

/-- The sentinel that ends an index list. -/
def sentinel : Nat := 0xFFFFFFFF
/-- What a lane's position names (R427). -/
inductive StreamElem where
  | ends
  | out (j : Nat)
  | at_ (j : Nat)
  deriving DecidableEq, Repr

/-- The element of a lane: for an indirect lane from the index read. -/
def Strm.elem (x : Strm) (index : Nat) : StreamElem :=
  if x.indirect then (if index == sentinel then .ends else if index ≥ x.bound.toNat then .out index else .at_ index)
  else if x.pos == x.bound then .ends else .at_ x.pos.toNat

/-- Advances a lane by one entry that is not the end (R428). -/
def Strm.next (x : Strm) : Strm := { x with pos := x.pos + 1 }

/-! ## Opens and closes (R426, R428) -/

/-- Opens the active lanes' streams: BOUND, then MISALIGN on any lane leaves every lane as it is; BOUND comes after
MISALIGN in R302's order. -/
def openLanes (s : State) (act : Mask) (mk : Nat → Strm) (w : Who) (n : Nat) : Flow :=
  let pick (p : Strm → Bool) : Mask := (lanesOf act).foldl (fun m l => if p (mk l) then m ||| laneBit l else m) 0
  let bnd := pick fun x => x.bound.toNat == sentinel
  let mis := pick fun x => x.a.toNat % x.size != 0 || (x.indirect && x.b.toNat % 4 != 0)
  if mis != 0 then .trap s { code := 3, lanes := mis, pend := bnd &&& ~~~ mis, addr := (mk (lowestLane mis)).a }
  else if bnd != 0 then .trap s { code := 15, lanes := bnd, addr := (mk (lowestLane bnd)).a }
  else .done (s.updWave w fun wv => (lanesOf act).foldl (fun wv l => wv.setStrm n l (mk l)) wv)

/-- SOPEN. -/
def execSopen (f : LForm) (s : State) :=
  let i : Instr := .sopen f
  let e := i.extL f
  issue i (opsLane { base := true, b := true } f e) (fun s w =>
    let wv := s.wave w
    openLanes s (s.active w e.gsense e.guard)
      (fun l => { isOpen := true, fmt := e.fmt.toNat, pol := e.mod.extractLsb' 0 2, a := wv.base64 l f.va.toNat,
                  bound := BitVec.ofNat 32 (wv.src e.usrc 32 l f.vb.toNat) }) w f.vd.toNat) s

/-- ISOPEN. -/
def execIsopen (f : LForm) (s : State) :=
  let i : Instr := .isopen f
  let e := i.extL f
  issue i (opsLane { base := true, b := true, c := true } f e) (fun s w =>
    let wv := s.wave w
    openLanes s (s.active w e.gsense e.guard)
      (fun l => { isOpen := true, indirect := true, fmt := e.fmt.toNat, pol := e.mod.extractLsb' 0 2, a := wv.base64 l f.va.toNat,
                  b := BitVec.ofNat 64 (wv.src e.usrc 64 l f.vb.toNat), bound := wv.vreg l e.src3.toNat }) w f.vd.toNat) s

/-- SCLOSE. -/
def execSclose (f : LForm) (s : State) :=
  let i : Instr := .sclose f
  let e := i.extL f
  issue i opsNone (fun s w =>
    .done (s.updWave w fun wv => (lanesOf (s.active w e.gsense e.guard)).foldl (fun wv l =>
      wv.setStrm f.vd.toNat l { wv.strm f.vd.toNat l with isOpen := false }) wv)) s

/-! ## Reading a lane's position -/

/-- Lanes of `act` whose stream n is closed. -/
def Wave.closedLanes (wv : Wave) (n : Nat) (act : Mask) : Mask :=
  (lanesOf act).foldl (fun m l => if (wv.strm n l).isOpen then m else m ||| laneBit l) 0

/-- The index accesses of the open, indirect lanes. -/
def Wave.indexAccs (wv : Wave) (n : Nat) (act : Mask) : List Acc :=
  (lanesOf act).filterMap fun l =>
    let x := wv.strm n l
    if x.isOpen && x.indirect then some { lane := l, addr := x.indexAddr, n := 4 } else none

/-- How a lane of a stream register makes its accesses: under the policy of its own stream. -/
def Wave.strmHow (wv : Wave) (n : Nat) (wr : Bool) (l : Nat) : How := { wr := wr, pol := (wv.strm n l).pol }

/-- Reads accesses of lanes whose streams may have different policies. -/
def State.gatherStrm (s : State) (w : Who) (n : Nat) (as : List Acc) : Gather :=
  s.gatherPlaced w ((s.wave w).strmHow n false) false (s.sortAccs w {} as)

/-- What an instruction finds of its active lanes: closed lanes have ACCESS, lanes of `rest` wait, the others have their element. -/
structure Found where
  s : State
  x : Seen
  rest : Mask
  elems : List (Nat × Strm × StreamElem)

/-- Finds the element of every active lane. -/
def State.findElems (s : State) (w : Who) (n : Nat) (act : Mask) : Found :=
  let wv := s.wave w
  let g := s.gatherStrm w n (wv.indexAccs n act)
  let x := { g.x with acc := g.x.acc ||| wv.closedLanes n act }
  { s := g.s, x := x, rest := g.rest, elems := ((lanesOf act).filter fun l => !(x.any ||| g.rest).getLsbD l).map fun l =>
      let z := wv.strm n l
      (l, z, z.elem (valAt g.bytes l 0)) }

/-- The address that a trap reports for a lane of a stream instruction. -/
def Wave.streamAddr (wv : Wave) (n l : Nat) (elems : List (Nat × Strm × StreamElem)) : Addr :=
  let z := wv.strm n l
  match elems.find? fun r => r.1 == l with
  | some (_, _, .at_ j) => z.elemAddr j
  | some (_, _, .out j) => z.elemAddr j
  | _ => z.here

/-- Lanes of a list of elements that meet a test. -/
def elemLanes (es : List (Nat × Strm × StreamElem)) (p : StreamElem → Bool) : Mask :=
  es.foldl (fun m (l, _, e) => if p e then m ||| laneBit l else m) 0

/-- A lane has an element in range. -/
def StreamElem.isAt : StreamElem → Bool
  | .at_ _ => true
  | _ => false

/-- Advances lanes by one entry: not those at the end. -/
def Wave.advance (wv : Wave) (n : Nat) (es : List (Nat × Strm × StreamElem)) (lanes : Mask) : Wave :=
  es.foldl (fun wv (l, z, e) => if lanes.getLsbD l && e != .ends then wv.setStrm n l z.next else wv) wv

/-- The element accesses of lanes in range. -/
def elemAccs (es : List (Nat × Strm × StreamElem)) : List Acc :=
  es.filterMap fun (l, z, e) => match e with
    | .at_ j => some { lane := l, addr := z.elemAddr j, n := z.size }
    | _ => none

/-- The lanes that have completed: masked lanes set BOUND, or under .chk raise it; .adv advances. -/
def finishStream (s : State) (w : Who) (n : Nat) (e : EMod) (es : List (Nat × Strm × StreamElem)) (x : Seen) (rest : Mask) : State × Seen :=
  let off := elemLanes es fun k => !k.isAt
  let chk := e.mod.getLsbD 2
  let x := if chk then { x with bnd := off } else x
  let ok := elemLanes es (fun _ => true) &&& ~~~ (x.any ||| rest)
  let s := if !chk && off != 0 then s.updWave w fun wv => wv.orFlags Fl.bound else s
  (if e.mod.getLsbD 0 then s.updWave w fun wv => wv.advance n es ok else s, x)

/-- Some active lane's element has 8 bytes, and the field names no pair: ILLOP with cause 3 (R359, R425). -/
def Wave.pairBad (wv : Wave) (n : Nat) (act : Mask) (usrc : Bool) (r : Nat) : Bool :=
  (lanesOf act).any fun l =>
    (wv.strm n l).isOpen && (wv.strm n l).size == 8 && !(r % 2 == 0 && (usrc || r + 2 ≤ wv.vregs))

/-- SRD. -/
def execSrd (f : LForm) (s : State) :=
  let i : Instr := .srd f
  let e := i.extL f
  issue i opsNone (fun s w =>
    let n := f.va.toNat % 16
    let act := s.active w e.gsense e.guard
    let wv := s.wave w
    if wv.pairBad n act false f.vd.toNat then .trap s { code := 1, cause := 3, lanes := act }
    else
      let z := s.findElems w n act
      let g := z.s.gatherStrm w n (elemAccs z.elems)
      let vals := keyed (g.bytes.flatMap fun (a, b) => laneKeys a.lane (loadWords (wv.strm n a.lane).fmt false f.vd.toNat (leNat b)))
      let s := if g.bytes.isEmpty then g.s else g.s.later w false false (lanesGot g.bytes) vals
      let rest := z.rest ||| g.rest
      let (s, x) := finishStream s w n e z.elems (z.x.join g.x) rest
      x.finish rest s false none fun l => wv.streamAddr n l z.elems) s

/-- SWR: the low E bytes of the data are written at the element. -/
def execSwr (f : LForm) (s : State) :=
  let i : Instr := .swr f
  let e := i.extL f
  issue i (opsLane { b := true } f e) (fun s w =>
    let n := f.va.toNat % 16
    let act := s.active w e.gsense e.guard
    let wv := s.wave w
    if wv.pairBad n act e.usrc f.vb.toNat then .trap s { code := 1, cause := 3, lanes := act }
    else
      let z := s.findElems w n act
      let data (l : Nat) : List Byte :=
        let b := fmtBits (wv.strm n l).fmt
        natBytes (b / 8) ((s.regs w).src e.usrc b l f.vb.toNat)
      let rs := z.s.sortAccs w { wr := true } (elemAccs z.elems)
      let y := seenOf rs
      let rest := z.rest ||| (missLanes rs &&& ~~~ y.acc)
      let go := without (y.acc ||| y.flt ||| rest) rs
      let s := ((z.s.askFor w rs true).fillCore w (go.map fun r => r.1.addr) true).storeAccs w (wv.strmHow n true) false
        (go.map fun r => (r, data r.1.lane))
      let (s, x) := finishStream s w n e z.elems (z.x.join { y with flt := y.flt &&& ~~~ rest }) rest
      x.finish rest s true none fun l => wv.streamAddr n l z.elems) s

/-- STEND: a fixed-latency result. -/
def execStend (f : LForm) (s : State) :=
  let i : Instr := .stend f
  let e := i.extL f
  issue i opsNone (fun s w =>
    let n := f.va.toNat % 16
    let wv := s.wave w
    let z := s.findElems w n (s.active w e.gsense e.guard)
    let s := z.s.updWave w fun wv =>
      wv.setPreds (f.vd.toNat % 8) (elemLanes z.elems fun _ => true) (elemLanes z.elems fun k => k == .ends)
    z.x.finish z.rest s false none fun l => wv.streamAddr n l z.elems) s

/-! ## SADV (R428) -/

/-- What stepping through an index list comes to. -/
inductive Adv where
  | pos (s : State) (p : Word)
  | hold (s : State)
  | access
  | ecc
  | fault (pages : List Nat)

/-- Takes up to k entries of a lane's index list: it stops on the sentinel. -/
def stepIndirect (w : Who) (z : Strm) (lane : Nat) : Nat → State → Word → Adv
  | 0, s, p => .pos s p
  | k + 1, s, p =>
    let a : Acc := { lane := lane, addr := ({ z with pos := p } : Strm).indexAddr, n := 4 }
    match s.sortAccs w {} [a] with
    | [(_, .fault ps)] => .fault ps
    | [(_, .miss ps)] => .hold (s.askPages w ps false)
    | [r] =>
      match s.readAcc w { pol := z.pol } [] r with
      | (.data bs false, _, s) => if leNat bs == sentinel then .pos s p else stepIndirect w z lane k s (p + 1)
      | (.data _ true, _, _) => .ecc
      | (.refused, _, _) => .access
      | (.waits, _, s) => .hold s
    | _ => .access

/-- SADV: every open active lane advances; a lane whose index reads do not all complete keeps its position. -/
def execSadv (f : LForm) (s : State) :=
  let i : Instr := .sadv f
  let e := i.extL f
  issue i (opsLane { b := true } f e) (fun s w =>
    let n := f.vd.toNat % 16
    let act := s.active w e.gsense e.guard
    let wv := s.wave w
    let step (l : Nat) : Nat := if e.mod.getLsbD 2 then (s.regs w).src e.usrc 32 l f.vb.toNat else 1
    let r : State × Mask × Seen × List (Nat × Word) := (lanesOf act).foldl (fun (s, rest, x, ps) l =>
      let z := wv.strm n l
      if !z.isOpen then (s, rest, { x with acc := x.acc ||| laneBit l }, ps)
      else if !z.indirect then
        (s, rest, x, ps ++ [(l, if z.pos.toNat + step l ≤ z.bound.toNat then BitVec.ofNat 32 (z.pos.toNat + step l) else z.bound)])
      else match stepIndirect w z l (step l) s z.pos with
        | .pos s p => (s, rest, x, ps ++ [(l, p)])
        | .hold s => (s, rest ||| laneBit l, x, ps)
        | .access => (s, rest, { x with acc := x.acc ||| laneBit l }, ps)
        | .ecc => (s, rest, { x with ecc := x.ecc ||| laneBit l }, ps)
        | .fault pg => (s, rest, { x with flt := x.flt ||| laneBit l, pages := (x.pages ++ pg).eraseDups }, ps)) (s, 0, {}, [])
    let (s, rest, x, ps) := r
    x.finish rest (s.updWave w fun wv => ps.foldl (fun wv (l, p) => wv.setStrm n l { wv.strm n l with pos := p }) wv) false none
      fun l => wv.streamAddr n l []) s

end Machine
end Sys2Proof
end

