-- ==== Sys2Proof/Machine/Registers.lean ====
section
/-! DEFINITION. The registers of the two functions (R40, R44, R73, R74, R315; Tables 1.3, 1.4, 2.2 to 2.5, 4.1, 12.7): what they read
as, and writes to them. -/

namespace Sys2Proof
namespace Machine

/-! ## What registers read as -/

/-- A flag as 0 or 1 at a bit. -/
def bitAt (b : Bool) (n : Nat) : Nat := if b then 2 ^ n else 0

/-- PWR_CAP (Table 1.3). -/
def Mgmt.pwrCap (m : Mgmt) : Nat := m.capNext.toNat + bitAt m.capErr 31
/-- PWR_STAT (Table 1.4). -/
def Mgmt.pwrStat (m : Mgmt) : Nat :=
  Config.tokenNj * 2 ^ 48 + m.clkStep * 2 ^ 44 + m.pool * 2 ^ 28 + m.refill * 2 ^ 14 + m.otherW / 2 % 2 ^ 14
/-- MGMT_STATUS (Table 2.3). -/
def Mgmt.status (m : Mgmt) : Nat :=
  bitAt m.authFail 31 + bitAt m.ready 30 + m.step * 2 ^ 26 + bitAt m.warm 25 + bitAt m.degraded 24 + m.fenced.toNat * 2 ^ 16
/-- DEV_NUM (Table 2.3). -/
def Mgmt.devReg (m : Mgmt) : Nat := m.devNum.toNat + bitAt m.devValid 31
/-- FAB_PORT_STAT (Table 2.3). -/
def FabPort.stat (p : FabPort) : Nat := bitAt p.up 31 + bitAt p.retrain 30 + p.misroute * 2 ^ 24 + p.fails * 2 ^ 16 + p.retries
/-- CXL_PORT_STAT (Table 2.3). -/
def CxlPort.stat (p : CxlPort) : Nat := bitAt p.up 31 + bitAt p.mem 30 + p.set % 32 * 2 ^ 25 + p.capacity % 2 ^ 25
/-- An error-log entry (Table 2.4). -/
def LogEntry.image (e : LogEntry) : Nat :=
  e.time % 2 ^ 64 * 2 ^ 64 + e.unit % 2 ^ 16 * 2 ^ 48 + e.array % 256 * 2 ^ 40 + e.row % 2 ^ 16 * 2 ^ 24 + e.kind % 16 * 2 ^ 20

/-- What an aligned 64-bit read of function 0 at an offset returns; an unlisted offset reads as 0 (Table 2.2). -/
def State.mgmtReg (s : State) (o : Nat) : Nat :=
  let m := s.mgmt
  let half (x : Nat) : Nat := x / 2 ^ (64 * (o / 8 % 2)) % 2 ^ 64
  if o == 0 then m.pwrCap else if o == 8 then m.pwrStat else if o == 0x10 then s.coresLive else if o == 0x18 then m.status
  else if o == 0x28 then m.devReg else if o == 0x30 then m.errCount
  else if 0x100 ≤ o && o < 0x200 then (s.port ((o - 0x100) / 8)).stat
  else if 0x200 ≤ o && o < 0x2A0 then (m.cxlPorts.getD ((o - 0x200) / 8) {}).stat
  else if 0x1000 ≤ o && o < 0x2000 then half (m.errlog.getD ((o - 0x1000) / 16) {}).image
  else if 0x8000 ≤ o && o < 0xC000 then half (m.routes.getD ((o - 0x8000) / 16) 0).toNat
  else if 0x10000 ≤ o && o < 0x14000 then half ((s.ctx ((o - 0x10000) / 256)).wins.getD (o % 256 / 16) 0).toNat
  else 0

/-- FAB_PORT_STAT_READ (R44): the counters are returned and cleared. Input: unit the port. -/
def execFabPortStatRead (s : State) : Host.Outcome State Fault Refusal :=
  let p := s.inp.unit
  .next (if p < 32 then
    (s.send (.readData (s.port p).stat)).updPort p fun x => { x with fails := 0, misroute := 0, retries := 0 }
  else s)

/-! ## The parts of a write -/

/-- Of the bytes `bs` written at offset `o`, those that fall on the n bytes at offset r: one bit each, and their values in place. -/
def coverOf (o : Nat) (bs : List Byte) (r n : Nat) : Nat × Nat :=
  (List.range n).foldl (fun (m, v) i =>
    match (if o ≤ r + i then bs[r + i - o]? else none) with
    | some b => (m + 2 ^ i, v + b.toNat * 256 ^ i)
    | none => (m, v)) (0, 0)

/-! ## Function 0 (Table 2.2) -/

/-- DEV_NUM_WRITE (R50, Table 2.3): while VALID is 0 every fabric port is down. Input: id the bytes covered, val the value. -/
def execDevNumWrite (s : State) : Host.Outcome State Fault Refusal :=
  let x := mergeBytes 4 s.inp.id s.mgmt.devReg s.inp.val
  let s := s.updMgmt fun m => { m with devNum := BitVec.ofNat 22 x, devValid := x / 2 ^ 31 % 2 == 1 }
  .next (if s.mgmt.devValid then s
  else ((List.range 32).filter fun p => (s.port p).up).foldl (fun s p => (s.dropUp p false).pathFails p) s)

/-- Bits of an entry that a write reaches: not those marked RSV (Table 2.5). -/
def routeMask : BitVec 128 := BitVec.ofNat 128 ((2 ^ 45 - 1) * 2 ^ 83 + (2 ^ 24 - 1))
/-- The same of a window entry. -/
def winMask : BitVec 128 := BitVec.ofNat 128 ((2 ^ 95 - 1) * 2 ^ 33)

/-- The high word of an entry is written: the entry takes effect whole, with the staged low word or, without one, its own. -/
def commitEntry (cover v : Nat) (old : BitVec 128) (stage : Option (BitVec 64)) : BitVec 128 :=
  let hi := mergeBytes 8 cover (old.toNat / 2 ^ 64) v
  BitVec.ofNat 64 hi ++ stage.getD (old.extractLsb' 0 64)

/-- ENTRY_LOW_WORD_WRITE (R44): the low word of an entry is held in its staging half. Of a narrow write to an entry whose low word is staged
already, R44's "current bytes" are those of the staged half: a read returns the entry in effect, but the low word that would take effect is
the staged one. DESIGN CHOICE, log entry 17. Input: item the offset, id the bytes covered, val the value. -/
def execEntryLowWordWrite (s : State) : Host.Outcome State Fault Refusal :=
  let o := s.inp.item
  let low (stage : Option (BitVec 64)) (e : BitVec 128) : BitVec 64 :=
    BitVec.ofNat 64 (mergeBytes 8 s.inp.id (stage.getD (e.extractLsb' 0 64)).toNat s.inp.val)
  .next (if 0x8000 ≤ o && o < 0xC000 then
    let i := (o - 0x8000) / 16
    s.updMgmt fun m => { m with routeStage := m.routeStage.set i (low (m.routeStage.get? i) (m.routes.getD i 0)) }
  else if 0x10000 ≤ o && o < 0x14000 then
    let w := o % 256 / 16
    s.updCtx ((o - 0x10000) / 256) fun x => { x with winStage := x.winStage.set w (low (x.winStage.get? w) (x.wins.getD w 0)) }
  else s)

/-- FAB_ROUTE_WRITE (R44, R53): the high word of a route entry. Input: item the offset, id the bytes covered, val the value. -/
def execFabRouteWrite (s : State) : Host.Outcome State Fault Refusal :=
  let i := (s.inp.item - 0x8000) / 16
  .next (if i < 1024 then
    s.updMgmt fun m =>
      let e := commitEntry s.inp.id s.inp.val (m.routes.getD i 0) (m.routeStage.get? i) &&& routeMask
      { m with routes := m.routes.put i e 0, routeStage := m.routeStage.erase i }
  else s)

/-- FAB_WIN_WRITE (R44, R54): the high word of a window entry; accesses already sent go on under the entry they were sent with. Input:
item the offset, id the bytes covered, val the value. -/
def execFabWinWrite (s : State) : Host.Outcome State Fault Refusal :=
  let c := (s.inp.item - 0x10000) / 256
  let w := s.inp.item % 256 / 16
  .next (if c < 64 then
    s.updCtx c fun x =>
      let e := commitEntry s.inp.id s.inp.val (x.wins.getD w 0) (x.winStage.get? w) &&& winMask
      { x with wins := x.wins.put w e 0, winStage := x.winStage.erase w }
  else s)

/-- The writes of function 0 with a row of their own that some written bytes make. -/
def mgmtEvents (x : Input) : List Turn :=
  let o := x.item
  let reg (r n : Nat) (i : Instr) : List Turn :=
    let (m, v) := coverOf o x.bytes r n
    if m == 0 then [] else [.event i { item := r, id := m, val := v, start := x.start, flag := x.flag }]
  let entry (r : Nat) : List Turn :=
    if r % 16 == 0 then reg r 8 .entryLowWordWrite else if r < 0xC000 then reg r 8 .fabRouteWrite else reg r 8 .fabWinWrite
  reg 0 4 .pwrCapWrite ++ reg 0x20 4 .resetCtlWarm ++ reg 0x28 4 .devNumWrite ++
    (((List.range (x.bytes.length / 8 + 2)).map fun k => (o / 8 + k) * 8).filter fun r =>
      (0x8000 ≤ r && r < 0xC000) || (0x10000 ≤ r && r < 0x14000)).flatMap entry

/-! ## Function 1 (Tables 4.1, 12.7) -/

/-- A register of a window that holds what is written: its offset and width, whether it is FREE only, and its value. -/
structure CtxReg where
  off : Nat
  n : Nat
  free : Bool
  get : Ctx → Nat
  set : Ctx → Nat → Ctx

/-- DBG_SEL (Table 12.7). -/
def Dbg.sel (x : Dbg) : Nat := x.obj * 2 ^ 60 + x.core * 2 ^ 51 + x.slot * 2 ^ 43 + x.index * 2 ^ 33 + x.page * 2 ^ 28
/-- Writes DBG_SEL. -/
def Dbg.setSel (x : Dbg) (v : Nat) : Dbg :=
  { x with obj := bitsAt v 60 4, core := bitsAt v 51 9, slot := bitsAt v 43 8, index := bitsAt v 33 10, page := bitsAt v 28 5 }

/-- CTX_FPMODE (Table 4.1). -/
def Ctx.fpReg (x : Ctx) : Nat :=
  x.legmask.toNat * 2 ^ 16 + x.acc.toNat * 16 + x.minmax.toNat * 4 + bitAt x.nancan 1 + bitAt x.flush 0

/-- The RW registers of a window. -/
def ctxRegs : List CtxReg :=
  [{ off := 0, n := 4, free := true, get := fun x => bitAt x.fb 24, set := fun x v => { x with fb := bitsAt v 24 1 == 1 } },
   { off := 0, n := 4, free := false, get := fun x => x.prio.toNat * 2 ^ 16, set := fun x v => { x with prio := BitVec.ofNat 8 (v / 2 ^ 16) } },
   { off := 0x08, n := 4, free := true, get := fun x => x.pasid.toNat, set := fun x v => { x with pasid := BitVec.ofNat 20 v } },
   { off := 0x10, n := 4, free := true, get := fun x => x.quota.toNat, set := fun x v => { x with quota := BitVec.ofNat 13 v } },
   { off := 0x18, n := 4, free := true, get := Ctx.fpReg,
     set := fun x v => { x with legmask := BitVec.ofNat 16 (v / 2 ^ 16), acc := BitVec.ofNat 2 (v / 16), minmax := BitVec.ofNat 2 (v / 4),
                                nancan := v / 2 % 2 == 1, flush := v % 2 == 1 } },
   { off := 0x20, n := 8, free := false, get := fun x => x.trappc.toNat * 4, set := fun x v => { x with trappc := BitVec.ofNat 62 (v / 4) } },
   { off := 0x28, n := 8, free := false, get := fun x => x.segback.toNat * 4096, set := fun x v => { x with segback := BitVec.ofNat 52 (v / 4096) } },
   { off := 0x30, n := 8, free := false, get := fun x => x.errbase.toNat * 4096, set := fun x v => { x with errbase := BitVec.ofNat 52 (v / 4096) } },
   { off := 0x38, n := 8, free := true, get := fun x => x.dring.toNat * 4096 + x.dringLog.toNat,
     set := fun x v => { x with dring := BitVec.ofNat 52 (v / 4096), dringLog := BitVec.ofNat 4 v } },
   { off := 0x40, n := 8, free := false, get := fun x => x.spillBase.toNat * 4096 + x.spillPages.toNat,
     set := fun x v => { x with spillBase := BitVec.ofNat 52 (v / 4096), spillPages := BitVec.ofNat 12 v } },
   { off := 0x58, n := 4, free := false, get := fun x => x.irqen.toNat, set := fun x v => { x with irqen := BitVec.ofNat 5 v } },
   { off := 0x60, n := 4, free := false, get := fun x => x.quantum.toNat, set := fun x v => { x with quantum := BitVec.ofNat 32 v } },
   { off := 0x68, n := 4, free := false, get := fun x => x.fbdies.toNat, set := fun x v => { x with fbdies := BitVec.ofNat 8 v } },
   { off := 0x800, n := 8, free := false, get := fun x => x.dbg.sel, set := fun x v => { x with dbg := x.dbg.setSel v } },
   { off := 0x810, n := 4, free := false, get := fun x => bitAt x.dbg.attach 29,
     set := fun x v => { x with dbg := { x.dbg with attach := bitsAt v 29 1 == 1 } } }] ++
  (List.range 16).map fun i =>
    { off := 0x100 + 4 * i, n := 4, free := true, get := fun x => (x.rankprog.getD i 0).toNat,
      set := fun x v => { x with rankprog := x.rankprog.put i (BitVec.ofNat 32 v) 0 } }

/-- STATE of CTX_CTL (Table 4.1). -/
def CtxSt.code : CtxSt → Nat
  | .free => 0
  | .active => 1
  | .tearing => 2

/-- Waves of context c now halted (Table 12.7). -/
def State.haltedWaves (s : State) (c : Nat) : Nat :=
  ((s.cores.flatMap fun (_, k) => k.waves.vals).filter fun w => w.halted && !w.priv && (s.team w.team).ctx == c).length

/-- The RO and W1C parts of a window's registers, at their offsets (Tables 4.1, 12.7). -/
def State.ctxStatus (s : State) (c o : Nat) : Nat :=
  let x := s.ctx c
  match o with
  | 0 => x.st.code * 2 ^ 30 + x.cfgerr * 2 ^ 27 + bitAt x.ringerr 26 + bitAt x.errlost 25
  | 0x48 => bitAt x.pending 1
  | 0x50 => x.irq.toNat
  | 0x810 => bitAt x.dbg.err 30 + s.haltedWaves c
  | 0x1000 => x.subTail.toNat
  | 0x1008 => x.subHead.toNat
  | 0x1010 => x.dringHead.toNat
  | 0x1018 => x.errCount.toNat
  | _ => 0

/-- What an aligned 64-bit read of window c at an offset returns; offsets that hold no register read as 0 (R73, R315). -/
def State.ctxReg (s : State) (c o : Nat) : Nat :=
  let x := s.ctx c
  let held := (ctxRegs.filter fun r => r.off / 8 * 8 == o).foldl (fun v r => v + r.get x * 256 ^ (r.off - o)) (s.ctxStatus c o)
  if 0x8000 ≤ o then leNat ((List.range 8).map fun i => cellGet x.ring (o - 0x8000 + i))
  else if 0xC00 ≤ o && o < 0x1000 then leNat ((List.range 8).map fun i => x.dbg.data.getD (o - 0xC00 + i) 0)
  else held

/-- What the host reads at an offset of BAR0 of a function (R40, R44, R73). Before the hand-off function 1 is not there, and BAR2, here as
function 2, decodes no host access: such a read completes with Unsupported Request (R26, R58). -/
def State.hostRead (s : State) (fn o : Nat) : Option Nat :=
  if fn == 0 then some (s.mgmtReg o)
  else if fn == 1 && s.mgmt.ready then some (s.ctxReg (o / 65536) (o % 65536))
  else none

/-- A write reaches a register: its bytes replace the current ones, unless the register is FREE only and the context is not. -/
def CtxReg.write (r : CtxReg) (o : Nat) (bs : List Byte) (x : Ctx) : Ctx :=
  let (m, v) := coverOf o bs r.off r.n
  if m == 0 || (r.free && x.st != .free) then x else r.set x (mergeBytes r.n m (r.get x) v)

/-- The W1C fields: RINGERR and ERRLOST, CTX_IRQ, and ERR of DBG_STAT. -/
def Ctx.clearBits (x : Ctx) (o : Nat) (bs : List Byte) : Ctx :=
  let v (r : Nat) : Nat := (coverOf o bs r 4).2
  { x with ringerr := x.ringerr && bitsAt (v 0) 26 1 == 0, errlost := x.errlost && bitsAt (v 0) 25 1 == 0,
           irq := x.irq &&& ~~~ BitVec.ofNat 5 (v 0x50),
           dbg := { x.dbg with err := x.dbg.err && bitsAt (v 0x810) 30 1 == 0 } }

/-- Bytes written to the host ring and to DBG_DATA. -/
def Ctx.putBytes (x : Ctx) (o : Nat) (bs : List Byte) : Ctx :=
  bs.zipIdx.foldl (fun x (b, i) =>
    let a := o + i
    if 0x8000 ≤ a && a < 0x10000 then { x with ring := cellPut x.ring (a - 0x8000) b }
    else if 0xC00 ≤ a && a < 0x1000 then
      let d := if x.dbg.data.isEmpty then List.replicate 1024 0 else x.dbg.data
      { x with dbg := { x.dbg with data := d.set (a - 0xC00) b } }
    else x) x

/-- The debugger's command of an OP; 0 and 7 are refused (R316). -/
def dbgOp : Nat → Option Instr
  | 1 => some .haltWave | 2 => some .resumeWave | 3 => some .haltContext | 4 => some .resumeContext | 5 => some .dbgRead | 6 => some .dbgWrite
  | _ => none

/-- The events with a row of their own that a write to window c makes: a teardown, an enable, a pre-emption request, a new SUB_TAIL, a
debugger's command. Of one write that sets TEARDOWN and ENABLE the teardown comes first: R96 gives no order. DESIGN CHOICE, log entry 38. -/
def State.ctxEvents (s : State) (c o : Nat) (bs : List Byte) : List Turn :=
  let v (r : Nat) : Nat := (coverOf o bs r 4).2
  let hit (r : Nat) : Bool := (coverOf o bs r 4).1 != 0
  let ev (b : Bool) (i : Instr) (x : Nat) : List Turn := if b then [.event i { unit := c, val := x }] else []
  ev (v 0 / 2 % 2 == 1) .ctxTeardownWrite 0 ++ ev (v 0 % 2 == 1) .contextEnable 0 ++ ev (v 0x48 % 2 == 1) .ctxPreemptReq 0 ++
    ev (hit 0x1000) .subTailWrite (mergeBytes 4 (coverOf o bs 0x1000 4).1 (s.ctx c).subTail.toNat (v 0x1000)) ++
    (if hit 0x808 then (match dbgOp (v 0x808 % 8) with
      | some i => ev true i 0
      | none => []) else [])

/-- REGISTER_WRITE (R44, R73, R74, R110): bytes written at an offset of a function's BAR0. Registers with a row of their own get their
event; the rest take the bytes by their access codes; RO registers and unlisted offsets ignore them. A request to BAR2, or to function 1
before the hand-off, completes with Unsupported Request (R26, R58). Input: unit the function, 2 for BAR2, item the offset, bytes; start and
flag go to a warm start. -/
def execRegisterWrite (s : State) : Host.Outcome State Fault Refusal :=
  let x := s.inp
  .next (if x.unit == 0 then s.push (mgmtEvents x)
  else if x.unit != 1 || !s.mgmt.ready then s.send .unsupported
  else if x.item / 65536 ≥ 64 then s
  else
    let c := x.item / 65536
    let o := x.item % 65536
    let s := s.updCtx c fun y => ((ctxRegs.foldl (fun y r => r.write o x.bytes y) y).clearBits o x.bytes).putBytes o x.bytes
    let s := if (coverOf o x.bytes 0x808 4).1 != 0 && (dbgOp ((coverOf o x.bytes 0x808 4).2 % 8)).isNone then s.dbgErr c else s
    let s := if (coverOf o x.bytes 0x68 4).1 != 0 then s.releaseHeld c else s
    s.push (s.ctxEvents c o x.bytes))

/-- CONFIG_REQUEST (R40, R58, R62): a configuration request; one to function 1 before the hand-off completes with Configuration Request
Retry Status, which is 1 here. Input: unit the function, item what it reaches: 1 the base of BAR2, 2 the PRI allocation, else another
register; flag a write, val the value. -/
def execConfigRequest (s : State) : Host.Outcome State Fault Refusal :=
  let x := s.inp
  .next (if !s.mgmt.power then s
  else if x.unit == 1 && !s.mgmt.ready then s.send (.cfgCompletion 1 x.item 1)
  else
    let s := s.updLink fun l =>
      if x.unit == 1 && x.flag && x.item == 1 then { l with bar2 := BitVec.ofNat 64 (x.val / Config.bar2Size * Config.bar2Size) }
      else if x.unit == 1 && x.flag && x.item == 2 then { l with priAlloc := x.val }
      else l
    s.send (.cfgCompletion x.unit x.item 0))

end Machine
end Sys2Proof
end

