-- ==== Sys2Proof/Machine/Translate.lean ====
section
/-! DEFINITION. Translation requests, page requests and invalidations (R60 to R68), and the timeout of a scope update (R209).
Leaves: 0 to 7 the compute dies, 8 the fabric receive unit, 9 the front end of the I/O die. -/

namespace Sys2Proof
namespace Machine

/-! ## Requests and completions (R60, R61) -/

/-- The requests of a leaf. -/
def State.atsOf (s : State) (leaf : Nat) : List AtsReq := if leaf < 8 then (s.die leaf).ats else s.link.ats
/-- Changes the requests of a leaf. -/
def State.updAts (s : State) (leaf : Nat) (f : List AtsReq → List AtsReq) : State :=
  if leaf < 8 then s.updDie leaf fun d => { d with ats := f d.ats } else s.updLink fun l => { l with ats := f l.ats }

/-- The place of the first request of a list that is not sent. -/
def firstUnsent : List AtsReq → Option AtsReq
  | [] => none
  | r :: t => if r.sent then firstUnsent t else some r

/-- A request that may go out now: fewer than 1,024 are outstanding. -/
def State.nextAts (s : State) (leaf : Nat) : Option AtsReq :=
  if ((s.atsOf leaf).filter fun r => r.sent).length < 1024 then firstUnsent (s.atsOf leaf) else none

/-- ATS_REQUEST (R60): the first waiting miss of a leaf sends its request. Input: unit the leaf. -/
def execAtsRequest (s : State) : Host.Outcome State Fault Refusal :=
  let leaf := s.inp.unit
  .next (match s.nextAts leaf with
  | none => s
  | some r =>
    (s.updAts leaf fun rs => rs.map fun x => if x.pasid == r.pasid && x.page == r.page then { x with sent := true } else x).send
      (.atsRequest leaf r.pasid r.page r.write))

/-- An answer that is not installed goes to a client that waits for it: its fragment holds it, or the leaf does. -/
def State.giveAnswer (s : State) (leaf : Nat) (a : Answer) : State :=
  let s := if leaf < 8 then s.noteAnswer leaf a else s
  match a.client with
  | .frag c e => s.updCore c fun x => x.updFrag e fun f => { f with answers := f.answers ++ [(a.page, a.reply)] }
  | .gone => s
  | _ =>
    if leaf < 8 then s.updDie leaf fun d => { d with answers := d.answers ++ [a] } else s.updLink fun l => { l with answers := l.answers ++ [a] }

/-- An answer goes to the waiters of a request that meet a test. -/
def State.giveAll (s : State) (leaf : Nat) (r : AtsReq) (p : Client × Bool → Bool) (a : AtsReply) : State :=
  (r.waiters.filter p).foldl (fun s x => s.giveAnswer leaf { client := x.1, pasid := r.pasid, page := r.page, reply := a }) s

/-- An entry enters the cache of a leaf (Table 3.1). -/
def State.install (s : State) (leaf : Nat) (x : Xlat) : State :=
  if leaf < 8 then s.updDie leaf fun d =>
    let (tc, gone) := tcFill 4096 (16 - d.tcOff) d.tc x
    { d with tc := tc, past := gone ++ d.past }
  else s.updLink fun l => { l with tc := (tcFill 512 8 l.tc x).1 }

/-- The entry that holds a completion for a page: one larger than 1 GiB is held as the 1 GiB part that is used (R59). -/
def heldAs (pasid : BitVec 20) (page : Nat) (t : Addr) (r w u : Bool) (size : Nat) : Xlat :=
  let va := page * 4096
  if size ≤ 30 then { pasid := pasid, vpage := BitVec.ofNat 64 va, size := size, tpage := t, r := r, w := w, u := u }
  else
    let at30 := t.toNat / 2 ^ size * 2 ^ size + va % 2 ^ size
    { pasid := pasid, vpage := BitVec.ofNat 64 va, size := 30, tpage := BitVec.ofNat 64 at30, r := r, w := w, u := u }

/-- A range of 2^size bytes about one address meets a range about another. -/
def rangesMeet (a m b n : Nat) : Bool := a / 2 ^ m * 2 ^ m < b / 2 ^ n * 2 ^ n + 2 ^ n && b / 2 ^ n * 2 ^ n < a / 2 ^ m * 2 ^ m + 2 ^ m

/-- A completion is not used: the access asks anew, or an invalidation that overlaps what the completion covers has reached the leaf since
the request was sent (R64, R67). -/
def AtsReq.overtaken (r : AtsReq) (a : AtsReply) : Bool :=
  let size := match a with | .success _ _ _ _ n => max 12 n | .refused => 12
  r.stale || r.invals.any fun (b, n) => rangesMeet (r.page * 4096) size b n

/-- What waits at a leaf for a translation without a fragment of its own is tried again. -/
def State.retryLeaf (s : State) (leaf : Nat) : State := if leaf < 8 then s.retryPixels leaf else s.retryWoad

/-- TRANSLATION_COMPLETION (R61, R67): the answer is installed where it serves an access that waits, and goes to those alone that it does not
serve so. A write that joined a request for read access asks again. One that an invalidation has overtaken is not used, and the access asks
again. Input: unit the leaf, pasid, val the 4 KiB page number, ats the answer. -/
def execTranslationCompletion (s : State) : Host.Outcome State Fault Refusal :=
  let leaf := s.inp.unit
  let pasid := s.inp.pasid.getD 0
  .next (match (s.atsOf leaf).find? (fun r => r.pasid == pasid && r.page == s.inp.val && r.sent) with
  | none => s
  | some r =>
    if r.overtaken s.inp.ats then
      s.updAts leaf fun rs => rs.map fun x =>
        if x.pasid == r.pasid && x.page == r.page then { x with sent := false, stale := false, invals := [] } else x
    else
      let s := s.updAts leaf fun rs => rs.filter fun x => !(x.pasid == r.pasid && x.page == r.page)
      let s := match s.inp.ats with
        | .success t rd wr u size =>
          let serves (x : Client × Bool) : Bool := !u && rd && (wr || !x.2)
          let s := if !u && rd && (r.waiters.isEmpty || r.waiters.any serves) then s.install leaf (heldAs pasid r.page t rd wr u size) else s
          s.giveAll leaf r (fun x => !serves x && (u || !rd || r.write)) s.inp.ats
        | .refused => s.giveAll leaf r (fun _ => true) .refused
      s.retryLeaf leaf)

/-! ## Page requests and responses (R42, R62, R64) -/

/-- PAGE_REQUEST_ENQUEUE (R62): a request that waits behind the full device queue enters it. -/
def execPageRequestEnqueue (s : State) : Host.Outcome State Fault Refusal :=
  .next (s.updLink fun l =>
    if l.prq.length < 4096 then { l with prq := l.prq ++ l.prqWait.take 1, prqWait := l.prqWait.drop 1 } else l)

/-- PAGE_REQUEST_SEND (R42): the first request of the device queue leaves for the host within the allocation. -/
def execPageRequestSend (s : State) : Host.Outcome State Fault Refusal :=
  .next (match s.link.prq with
  | r :: t => if s.link.priOut < s.link.priAlloc then
      (s.updLink fun l => { l with prq := t, priOut := l.priOut + 1 }).send (.pageRequest r) else s
  | [] => s)

/-- The first access of a PASID that waits for a group index takes the one that has become free, and sends its requests. -/
def State.nextGroup (s : State) (pasid : BitVec 20) : State :=
  match s.link.groups.find? (fun g => g.pasid == pasid && g.index.isNone), freeIndex s.link.groups pasid with
  | some g, some i =>
    let s := s.updLink fun l =>
      ({ l with groups := l.groups.map fun h => if h == g then { h with index := some i } else h }).enqueue (groupRequests g i)
    match g.client with
    | .frag c e => s.updCore c fun x => x.updFrag e fun f => { f with prgi := i, grouped := true }
    | _ => s
  | _, _ => s

/-- A parked access of a client goes on, one round further when the response was Success. -/
def State.unpark (s : State) (x : Client) (round : Nat) : State :=
  match x with
  | .frag c e =>
    s.updCore c fun y => y.updFrag e fun f =>
      if f.st == .xlate then { f with rounds := f.rounds + round, wait := { f.wait with ready := true }, grouped := false, prgi := 0 } else f
  | .job d id =>
    s.updDie d fun y => { y with jobs := y.jobs.map fun j => if j.id == id then { j with parked := false, rounds := j.rounds + round } else j }
  | .matrix q id =>
    s.updQuartet q fun y => { y with table := y.table.map fun r => if r.id == id then { r with parked := false, rounds := r.rounds + round } else r }
  | .query q slot =>
    s.updQuartet q fun y => { y with slots := y.slots.map fun (k, r) => (k, if k == slot then { r with parked := false, rounds := r.rounds + round } else r) }
  | .pixel d id =>
    s.updDie d fun y => { y with pixels := y.pixels.map fun p => if p.id == id then { p with parked := false, rounds := p.rounds + round } else p }
  | .seg c h => s.updCtx c fun y => { y with segs := y.segs.upd h {} fun g => { g with parked := false, rounds := g.rounds + round } }
  | .err c => s.updCtx c fun y => { y with errParked := false, errRounds := y.errRounds + round }
  | .write id =>
    s.updWoad fun y => { y with writes := y.writes.map fun w => if w.id == id then { w with parked := false, rounds := w.rounds + round } else w }
  | .dring c => s.updCtx c fun y => { y with dringParked := false, dringRounds := y.dringRounds + round }
  | .dst p q =>
    { s with fab := { s.fab with dst := s.fab.dst.map fun d => if d.id == { peer := p, pasid := q } then { d with parked := false, rounds := d.rounds + round } else d } }
  | .gone => s

/-- The leaf at which a client's accesses translate: a die, or 9. -/
def State.leafOfClient (s : State) (x : Client) : Option Nat :=
  match x with
  | .frag c _ => some (dieOf c)
  | .job d id => some (match s.job d id with
    | some j => if j.task && !j.cardBytes.isEmpty then 9 else d
    | none => d)
  | .matrix q _ | .query q _ => some (q / 10)
  | .pixel d _ => some d
  | .seg c h => some ((s.ctx c).segs.getD h {}).homeDie
  | .err _ | .write _ | .dring _ | .dst _ _ => some 9
  | .gone => none

/-- Cached entries of a page are given up, so that the access asks anew; a request already out for it is not used. -/
def State.forgetPage (s : State) (x : Client) (pasid : BitVec 20) (page : Nat) : State :=
  let keep (l : List Xlat) : List Xlat := l.filter fun e => !e.covers pasid (page * 4096)
  let gone (l : List Xlat) : List Xlat := l.filter fun e => e.covers pasid (page * 4096)
  let stale (l : List AtsReq) : List AtsReq := l.map fun r => if r.pasid == pasid && r.page == page && r.sent then { r with stale := true } else r
  let s := match x with
    | .frag c _ => s.updCore c fun y => { y with tc := keep y.tc }
    | _ => s
  match s.leafOfClient x with
  | some leaf =>
    if leaf < 8 then s.updDie leaf fun y => { y with tc := keep y.tc, past := gone y.tc ++ y.past, ats := stale y.ats }
    else s.updLink fun l => { l with tc := keep l.tc, ats := stale l.ats }
  | none => s

/-- The unfinished lanes of a client's access end in ACCESS: a refusal answers each of its pages. -/
def State.refuse (s : State) (g : Group) : State :=
  let s := g.pages.foldl (fun s p =>
    let s := s.forgetPage g.client g.pasid p
    match s.leafOfClient g.client with
    | some leaf => s.giveAnswer leaf { client := g.client, pasid := g.pasid, page := p, reply := .refused }
    | none => s) s
  let s := s.unpark g.client 0
  match g.client with
  | .frag c e => s.push [.issue c e]
  | .pixel d _ => s.retryPixels d
  | .err _ | .write _ => s.retryWoad
  | _ => s

/-- A Success response: fresh translations, then a replay of what is unfinished. -/
def State.replay (s : State) (g : Group) : State :=
  let s := g.pages.foldl (fun s p => s.forgetPage g.client g.pasid p) s
  let s := s.unpark g.client 1
  match g.client with
  | .pixel d _ => s.retryPixels d
  | .err _ | .write _ => s.retryWoad
  | _ => s

/-- The context of a PASID that is not FREE. -/
def State.ctxOf (s : State) (pasid : BitVec 20) : Option Nat :=
  (s.ctxs.find? fun (_, x) => x.st != .free && x.pasid == pasid).map Prod.fst

/-- PAGE_RESPONSE (R64): the response to a group. Input: pasid, val the group index, pr the code. One that matches no parked access is
discarded; the index of a group whose access has gone is free again. -/
def execPageResponse (s : State) : Host.Outcome State Fault Refusal :=
  let pasid := s.inp.pasid.getD 0
  .next (match s.link.groups.find? (fun g => g.pasid == pasid && g.index == some s.inp.val) with
  | none => s
  | some g =>
    let s := s.updLink fun l => { l with groups := l.groups.filter (· != g), priOut := l.priOut - g.pages.length }
    if g.client == .gone then s.nextGroup pasid
    else match s.inp.pr with
    | .success => (s.replay g).nextGroup pasid
    | .invalid => (s.refuse g).nextGroup pasid
    | .failure =>
      let all := g :: s.link.groups.filter fun h => h.pasid == pasid
      let s := s.updLink fun l => l.discard pasid
      let s := match s.ctxOf pasid with
        | some c => (s.updCtx c fun x => { x with priFail := true }).errRec c { kind := 2 }
        | none => s
      all.foldl (fun s h => s.refuse h) s)

/-! ## Invalidations (R66 to R68) -/

/-- A translation falls under an invalidation: its PASID, and a range of 2^size bytes from `base`. -/
def Inval.hits (i : Inval) (pasid : BitVec 20) (lo len : Nat) : Bool :=
  (match i.pasid with | none => true | some p => p == pasid) && lo < i.base + 2 ^ i.size && i.base < lo + len

/-- The requests of a leaf that are out record an invalidation of their PASID that reaches it (R67). -/
def Inval.mark (i : Inval) (rs : List AtsReq) : List AtsReq :=
  rs.map fun r => if r.sent && (match i.pasid with | none => true | some p => p == r.pasid) then { r with invals := r.invals ++ [(i.base, i.size)] } else r

/-- An entry falls under an invalidation. -/
def Inval.drops (i : Inval) (x : Xlat) : Bool := i.hits x.pasid (x.vpage.toNat / 2 ^ x.size * 2 ^ x.size) (2 ^ x.size)

/-- The entries of a die and its cores that fall under an invalidation, those that have served it included. -/
def State.droppedBy (s : State) (d : Nat) (i : Inval) : List Xlat :=
  (((s.die d).tc ++ (s.die d).past ++ (coresOf d).flatMap fun c => (s.core c).tc).filter i.drops).eraseDups

/-- A posted operation used a translation that falls under an invalidation: its bytes lie in the range, or in the page of a dropped entry. -/
def State.usedBy (s : State) (i : Inval) (xs : List Xlat) (p : Post) : Bool :=
  let pasid := (s.ctx p.ctx).pasid
  let n := max 1 p.op.locs.length
  !isWindow p.addr && (i.hits pasid p.addr.toNat n ||
    xs.any fun x => x.covers pasid p.addr.toNat || x.covers pasid (p.addr.toNat + n - 1))

/-- ATS_INVALIDATION (R66): a request is multicast to its ten leaves, fenced dies apart; a thirty-third is not accepted.
Input: id the ITag, pasid none for every PASID, val the first address, item the logarithm of the range. -/
def execAtsInvalidation (s : State) : Host.Outcome State Fault Refusal :=
  .next (if s.link.invals.length ≥ 32 || s.link.invals.any fun i => i.itag == s.inp.id then s
  else
    let i : Inval := { itag := s.inp.id, pasid := s.inp.pasid, base := s.inp.val, size := s.inp.item, leaves := s.liveDies ++ [8, 9] }
    s.updLink fun l => { l with invals := l.invals ++ [i] })

/-- The lines of the translated page of a dropped entry leave the caches of a die, dirty ones written back first. -/
def State.dropPage (s : State) (d : Nat) (x : Xlat) : State :=
  match s.xlatLoc x (x.vpage.toNat / 2 ^ x.size * 2 ^ x.size) with
  | some l =>
    let p (n : Nat) : Bool := lineIn l (l + 2 ^ x.size) n
    let s := (coresOf d).foldl (fun s c => ((s.core c).l1.keys.filter p).foldl (fun s n => s.dropL1 c n false) s) s
    ((s.die d).l2.keys.filter p).foldl (fun s n => s.dropL2 d n) s
  | none => s

/-- A posted operation of a die that used a dropped entry cannot be performed yet (R224). -/
def State.invalHindered (s : State) (d : Nat) (i : Inval) : Bool :=
  let xs := s.droppedBy d i
  (coresOf d).any fun c => s.hindered c fun p => s.usedBy i xs p

/-- A compute die meets the conditions of Table 3.4: accesses performed, lines written back and dropped, entries dropped; a
completion of an earlier request will not be used. -/
def State.invalDie (s : State) (d : Nat) (i : Inval) : State :=
  let xs := s.droppedBy d i
  let s := (coresOf d).foldl (fun s c => s.performWhere c fun p => s.usedBy i xs p) s
  let s := xs.foldl (fun s x => s.dropPage d x) s
  let keep (l : List Xlat) : List Xlat := l.filter fun x => !i.drops x
  let hit (pasid : BitVec 20) (page : Nat) : Bool := i.hits pasid (page * 4096) 4096
  let s := (coresOf d).foldl (fun s c => s.updCore c fun y =>
    { y with tc := keep y.tc, frags := y.frags.map fun (e, f) =>
        let pasid := (s.ctx (s.team (y.wave f.slot).team).ctx).pasid
        (e, { f with answers := f.answers.filter fun (p, _) => !hit pasid p }) }) s
  s.updDie d fun y =>
    { y with tc := keep y.tc, past := keep y.past, answers := y.answers.filter (fun a => !hit a.pasid a.page), ats := i.mark y.ats }

/-- The front end of the I/O die meets its conditions. -/
def State.invalFront (s : State) (i : Inval) : State :=
  let hit (pasid : BitVec 20) (page : Nat) : Bool := i.hits pasid (page * 4096) 4096
  s.updLink fun l =>
    { l with tc := l.tc.filter (fun x => !i.drops x), answers := l.answers.filter (fun a => !hit a.pasid a.page), ats := i.mark l.ats }

/-- INVALIDATION_ACK (R66, R67): a leaf meets the conditions of Table 3.4 and acknowledges; a die on which a release waits
for the fabric cannot yet. Input: unit the leaf, item the ITag. -/
def execInvalidationAck (s : State) : Host.Outcome State Fault Refusal :=
  let leaf := s.inp.unit
  .next (match s.link.invals.find? (fun i => i.itag == s.inp.item && i.leaves.contains leaf) with
  | none => s
  | some i =>
    if leaf < 8 then
      if s.invalHindered leaf i then s else (s.invalDie leaf i).ackInval i.itag leaf
    else if leaf == 9 then (s.invalFront i).ackInval i.itag leaf
    else s.ackInval i.itag leaf)

/-- INVALIDATION_TIMEOUT (R68): a die that has not acknowledged in time is fenced. Input: unit the die, item the ITag. -/
def execInvalidationTimeout (s : State) : Host.Outcome State Fault Refusal :=
  .next (if s.link.invals.any fun i => i.itag == s.inp.item && i.leaves.contains s.inp.unit && s.inp.unit < 8 then s.fenceDie s.inp.unit else s)

/-- SCOPE_UPDATE_TIMEOUT (R209): a die that has not acknowledged an update in time is fenced. Input: unit the context, item
the die. -/
def execScopeUpdateTimeout (s : State) : Host.Outcome State Fault Refusal :=
  .next (match (s.ctx s.inp.unit).scopeUpd with
  | u :: _ => if u.leaves.contains s.inp.item then s.fenceDie s.inp.item else s
  | [] => s)

end Machine
end Sys2Proof
end

