-- ==== Sys2Proof/Machine/UniMatrix.lean ====
section
/-! DEFINITION. The matrix instructions: their checks at issue, the post of a request, and MWAIT (R463 to R470). -/

namespace Sys2Proof
namespace Machine

/-- The quartet whose matrix engine an instruction posts to: the one that role 28 was bound to as it issued (R117, R118). -/
def State.postQuartet (s : State) (w : Who) : Nat :=
  match s.unitOf w .post 28 with
  | some u => s.liveMatrix (u - 0x4000)
  | none => quartetOf w.core

/-- A request joins quartet q's table, owed to its launch; one that fails a check halts its team's requests (R245, R257). -/
def State.postReq (s : State) (w : Who) (q : Nat) (r : MReq) : State :=
  let c := s.ctx w.ctx
  let (id, s) := s.fresh
  let r := { r with id := id, team := w.team, launch := w.launch, ctx := w.ctx, flush := c.flush, nancan := c.nancan,
                    shapes := (s.team w.team).shapes, held := s.heldBy w.team }
  let r := { r with cycles := r.arrayCycles }
  let s := s.addCount w.launch 1
  let s := if isWindow r.addr then s.updTeam w.team fun t => { t with owed := t.owed + 1 } else s
  let s := s.updQuartet q fun x => { x with table := x.table ++ [r] }
  match r.check (s.team w.team).desc.mtiles with
  | some code => s.mHalt q r code 0
  | none => s

/-- The reservation table is full: 32 requests that have not been granted (R245). -/
def State.tableFull (s : State) (q : Nat) : Bool := 32 ≤ ((s.quartet q).table.filter fun r => !r.granted).length

/-- A matrix instruction (R467): the INV trap of its read tiles, ACCESS for a tile that is not owned, the wait for a free
entry, the post. `reads` are the read tiles with the page of their format; scale tiles of MX formats join them. -/
def State.matrix (s : State) (w : Who) (named : List Nat) (reads : List (Nat × Bool)) (writes : List Nat) (byte : Option (BitVec 8))
    (r : MReq) : Flow :=
  let mask := (s.frag w).mask
  let all := reads.map Prod.fst ++ reads.filterMap fun (n, p) => s.scaleOf w.team n p
  let r := { r with reads := all, writes := writes }
  let q := s.postQuartet w
  let post (s : State) (cap : Capture) (was : State) : Flow :=
    if s.tableFull q then .hold was else .done (s.postReq w q { r with cap := cap })
  match (if (s.frag w).again then none else s.invTrap w all mask) with
  | some t => .trap s t
  | none =>
    if named.any fun n => !s.owns w n then .trap s { code := 5, lanes := mask }
    else
      match byte with
      | some b => s.posting w (s.jobCap w b) (unit := 0x4000 + q) fun x cap => post x cap s
      | none => post s {} s

/-- MMA (R248 to R250). -/
def execMma (f : UForm) (s : State) :=
  uniOp (.mma f) f {} (fun e s w =>
    let d := f.gd.toNat % 32
    let a := f.ga.toNat % 32
    let b := f.gb.toNat % 32
    let acc := !e.mod.getLsbD 0
    let p := e.mod.getLsbD 1
    s.matrix w [d, a, b] ([(a, p), (b, p)] ++ if acc then [(d, false)] else []) [d] none
      { id := 0, team := 0, launch := 0, ctx := 0, op := .mma, d := d, a := a, b := b, acc := acc, page1 := p }) s

/-- MMAS (R251). -/
def execMmas (f : UForm) (s : State) :=
  uniOp (.mmas f) f {} (fun e s w =>
    let d := f.gd.toNat % 32
    let a := f.ga.toNat % 32
    let b := f.gb.toNat % 32
    let t := e.src3.toNat % 32
    let acc := !e.mod.getLsbD 0
    let p := e.mod.getLsbD 1
    s.matrix w [d, a, b, t] ([(a, p), (b, p), (t, false)] ++ if acc then [(d, false)] else []) [d] none
      { id := 0, team := 0, launch := 0, ctx := 0, op := .mmas, d := d, a := a, b := b, sTile := t, acc := acc, page1 := p }) s

/-- MLUT (R252): A and B in page 0, BITS of BYTE[2:0]. -/
def execMlut (f : UForm) (s : State) :=
  uniOp (.mlut f) f {} (fun e s w =>
    let d := f.gd.toNat % 32
    let a := f.ga.toNat % 32
    let b := f.gb.toNat % 32
    let acc := !e.mod.getLsbD 0
    s.matrix w [d, a, b] ([(a, false), (b, false)] ++ if acc then [(d, false)] else []) [d] none
      { id := 0, team := 0, launch := 0, ctx := 0, op := .mlut, d := d, a := a, b := b, acc := acc, bits := e.byte.toNat % 8 }) s

/-- MZERO (R468). -/
def execMzero (f : UForm) (s : State) :=
  uniOp (.mzero f) f {} (fun _ s w =>
    let d := f.gd.toNat % 32
    s.matrix w [d] [] [d] none { id := 0, team := 0, launch := 0, ctx := 0, op := .mzero, d := d }) s

/-- MLD (R254, R468). -/
def execMld (f : UForm) (s : State) :=
  uniOp (.mld f) f { a := true, b := true } (fun e s w =>
    let d := f.gd.toNat % 32
    let wv := s.regs w
    s.matrix w [d] [] [d] (some e.byte)
      { id := 0, team := 0, launch := 0, ctx := 0, op := .mld, d := d, page1 := e.mod.getLsbD 1, addr := wv.g64 f.ga.toNat,
        stride := (wv.greg f.gb.toNat).toNat }) s

/-- MST (R254, R468): the tile of GD is read. -/
def execMst (f : UForm) (s : State) :=
  uniOp (.mst f) f { a := true, b := true } (fun e s w =>
    let d := f.gd.toNat % 32
    let p := e.mod.getLsbD 1
    let wv := s.regs w
    s.matrix w [d] [(d, p)] [] (some e.byte)
      { id := 0, team := 0, launch := 0, ctx := 0, op := .mst, d := d, page1 := p, addr := wv.g64 f.ga.toNat,
        stride := (wv.greg f.gb.toNat).toNat }) s

/-- MCVT (R253, R469): DYN takes the wave's mode at post; an MX destination's scale tile is written. -/
def execMcvt (f : UForm) (s : State) :=
  uniOp (.mcvt f) f {} (fun e s w =>
    let d := f.gd.toNat % 32
    let a := f.ga.toNat % 32
    let p := e.mod.getLsbD 1
    let pd := e.mod.getLsbD 2
    s.matrix w [d, a] [(a, p)] (d :: (s.scaleOf w.team d pd).toList) none
      { id := 0, team := 0, launch := 0, ctx := 0, op := .mcvt, d := d, a := a, page1 := p, page1d := pd,
        rnd := (s.wave w).mode e.rnd, sat := e.sat }) s

/-- MWAIT (R470): until every request of the team posted before it has ended; then the acquire, gd := %mhalt, and
%mhalt := 0. Its result is one of variable latency, written before the fragment leaves SYNCWAIT where it has waited (R147). -/
def execMwait (f : UForm) (s : State) :=
  uniOp (.mwait f) f {} (fun e s w =>
    let fr := s.frag w
    let finish (s : State) (cap : Capture) (waited : Bool) : Flow :=
      let code : Word := BitVec.ofNat 32 (s.team w.team).mhalt
      .done (((s.waitAcquire w cap).giveG w waited f.gd.toNat code).updTeam w.team fun t => { t with mhalt := 0 })
    let left (s : State) (n : Nat) : Bool := (s.requestsOf w.team).any fun r => r.id < n
    if fr.st == .syncwait && fr.wait.kind == .matrix then
      if left s fr.wait.n then .hold s else finish s fr.wait.cap true
    else
      let cap := s.scopeCap w e.byte
      match s.postStale w cap with
      | some fl => fl
      | none => if left s s.nextId then .wait s { kind := .matrix, n := s.nextId, cap := cap } else finish s cap false) s

end Machine
end Sys2Proof
end

