-- ==== Sys2Proof/Machine/Dispatch.lean ====
section
/-! DEFINITION. The meaning of every step of the part, one arm per constructor of Instr. -/

namespace Sys2Proof
namespace Machine

/-- One instruction or event. -/
def exec (i : Instr) (s : State) : Host.Outcome State Fault Refusal :=
  match i with
  | .iadd f => Sys2Proof.Machine.execIadd f s
  | .iaddI f => Sys2Proof.Machine.execIaddI f s
  | .iaddc f => Sys2Proof.Machine.execIaddc f s
  | .isub f => Sys2Proof.Machine.execIsub f s
  | .imul f => Sys2Proof.Machine.execImul f s
  | .imulh f => Sys2Proof.Machine.execImulh f s
  | .imad f => Sys2Proof.Machine.execImad f s
  | .imin f => Sys2Proof.Machine.execImin f s
  | .imax f => Sys2Proof.Machine.execImax f s
  | .iabs f => Sys2Proof.Machine.execIabs f s
  | .and f => Sys2Proof.Machine.execAnd f s
  | .or f => Sys2Proof.Machine.execOr f s
  | .xor f => Sys2Proof.Machine.execXor f s
  | .lop3 f => Sys2Proof.Machine.execLop3 f s
  | .shl f => Sys2Proof.Machine.execShl f s
  | .shr f => Sys2Proof.Machine.execShr f s
  | .sar f => Sys2Proof.Machine.execSar f s
  | .rot f => Sys2Proof.Machine.execRot f s
  | .bfx f => Sys2Proof.Machine.execBfx f s
  | .bfi f => Sys2Proof.Machine.execBfi f s
  | .popc f => Sys2Proof.Machine.execPopc f s
  | .clz f => Sys2Proof.Machine.execClz f s
  | .brev f => Sys2Proof.Machine.execBrev f s
  | .prmt f => Sys2Proof.Machine.execPrmt f s
  | .icmp f => Sys2Proof.Machine.execIcmp f s
  | .sel f => Sys2Proof.Machine.execSel f s
  | .mov f => Sys2Proof.Machine.execMov f s
  | .movSpecial f => Sys2Proof.Machine.execMovSpecial f s
  | .movi f => Sys2Proof.Machine.execMovi f s
  | .imulI f => Sys2Proof.Machine.execImulI f s
  | .andI f => Sys2Proof.Machine.execAndI f s
  | .orI f => Sys2Proof.Machine.execOrI f s
  | .xorI f => Sys2Proof.Machine.execXorI f s
  | .icmpI f => Sys2Proof.Machine.execIcmpI f s
  | .iminI f => Sys2Proof.Machine.execIminI f s
  | .imaxI f => Sys2Proof.Machine.execImaxI f s
  | .fadd f => Sys2Proof.Machine.execFadd f s
  | .faddF f => Sys2Proof.Machine.execFaddF f s
  | .fmul f => Sys2Proof.Machine.execFmul f s
  | .fmulF f => Sys2Proof.Machine.execFmulF f s
  | .ffma f => Sys2Proof.Machine.execFfma f s
  | .ffmaF f => Sys2Proof.Machine.execFfmaF f s
  | .fmin f => Sys2Proof.Machine.execFmin f s
  | .fmax f => Sys2Proof.Machine.execFmax f s
  | .fcmp f => Sys2Proof.Machine.execFcmp f s
  | .fcmpF f => Sys2Proof.Machine.execFcmpF f s
  | .frnd f => Sys2Proof.Machine.execFrnd f s
  | .frcp f => Sys2Proof.Machine.execFrcp f s
  | .frsq f => Sys2Proof.Machine.execFrsq f s
  | .fsqrt f => Sys2Proof.Machine.execFsqrt f s
  | .fexp2 f => Sys2Proof.Machine.execFexp2 f s
  | .flog2 f => Sys2Proof.Machine.execFlog2 f s
  | .fsin f => Sys2Proof.Machine.execFsin f s
  | .fcos f => Sys2Proof.Machine.execFcos f s
  | .ftanh f => Sys2Proof.Machine.execFtanh f s
  | .dadd f => Sys2Proof.Machine.execDadd f s
  | .dmul f => Sys2Proof.Machine.execDmul f s
  | .dfma f => Sys2Proof.Machine.execDfma f s
  | .daddF f => Sys2Proof.Machine.execDaddF f s
  | .hfma2 f => Sys2Proof.Machine.execHfma2 f s
  | .hfma2F f => Sys2Proof.Machine.execHfma2F f s
  | .vdot4 f => Sys2Proof.Machine.execVdot4 f s
  | .vdot8 f => Sys2Proof.Machine.execVdot8 f s
  | .mxdot f => Sys2Proof.Machine.execMxdot f s
  | .cvt f => Sys2Proof.Machine.execCvt f s
  | .cvtsr f => Sys2Proof.Machine.execCvtsr f s
  | .pack f => Sys2Proof.Machine.execPack f s
  | .unpk f => Sys2Proof.Machine.execUnpk f s
  | .qnt f => Sys2Proof.Machine.execQnt f s
  | .shfl f => Sys2Proof.Machine.execShfl f s
  | .vote f => Sys2Proof.Machine.execVote f s
  | .ballot f => Sys2Proof.Machine.execBallot f s
  | .redux f => Sys2Proof.Machine.execRedux f s
  | .scan f => Sys2Proof.Machine.execScan f s
  | .qswz f => Sys2Proof.Machine.execQswz f s
  | .deriv f => Sys2Proof.Machine.execDeriv f s
  | .ld f => Sys2Proof.Machine.execLd f s
  | .st f => Sys2Proof.Machine.execSt f s
  | .lds f => Sys2Proof.Machine.execLds f s
  | .sts f => Sys2Proof.Machine.execSts f s
  | .ldf f => Sys2Proof.Machine.execLdf f s
  | .stf f => Sys2Proof.Machine.execStf f s
  | .sfill f => Sys2Proof.Machine.execSfill f s
  | .atom f => Sys2Proof.Machine.execAtom f s
  | .atcas f => Sys2Proof.Machine.execAtcas f s
  | .red f => Sys2Proof.Machine.execRed f s
  | .waitc f => Sys2Proof.Machine.execWaitc f s
  | .pref f => Sys2Proof.Machine.execPref f s
  | .tex f => Sys2Proof.Machine.execTex f s
  | .tld f => Sys2Proof.Machine.execTld f s
  | .imgst f => Sys2Proof.Machine.execImgst f s
  | .sopen f => Sys2Proof.Machine.execSopen f s
  | .isopen f => Sys2Proof.Machine.execIsopen f s
  | .sclose f => Sys2Proof.Machine.execSclose f s
  | .sadv f => Sys2Proof.Machine.execSadv f s
  | .stend f => Sys2Proof.Machine.execStend f s
  | .srd f => Sys2Proof.Machine.execSrd f s
  | .swr f => Sys2Proof.Machine.execSwr f s
  | .tfeed f => Sys2Proof.Machine.execTfeed f s
  | .tdrain f => Sys2Proof.Machine.execTdrain f s
  | .gadd f => Sys2Proof.Machine.execGadd f s
  | .gaddI f => Sys2Proof.Machine.execGaddI f s
  | .gsub f => Sys2Proof.Machine.execGsub f s
  | .gsubI f => Sys2Proof.Machine.execGsubI f s
  | .gmul f => Sys2Proof.Machine.execGmul f s
  | .gmulI f => Sys2Proof.Machine.execGmulI f s
  | .gand f => Sys2Proof.Machine.execGand f s
  | .gandI f => Sys2Proof.Machine.execGandI f s
  | .gor f => Sys2Proof.Machine.execGor f s
  | .gorI f => Sys2Proof.Machine.execGorI f s
  | .gxor f => Sys2Proof.Machine.execGxor f s
  | .gxorI f => Sys2Proof.Machine.execGxorI f s
  | .gshl f => Sys2Proof.Machine.execGshl f s
  | .gshlI f => Sys2Proof.Machine.execGshlI f s
  | .gshr f => Sys2Proof.Machine.execGshr f s
  | .gshrI f => Sys2Proof.Machine.execGshrI f s
  | .gcmp f => Sys2Proof.Machine.execGcmp f s
  | .gcmpI f => Sys2Proof.Machine.execGcmpI f s
  | .gsel f => Sys2Proof.Machine.execGsel f s
  | .gmov f => Sys2Proof.Machine.execGmov f s
  | .gmovi f => Sys2Proof.Machine.execGmovi f s
  | .gld f => Sys2Proof.Machine.execGld f s
  | .gldI f => Sys2Proof.Machine.execGldI f s
  | .gst f => Sys2Proof.Machine.execGst f s
  | .gstI f => Sys2Proof.Machine.execGstI f s
  | .bra f => Sys2Proof.Machine.execBra f s
  | .brc f => Sys2Proof.Machine.execBrc f s
  | .bru f => Sys2Proof.Machine.execBru f s
  | .call f => Sys2Proof.Machine.execCall f s
  | .ret f => Sys2Proof.Machine.execRet f s
  | .jmpi f => Sys2Proof.Machine.execJmpi f s
  | .exit f => Sys2Proof.Machine.execExit f s
  | .nop f => Sys2Proof.Machine.execNop f s
  | .rcv f => Sys2Proof.Machine.execRcv f s
  | .yld f => Sys2Proof.Machine.execYld f s
  | .idr f => Sys2Proof.Machine.execIdr f s
  | .trap f => Sys2Proof.Machine.execTrap f s
  | .brk f => Sys2Proof.Machine.execBrk f s
  | .bar f => Sys2Proof.Machine.execBar f s
  | .cbar f => Sys2Proof.Machine.execCbar f s
  | .fence f => Sys2Proof.Machine.execFence f s
  | .bind f => Sys2Proof.Machine.execBind f s
  | .unbind f => Sys2Proof.Machine.execUnbind f s
  | .scopeset f => Sys2Proof.Machine.execScopeset f s
  | .scopesync f => Sys2Proof.Machine.execScopesync f s
  | .expect f => Sys2Proof.Machine.execExpect f s
  | .mfs f => Sys2Proof.Machine.execMfs f s
  | .mts f => Sys2Proof.Machine.execMts f s
  | .role f => Sys2Proof.Machine.execRole f s
  | .enq f => Sys2Proof.Machine.execEnq f s
  | .enqg f => Sys2Proof.Machine.execEnqg f s
  | .segattLd f => Sys2Proof.Machine.execSegattLd f s
  | .segattNf f => Sys2Proof.Machine.execSegattNf f s
  | .segdet f => Sys2Proof.Machine.execSegdet f s
  | .segpin f => Sys2Proof.Machine.execSegpin f s
  | .cpygo f => Sys2Proof.Machine.execCpygo f s
  | .cpywt f => Sys2Proof.Machine.execCpywt f s
  | .taskpost f => Sys2Proof.Machine.execTaskpost f s
  | .taskwt f => Sys2Proof.Machine.execTaskwt f s
  | .mma f => Sys2Proof.Machine.execMma f s
  | .mmas f => Sys2Proof.Machine.execMmas f s
  | .mlut f => Sys2Proof.Machine.execMlut f s
  | .mzero f => Sys2Proof.Machine.execMzero f s
  | .mld f => Sys2Proof.Machine.execMld f s
  | .mst f => Sys2Proof.Machine.execMst f s
  | .mcvt f => Sys2Proof.Machine.execMcvt f s
  | .mwait f => Sys2Proof.Machine.execMwait f s
  | .rayq f => Sys2Proof.Machine.execRayq f s
  | .raywt f => Sys2Proof.Machine.execRaywt f s
  | .emit f => Sys2Proof.Machine.execEmit f s
  | .payw f => Sys2Proof.Machine.execPayw f s
  | .payr f => Sys2Proof.Machine.execPayr f s
  | .atlreq f => Sys2Proof.Machine.execAtlreq f s
  | .unassignedEncoding w e => Sys2Proof.Machine.execUnassignedEncoding w e s
  | .coldStart => Sys2Proof.Machine.execColdStart s
  | .warmStart => Sys2Proof.Machine.execWarmStart s
  | .powerRemoval => Sys2Proof.Machine.execPowerRemoval s
  | .pwrCapWrite => Sys2Proof.Machine.execPwrCapWrite s
  | .tokenRefill => Sys2Proof.Machine.execTokenRefill s
  | .clockStep => Sys2Proof.Machine.execClockStep s
  | .getVersion => Sys2Proof.Machine.execGetVersion s
  | .getCapabilities => Sys2Proof.Machine.execGetCapabilities s
  | .negotiateAlgorithms => Sys2Proof.Machine.execNegotiateAlgorithms s
  | .getDigests => Sys2Proof.Machine.execGetDigests s
  | .getCertificate => Sys2Proof.Machine.execGetCertificate s
  | .challenge => Sys2Proof.Machine.execChallenge s
  | .getMeasurements => Sys2Proof.Machine.execGetMeasurements s
  | .unsupportedSpdmRequest => Sys2Proof.Machine.execUnsupportedSpdmRequest s
  | .eccError => Sys2Proof.Machine.execEccError s
  | .rowTestResult => Sys2Proof.Machine.execRowTestResult s
  | .retirementSave => Sys2Proof.Machine.execRetirementSave s
  | .configRequest => Sys2Proof.Machine.execConfigRequest s
  | .registerWrite => Sys2Proof.Machine.execRegisterWrite s
  | .resetCtlWarm => Sys2Proof.Machine.execResetCtlWarm s
  | .devNumWrite => Sys2Proof.Machine.execDevNumWrite s
  | .fabPortStatRead => Sys2Proof.Machine.execFabPortStatRead s
  | .entryLowWordWrite => Sys2Proof.Machine.execEntryLowWordWrite s
  | .fabRouteWrite => Sys2Proof.Machine.execFabRouteWrite s
  | .fabWinWrite => Sys2Proof.Machine.execFabWinWrite s
  | .flitReceive => Sys2Proof.Machine.execFlitReceive s
  | .portDown => Sys2Proof.Machine.execPortDown s
  | .retrainTimeout => Sys2Proof.Machine.execRetrainTimeout s
  | .ackTimeout => Sys2Proof.Machine.execAckTimeout s
  | .streamBreak => Sys2Proof.Machine.execStreamBreak s
  | .fabricOperationArrival => Sys2Proof.Machine.execFabricOperationArrival s
  | .fabricAck => Sys2Proof.Machine.execFabricAck s
  | .closeReceive => Sys2Proof.Machine.execCloseReceive s
  | .closeAnswerReceive => Sys2Proof.Machine.execCloseAnswerReceive s
  | .retryResponse => Sys2Proof.Machine.execRetryResponse s
  | .retryResend => Sys2Proof.Machine.execRetryResend s
  | .fabricReleaseSend => Sys2Proof.Machine.execFabricReleaseSend s
  | .cxlPortDown => Sys2Proof.Machine.execCxlPortDown s
  | .cxlPoison => Sys2Proof.Machine.execCxlPoison s
  | .atsRequest => Sys2Proof.Machine.execAtsRequest s
  | .translationCompletion => Sys2Proof.Machine.execTranslationCompletion s
  | .pageRequestEnqueue => Sys2Proof.Machine.execPageRequestEnqueue s
  | .pageRequestSend => Sys2Proof.Machine.execPageRequestSend s
  | .pageResponse => Sys2Proof.Machine.execPageResponse s
  | .atsInvalidation => Sys2Proof.Machine.execAtsInvalidation s
  | .invalidationAck => Sys2Proof.Machine.execInvalidationAck s
  | .invalidationTimeout => Sys2Proof.Machine.execInvalidationTimeout s
  | .contextEnable => Sys2Proof.Machine.execContextEnable s
  | .ctxTeardownWrite => Sys2Proof.Machine.execCtxTeardownWrite s
  | .subTailWrite => Sys2Proof.Machine.execSubTailWrite s
  | .ctxPreemptReq => Sys2Proof.Machine.execCtxPreemptReq s
  | .packetArrival => Sys2Proof.Machine.execPacketArrival s
  | .dringWake => Sys2Proof.Machine.execDringWake s
  | .launch => Sys2Proof.Machine.execLaunch s
  | .barrier => Sys2Proof.Machine.execBarrier s
  | .signal => Sys2Proof.Machine.execSignal s
  | .signalStoreDone => Sys2Proof.Machine.execSignalStoreDone s
  | .segmentCreate => Sys2Proof.Machine.execSegmentCreate s
  | .segmentDestroy => Sys2Proof.Machine.execSegmentDestroy s
  | .segmentPin => Sys2Proof.Machine.execSegmentPin s
  | .segmentUnpin => Sys2Proof.Machine.execSegmentUnpin s
  | .segmentInvalidOp => Sys2Proof.Machine.execSegmentInvalidOp s
  | .scope => Sys2Proof.Machine.execScope s
  | .teardown => Sys2Proof.Machine.execTeardown s
  | .teardownQuiescent => Sys2Proof.Machine.execTeardownQuiescent s
  | .quantumExpiry => Sys2Proof.Machine.execQuantumExpiry s
  | .preemptArrival => Sys2Proof.Machine.execPreemptArrival s
  | .ticketClaim => Sys2Proof.Machine.execTicketClaim s
  | .pendingRetry => Sys2Proof.Machine.execPendingRetry s
  | .seedReoffer => Sys2Proof.Machine.execSeedReoffer s
  | .affinityTimeout => Sys2Proof.Machine.execAffinityTimeout s
  | .waveEntryGrant => Sys2Proof.Machine.execWaveEntryGrant s
  | .resultReturn => Sys2Proof.Machine.execResultReturn s
  | .missSplit => Sys2Proof.Machine.execMissSplit s
  | .faultSplit => Sys2Proof.Machine.execFaultSplit s
  | .fuseTimeout => Sys2Proof.Machine.execFuseTimeout s
  | .reconvergenceRelease => Sys2Proof.Machine.execReconvergenceRelease s
  | .fuseto => Sys2Proof.Machine.execFuseto s
  | .splitwaitRetry => Sys2Proof.Machine.execSplitwaitRetry s
  | .poolEvict => Sys2Proof.Machine.execPoolEvict s
  | .teamSave => Sys2Proof.Machine.execTeamSave s
  | .teamSaveDone => Sys2Proof.Machine.execTeamSaveDone s
  | .idrPreempt => Sys2Proof.Machine.execIdrPreempt s
  | .coremodeChange => Sys2Proof.Machine.execCoremodeChange s
  | .haltWave => Sys2Proof.Machine.execHaltWave s
  | .resumeWave => Sys2Proof.Machine.execResumeWave s
  | .haltContext => Sys2Proof.Machine.execHaltContext s
  | .resumeContext => Sys2Proof.Machine.execResumeContext s
  | .dbgRead => Sys2Proof.Machine.execDbgRead s
  | .dbgWrite => Sys2Proof.Machine.execDbgWrite s
  | .segdetDrainDone => Sys2Proof.Machine.execSegdetDrainDone s
  | .segmentEvictDone => Sys2Proof.Machine.execSegmentEvictDone s
  | .segmentReloadDone => Sys2Proof.Machine.execSegmentReloadDone s
  | .scopeUpdateAck => Sys2Proof.Machine.execScopeUpdateAck s
  | .scopeUpdateTimeout => Sys2Proof.Machine.execScopeUpdateTimeout s
  | .bindingPropagated => Sys2Proof.Machine.execBindingPropagated s
  | .releaseDrainDone => Sys2Proof.Machine.execReleaseDrainDone s
  | .postAccept => Sys2Proof.Machine.execPostAccept s
  | .copyJobStart => Sys2Proof.Machine.execCopyJobStart s
  | .copyRecordDone => Sys2Proof.Machine.execCopyRecordDone s
  | .slowPathJobEnd => Sys2Proof.Machine.execSlowPathJobEnd s
  | .taskArm => Sys2Proof.Machine.execTaskArm s
  | .taskRelease => Sys2Proof.Machine.execTaskRelease s
  | .matrixGrant => Sys2Proof.Machine.execMatrixGrant s
  | .matrixComplete => Sys2Proof.Machine.execMatrixComplete s
  | .queryStart => Sys2Proof.Machine.execQueryStart s
  | .queryRecord => Sys2Proof.Machine.execQueryRecord s
  | .triangleSend => Sys2Proof.Machine.execTriangleSend s
  | .triangleArrival => Sys2Proof.Machine.execTriangleArrival s
  | .swWaveTimeout => Sys2Proof.Machine.execSwWaveTimeout s
  | .meshStarvation => Sys2Proof.Machine.execMeshStarvation s
  | .monitorWake => Sys2Proof.Machine.execMonitorWake s
  | .waitcPoll => Sys2Proof.Machine.execWaitcPoll s
  | .waitcSwapOut => Sys2Proof.Machine.execWaitcSwapOut s
  | .portUp => Sys2Proof.Machine.execPortUp s
  | .cacheLineEviction => Sys2Proof.Machine.execCacheLineEviction s
  | .nonReturningOperationPerformed => Sys2Proof.Machine.execNonReturningOperationPerformed s
  | .gddr7UncorrectedError => Sys2Proof.Machine.execGddr7UncorrectedError s

end Machine
end Sys2Proof
end

