-- ==== Sys2Proof/Machine/Enabled.lean ====
section
/-! DEFINITION. The moves the module may make of itself: which fragments may issue, and which internal events are due. No
rule orders them among each other (R5, R154): the step chooses by a free value. -/

namespace Sys2Proof
namespace Machine

/-- A fragment may issue, go on waiting, or replay (Table 6.7): its wave holds its entries and is not halted; one that issues is in its
pipe's pool (R152); it is not the agent's (`agentWave`); its team is not being saved and has made its attachments again (R189, R312). A
fragment at a stop point whose wait ends while a pre-emption request is pending goes on. DESIGN CHOICE, log entry 36. -/
def State.mayIssue (s : State) (core entry : Nat) : Bool :=
  let c := s.core core
  let f := c.frag entry
  let w := c.wave f.slot
  let t := s.team w.team
  (match f.st with
   | .run | .trap | .splitwait => (c.pipe w.pipe).pool.contains f.slot
   | .syncwait => true
   | .xlate => f.wait.ready
   | _ => false)
  && entry != 511 && w.order.contains entry && w.owed.isEmpty && !w.haltReq && !t.saving && t.reattach.isEmpty

/-- The issues that may come next, and the cycles of cores that hold waves. -/
def State.issues (s : State) : List Turn :=
  s.cores.flatMap fun (n, c) =>
    (c.frags.filterMap fun (e, _) => if s.mayIssue n e then some (.issue n e) else none) ++ (if c.waves.isEmpty then [] else [.tick n])

/-- An event of the module with its input. -/
def ev (i : Instr) (unit item : Nat) (id : Nat := 0) (flag : Bool := false) : Turn :=
  .event i { unit := unit, item := item, id := id, flag := flag }

/-- The events that may concern a core, its waves, fragments and posted operations. -/
def coreMoves (n : Nat) (c : Core) : List Turn :=
  [ev .waveEntryGrant n 0] ++
  (if c.draining then [.event .coremodeChange { unit := n, mode := .selfTest }] else []) ++
  (c.waves.flatMap fun (k, w) => [ev .reconvergenceRelease n k, ev .poolEvict n k] ++ w.pend.map fun p => ev .resultReturn n k p.id) ++
  (c.frags.flatMap fun (e, _) =>
    [.missSplit, .faultSplit, .fuseTimeout, .fuseto, .splitwaitRetry, .segdetDrainDone, .releaseDrainDone, .postAccept, .monitorWake,
     .waitcPoll, .waitcSwapOut].map fun (i : Instr) => ev i n e) ++
  (c.posts.flatMap fun p => [ev .nonReturningOperationPerformed n 0 p.id, ev .releaseDrainDone n 0 p.id true]) ++
  (c.l1.keys.map fun k => .event .cacheLineEviction { level := .l1, unit := n, item := k }) ++
  (c.icache.keys.map fun k => .event .cacheLineEviction { level := .icache, unit := n, item := k })

/-- The events that may concern a die: its agents, channels, slow path, triangles and lines. -/
def dieMoves (d : Nat) (x : Die) : List Turn :=
  [ev .seedReoffer d 0, ev .ticketClaim d 0, ev .pendingRetry d 0, ev .meshStarvation d 0] ++
  ((List.range x.pending.length).map fun k => ev .affinityTimeout d k) ++
  ((List.range 16).flatMap fun ch => [ev .copyJobStart d ch, ev .copyRecordDone d ch]) ++
  (x.jobs.flatMap fun j => [ev .slowPathJobEnd d 0 j.id, ev .taskArm d 0 j.id]) ++
  ((List.range 8).map fun k => ev .triangleSend d k) ++
  ((List.range x.tris.length).flatMap fun k => (List.range 8).map fun dst => ev .triangleArrival dst d k) ++
  ((List.range x.packs.length).map fun k => ev .swWaveTimeout d k) ++
  (x.l2.keys.map fun k => .event .cacheLineEviction { level := .l2, unit := d, item := k }) ++
  (x.llc.keys.map fun k => .event .cacheLineEviction { level := .llc, unit := d, item := k })

/-- The events that may concern a quartet. -/
def quartetMoves (q : Nat) : List Turn :=
  [ev .matrixGrant q 0, ev .matrixGrant q 0 0 true, ev .matrixComplete q 0, ev .matrixComplete q 0 0 true] ++
  (List.range 8).flatMap fun k => [ev .queryStart q k, ev .queryRecord q k]

/-- The header of a device ring's next slot would be admitted, or cannot be read: the monitor has something to show (R79). -/
def State.ringMoved (s : State) (c : Nat) : Bool :=
  let x := s.ctx c
  x.st == .active && x.dring != 0 && !x.dringStopped && !x.dringLook &&
  (let log := x.dringLog.toNat
   let n := x.dringHead.toNat
   let a : Addr := (x.dring ++ (0 : BitVec 12)) + BitVec.ofNat 64 (64 * (n % 2 ^ log))
   match s.engRead (ringEng c) a 4 with
   | .ok _ h => anyBad h || (bitsAt (engNat h) 4 4 == 1 && bitsAt (engNat h) 8 1 == n / 2 ^ log % 2)
   | _ => true)

/-- The events that may concern a context. -/
def State.ctxMoves (s : State) (c : Nat) (x : Ctx) : List Turn :=
  [ev .teardownQuiescent c 0, ev .quantumExpiry c 0] ++ (if s.ringMoved c then [ev .dringWake c 0] else []) ++
  ((x.scopeUpd.take 1).flatMap fun u => u.leaves.map fun d => ev .scopeUpdateAck c d) ++
  (x.bindUpd.map fun (k, _) => ev .bindingPropagated c k) ++
  (x.segs.keys.flatMap fun h => [ev .segmentEvictDone c h, ev .segmentReloadDone c h]) ++
  (x.tasks.keys.map fun t => ev .taskRelease c t)

/-- The events of Woad, of the host link and of the fabric. -/
def State.hubMoves (s : State) : List Turn :=
  ([.packetArrival, .launch, .barrier, .signal, .scope, .segmentCreate, .segmentDestroy, .segmentPin, .segmentUnpin, .segmentInvalidOp,
    .pageRequestEnqueue, .pageRequestSend].map fun (i : Instr) => ev i 0 0) ++
  (s.woad.writes.map fun w => ev .signalStoreDone 0 0 w.id) ++
  ([0, 1, 2, 3, 4, 5, 6, 7, 9].map fun leaf => ev .atsRequest leaf 0) ++
  (s.link.invals.flatMap fun i => i.leaves.map fun leaf => ev .invalidationAck leaf i.itag) ++
  (s.fab.dst.map fun d => .event .fabricOperationArrival { stream := d.id }) ++
  (s.fab.src.flatMap fun x => [.event .fabricReleaseSend { stream := x.id }] ++
    (x.ops.filter fun o => o.refused).map fun o => .event .retryResend { stream := x.id, val := o.op.num.toNat })

/-- The events that may concern a team: a save at its stop points, for a request, for a retired unit or for a self-test; and the
wake of a swapped-out team. -/
def State.teamMoves (s : State) (t : Nat) (x : Team) : List Turn :=
  (if s.mustMove t && !x.preempt then [ev .retirementSave 0 t] else []) ++ [ev .teamSave 0 t, ev .monitorWake 0 t 0 true]

/-- Every event that may be due. -/
def State.candidates (s : State) : List Turn :=
  s.hubMoves ++ (s.ctxs.flatMap fun (c, x) => s.ctxMoves c x) ++ (s.launches.flatMap fun (l, x) => x.reqCores.map fun n => ev .preemptArrival n l) ++
    (s.teams.flatMap fun (t, x) => s.teamMoves t x) ++ (s.quartets.keys.flatMap quartetMoves) ++ (s.dies.flatMap fun (d, x) => dieMoves d x) ++
    (s.cores.flatMap fun (n, c) => coreMoves n c)

/-- An event is due when it changes the state. -/
def State.due (s : State) (t : Turn) : Bool :=
  match t with
  | .event i x =>
    (match exec i { s with inp := x, cur := none } with
     | .next u => decide ({ u with inp := s.inp, cur := s.cur } ≠ s)
     | _ => false)
  | _ => true

/-- Every move the module may make of itself. Timeouts of the I/O die's clock, and what the power controller and the management plane
do, come from the agenda, as everything from outside does. -/
def State.enabled (s : State) : List Turn := s.issues ++ s.candidates.filter s.due

end Machine
end Sys2Proof
end

