-- ==== Sys2Proof/Machine/Step.lean ====
section
/-! DEFINITION. One step: the head of the agenda or, where the agenda is empty, one of the moves the module may make. -/

namespace Sys2Proof
namespace Machine

/-- After a move what it has made due is done: Woad's error records and its records to peers (R97, R56), launches whose counter is at zero
(R91), attachments and storage whose jobs have ended (R170, R188), packs that are complete (R297), the page requests of
fragments that came back in XLATE (R159), and victims for the seeds that wait (R94). -/
def State.after (s : State) : State :=
  let s := s.settleErr.settlePeers
  ((((s.settleLaunches s.launches.length).settleDetach.settleSaved).settlePacks).resendAll).chooseVictim

/-- One issue of a fragment takes one cycle of its core (R5, R149): fetch, decode, the meaning, then the clock. -/
def issueTurn (core entry : Nat) (s : State) : Host.Outcome State Fault Refusal :=
  if s.mayIssue core entry then
    match { s with cur := some (core, entry) }.prepare core entry with
    | .stop s => .next ({ s with cur := none }.tickCore core).after
    | .run s i =>
      match exec i s with
      | .next s => .next ({ s with cur := none }.tickCore core).after
      | .fault r => .fault r
      | .refused r => .refused r
  else .next (s.tickCore core)

/-- The host writes a byte of its memory: as seen from the module, a release by a party outside it (R213). -/
def State.hostStore (s : State) (a : Nat) (v : Byte) : State :=
  ({ s with mem := s.mem.put (hostLoc a) v }.cutRels .home (hostLoc a)).noteRelease (outsideRel (hostLoc a))

/-- One turn. -/
def runTurn (t : Turn) (s : State) : Host.Outcome State Fault Refusal :=
  match t with
  | .event i inp =>
    match exec i { s with inp := inp, cur := none } with
    | .next s => .next s.after
    | .fault r => .fault r
    | .refused r => .refused r
  | .issue c e => issueTurn c e s
  | .tick c => .next (s.tickCore c)
  | .hostStore a v => .next (s.hostStore a.toNat v)

/-- The moves that are possible now, in the order in which they have become so. -/
def State.waiting (s : State) : List Turn :=
  let ts := s.enabled
  s.moves.filter ts.contains ++ ts.filter fun t => !s.moves.contains t

/-- The step of the module. With an empty agenda a free value chooses among the moves, but one that has been passed over `patience` times
comes next, so that whatever stays possible comes about (R155). With nothing enabled the module waits for the outside world. -/
def step (s : State) : Host.Outcome State Fault Refusal :=
  match s.agenda with
  | t :: rest => runTurn t { s with agenda := rest }
  | [] =>
    let ts := s.waiting
    match (if Config.patience ≤ s.skips then ts.head? else ts[Config.pick s.choice % ts.length]?) with
    | some t => runTurn t { s with choice := s.choice + 1, moves := ts.erase t, skips := if ts.head? == some t then 0 else s.skips + 1 }
    | none => .next s

/-- The virtual page that withFetchWord maps, and the device page behind it. -/
def slotPage : Nat := 0x1000

/-- The wave that runs the word: the largest shape, one fragment with every lane. -/
def probeWave : Wave := { team := 0, lanes := 64, vregs := 128, order := [0] }
/-- Its fragment, at the page's first byte. -/
def probeFrag : Frag := { pc := BitVec.ofNat 64 slotPage, mask := BitVec.allOnes 64, slot := 0, st := .run, budget := 64 }
/-- Core 0 in service with that wave in slot 0. -/
def probeCore (c : Core) : Core :=
  { c with mode := .service, waves := c.waves.set 0 probeWave, frags := c.frags.set 0 probeFrag,
           pipes := c.pipes.set 0 { c.pipe 0 with pool := [0] },
           tc := [{ vpage := BitVec.ofNat 64 slotPage, tpage := BitVec.ofNat 64 slotPage, r := true, w := true }] }

/-- The team of that wave. -/
def probeTeam : Team :=
  { launch := 0, ctx := 0, core := 0, desc := { waves := 1, width := 4, vregs := 16, teamscr := 4 }, slots := [(0, 0)], pipes := [0] }

/-- The state in which the very next step fetches and runs the instruction whose bits are `w`: it stands for the launch
that brings a program to a core (log entry 6). BAR2 lies at 0, so that the page is device memory. -/
def State.withFetchWord (s : State) (nbits w : Nat) : State :=
  let n := w % 2 ^ nbits
  let bytes := wordBytes (BitVec.ofNat 32 n) ++ wordBytes (BitVec.ofNat 32 (n / 2 ^ 32))
  let s := { s with mgmt := { s.mgmt with ready := true }, ctxs := s.ctxs.set 0 { s.ctx 0 with st := .active } }
  let s := { s with launches := s.launches.set 0 { ctx := 0, lanepriv := 1024, dlceil := 255 } }
  let s := { s with teams := s.teams.set 0 probeTeam }
  let s := s.updCore 0 probeCore
  let s := { s with mem := bytes.zipIdx.foldl (fun m (b, i) => m.put (slotPage + i) b) s.mem }
  { s with agenda := .issue 0 0 :: s.agenda }

end Machine
end Sys2Proof
end

