-- ==== Sys2Proof/Machine/ZasmRows.lean ====
section
/-! DEFINITION. The written forms of the instructions, one row for each form of files 15 to 18: mnemonic, operands and the
instruction's own qualifiers (R368 to R371). -/

namespace Sys2Proof
namespace Machine

/-- The kinds of register that a line names (R369). -/
inductive AReg where
  | v | g | p | q | m | md | f
  deriving DecidableEq, Repr

/-- An operand field: VD or GD, VA or GA, VB or GB, SRC3. -/
inductive Fld where
  | d | a | b | c
  deriving DecidableEq, Repr

/-- What stands at one place of a line's operands, and the field that takes it. -/
inductive Slot where
  /-- a register of a kind -/
  | r (k : AReg) (f : Fld)
  /-- source b: a vector register, or a uniform one under USRC (R356) -/
  | vg
  /-- a number in the low bits of a field -/
  | num (f : Fld) (bits : Nat)
  /-- a number in bits of BYTE -/
  | byte (lo bits : Nat)
  /-- an integer immediate in the extension word (I) -/
  | imm
  /-- the immediate of ISUB and its like, negated (R371) -/
  | negImm
  /-- a float immediate (F): bf16, or fp16 for HFMA2 (R365) -/
  | fimm (half : Bool)
  /-- SHFL's immediate offset (R401) -/
  | offset
  /-- an address of Table 16.1; `unit` is the size that DISP counts in, where the format does not give it -/
  | addr (unit : Option Nat)
  /-- an address of LDS and STS (R412) -/
  | addr32
  /-- a lane base in brackets (R416) -/
  | base
  /-- ISOPEN's index-list base (R425) -/
  | index
  /-- a uniform pair plus a register (R436) -/
  | gaddr
  /-- a uniform pair plus a number (I) -/
  | gimm
  /-- a uniform pair in brackets (R465) -/
  | gbase
  /-- a special register, its number over GA and GB (R456) -/
  | srn
  /-- %laneid or %quadid (R364) -/
  | laneSpecial
  /-- a role number or name (R457) -/
  | role
  /-- a branch target (R352) -/
  | label
  deriving DecidableEq, Repr

/-- What a qualifier sets: bits of a field under a mask, or nothing. -/
inductive Put where
  | nothing
  | mod (x mask : Nat)
  | src3 (x mask : Nat)
  | b (x mask : Nat)
  | byte (x mask : Nat)
  deriving DecidableEq, Repr

/-- A written form. -/
structure Row where
  name : String
  uni : Bool
  major : Nat
  sub : Nat
  ops : List Slot
  /-- operands that may follow -/
  more : List Slot := []
  quals : List (String × Put) := []
  /-- a qualifier that selects this form, and what it sets -/
  need : Option String := none
  preset : Put := .nothing
  /-- MOD[1:0] is the cache policy -/
  pol : Bool := false
  /-- BYTE[4:0] is a scope without an order -/
  scope : Bool := false
  deriving DecidableEq, Repr

/-- A lane form. -/
def laneRow (name : String) (major sub : Nat) (ops : List Slot) (quals : List (String × Put) := []) : Row :=
  { name := name, uni := false, major := major, sub := sub, ops := ops, quals := quals }
/-- A uniform form. -/
def uniRow (name : String) (major sub : Nat) (ops : List Slot) (quals : List (String × Put) := []) : Row :=
  { name := name, uni := true, major := major, sub := sub, ops := ops, quals := quals }

/-- vd, va and vb. -/
def dab : List Slot := [.r .v .d, .r .v .a, .vg]
/-- vd and va. -/
def da : List Slot := [.r .v .d, .r .v .a]
/-- vd, va, vb and vc. -/
def dabc : List Slot := dab ++ [.r .v .c]
/-- vd, va and an integer immediate. -/
def dai : List Slot := da ++ [.imm]
/-- gd and ga. -/
def gda : List Slot := [.r .g .d, .r .g .a]
/-- gd, ga and gb. -/
def gdab : List Slot := gda ++ [.r .g .b]
/-- gd, ga and an immediate. -/
def gdai : List Slot := gda ++ [.imm]

/-- Qualifiers numbered from 0 in MOD under a mask. -/
def modNames (mask : Nat) (ns : List String) : List (String × Put) := ns.zipIdx.map fun (n, k) => (n, .mod k mask)
/-- The integer conditions (R378, R433). -/
def condNames : List String := ["eq", "ne", "lt", "le", "gt", "ge"]
/-- Conditions in VB or GB of an (I) or (F) form. -/
def condsB (ns : List String) : List (String × Put) := ns.zipIdx.map fun (n, k) => (n, .b k 7)
/-- Formats that a line with an integer immediate may name, and what n32 sets (R384); i32 leaves the same bits 0. -/
def immFmts (n32 : Put) : List (String × Put) := [("i32", match n32 with | .b _ m => .b 0 m | p => p), ("n32", n32)]
/-- The operations of ATOM and RED, in SRC3 (R416). -/
def opNames (ns : List String) : List (String × Put) := ns.zipIdx.map fun (n, k) => (n, .src3 k 7)

/-- Integer forms (Table 15.1). -/
def intRows : List Row :=
  [laneRow "IADD" 0x00 0 dab, laneRow "IADD" 0x00 1 dai (immFmts .nothing), laneRow "IADDC" 0x00 2 (dab ++ [.r .p .c]),
   laneRow "ISUB" 0x00 3 dab, laneRow "ISUB" 0x00 1 (da ++ [.negImm]) (immFmts .nothing),
   laneRow "IMUL" 0x01 0 dab, laneRow "IMUL" 0x09 0 dai (immFmts .nothing), laneRow "IMULH" 0x01 1 dab, laneRow "IMAD" 0x01 2 dabc,
   laneRow "IMIN" 0x02 0 dab, laneRow "IMIN" 0x0A 1 dai (immFmts (.b 8 8)), laneRow "IMAX" 0x02 1 dab,
   laneRow "IMAX" 0x0A 2 dai (immFmts (.b 8 8)), laneRow "IABS" 0x02 2 da,
   laneRow "AND" 0x03 0 dab, laneRow "AND" 0x09 1 dai (immFmts .nothing), laneRow "OR" 0x03 1 dab,
   laneRow "OR" 0x09 2 dai (immFmts .nothing), laneRow "XOR" 0x03 2 dab, laneRow "XOR" 0x09 3 dai (immFmts .nothing)] ++
  [laneRow "LOP3" 0x03 3 dabc [("and3", .byte 0x80 255), ("or3", .byte 0xFE 255), ("par3", .byte 0x96 255), ("maj", .byte 0xE8 255),
                               ("ch", .byte 0xAC 255), ("andn", .byte 0x08 255)],
   laneRow "LOP3" 0x03 3 (dabc ++ [.byte 0 8]),
   laneRow "SHL" 0x04 0 dab, laneRow "SHR" 0x04 1 dab, laneRow "SAR" 0x04 2 dab, laneRow "ROT" 0x04 3 dab [("r", .mod 1 1)],
   laneRow "BFX" 0x05 0 dab, laneRow "BFI" 0x05 1 dabc, laneRow "POPC" 0x05 2 da, laneRow "CLZ" 0x05 3 da, laneRow "BREV" 0x06 0 da,
   laneRow "PRMT" 0x06 1 dabc, laneRow "ICMP" 0x07 0 [.r .p .d, .r .v .a, .vg] (modNames 7 condNames),
   laneRow "ICMP" 0x0A 0 [.r .p .d, .r .v .a, .imm] (condsB condNames ++ immFmts (.b 8 8)),
   laneRow "SEL" 0x07 1 (dab ++ [.r .p .c]), laneRow "MOV" 0x08 0 [.r .v .d, .vg], laneRow "MOV" 0x08 1 [.r .v .d, .laneSpecial],
   laneRow "MOVI" 0x08 2 [.r .v .d, .imm] (immFmts .nothing)]

/-- Floating-point forms (Table 15.3, R391). -/
def fltRows : List Row :=
  let conds := condNames ++ ["un", "ord"]
  let f32 := [("fp32", Put.nothing)]
  [laneRow "FADD" 0x10 0 dab, laneRow "FADD" 0x10 1 (da ++ [.fimm false]) f32, laneRow "FMUL" 0x10 2 dab,
   laneRow "FMUL" 0x10 3 (da ++ [.fimm false]) f32, laneRow "FFMA" 0x11 0 dabc, laneRow "FFMA" 0x11 1 (da ++ [.fimm false]) f32,
   laneRow "FMIN" 0x11 2 dab, laneRow "FMAX" 0x11 3 dab, laneRow "FCMP" 0x12 0 [.r .p .d, .r .v .a, .vg] (modNames 7 conds),
   laneRow "FCMP" 0x12 1 [.r .p .d, .r .v .a, .fimm false] (condsB conds ++ f32), laneRow "FRND" 0x12 2 da,
   laneRow "FRCP" 0x13 0 da, laneRow "FRSQ" 0x13 1 da, laneRow "FSQRT" 0x13 2 da, laneRow "FEXP2" 0x14 0 da, laneRow "FLOG2" 0x14 1 da,
   laneRow "FSIN" 0x14 2 da, laneRow "FCOS" 0x14 3 da, laneRow "FTANH" 0x15 0 da, laneRow "DADD" 0x16 0 dab,
   laneRow "DADD" 0x16 3 (da ++ [.fimm false]) [("fp64", .nothing)], laneRow "DMUL" 0x16 1 dab, laneRow "DFMA" 0x16 2 dabc,
   laneRow "HFMA2" 0x17 0 dabc, laneRow "HFMA2" 0x17 1 (da ++ [.fimm true]) [("fp16", .nothing)]]

/-- Narrow and cross-lane forms (Tables 15.4 and 15.5). -/
def narrowRows : List Row :=
  let ws := [("half", Put.mod 0 3), ("byte", .mod 1 3), ("nib", .mod 2 3)]
  let ops := modNames 7 ["add", "min", "max", "and", "or", "xor"]
  let modes := modNames 3 ["idx", "up", "down", "xor"]
  [laneRow "VDOT4" 0x20 0 dabc, laneRow "VDOT8" 0x20 1 dabc [("mix", .mod 1 1)],
   laneRow "MXDOT" 0x20 2 [.r .v .d, .r .v .a, .r .v .b, .r .v .c, .byte 4 2, .byte 6 2],
   laneRow "CVT" 0x21 0 da, laneRow "CVTSR" 0x21 1 dab, laneRow "PACK" 0x22 0 (dab ++ [.byte 0 3]) ws,
   laneRow "UNPK" 0x22 1 (da ++ [.byte 0 4]) (ws ++ [("sx", .mod 4 4)]), laneRow "QNT" 0x22 2 [.r .v .d, .r .v .a, .r .v .c, .byte 4 2],
   { laneRow "SHFL" 0x28 0 dab modes with more := [.r .v .c] },
   { laneRow "SHFL" 0x28 0 (da ++ [.offset]) modes with more := [.r .v .c] },
   laneRow "VOTE" 0x28 1 [.r .p .d, .r .p .a] (modNames 3 ["all", "any", "eq"]), laneRow "BALLOT" 0x28 2 [.r .v .d, .r .p .a],
   laneRow "REDUX" 0x29 0 da ops, laneRow "SCAN" 0x29 1 da (ops ++ [("excl", .byte 8 8)]),
   { laneRow "QSWZ" 0x2A 0 da (modNames 3 ["h", "v", "d", "bc"]) with more := [.byte 3 2] },
   laneRow "DERIV" 0x2A 1 da (modNames 1 ["ddx", "ddy"] ++ [("fine", .mod 2 2)])]

/-- Lane memory, atomic, image, stream and tile forms (Tables 16.2, 16.3 and 16.7, R412, R421, R430). -/
def memRows : List Row :=
  let se := ("se", Put.mod 4 4)
  let x2 := ("x2", Put.src3 16 16)
  let win := [("lp", Put.src3 0 0x60), ("ts", .src3 0x20 0x60), ("cs", .src3 0x40 0x60), x2]
  let p (r : Row) : Row := { r with pol := true }
  let ops := ["add", "min", "max", "and", "or", "xor"]
  let conds := opNames ["eq", "ne", "geu", "ltu", "ge", "lt"]
  let x4 := [("x4", Put.mod 4 4)]
  let st := [("adv", Put.mod 1 1), ("chk", .mod 4 4)]
  let ld := [Slot.r .v .d, .addr none]
  let sto := [Slot.addr none, .r .v .d]
  [p { laneRow "LD" 0x2E 0 ld [x2] with need := some "fe" },
   p { laneRow "LD" 0x2E 0 ld [x2] with need := some "fec", preset := .mod 4 4 },
   p (laneRow "LD" 0x2C 0 ld [se, x2]), p { laneRow "ST" 0x2E 1 sto [x2] with need := some "fe" }, p (laneRow "ST" 0x2C 1 sto [x2]),
   p (laneRow "LDS" 0x2D 0 [.r .v .d, .addr32] win), p (laneRow "STS" 0x2D 1 [.addr32, .r .v .d] win),
   p (laneRow "SFILL" 0x2E 2 [.addr (some 16), .r .v .d]), p (laneRow "PREF" 0x30 1 [.addr none] [x2]),
   p (laneRow "ATOM" 0x2F 0 [.r .v .d, .base, .vg] (opNames (ops ++ ["exch"]))),
   p (laneRow "ATCAS" 0x2F 1 [.r .v .d, .base, .vg, .r .v .c] [("x2", .mod 4 4)]),
   p (laneRow "RED" 0x2F 2 [.base, .vg] (opNames ops)), p (laneRow "WAITC" 0x30 0 [.r .v .d, .base, .vg] conds)] ++
  [p (laneRow "TEX" 0x31 0 [.r .v .d, .r .v .a, .r .g .b] [se]), p (laneRow "TLD" 0x31 1 [.r .v .d, .r .v .a, .r .g .b] [se]),
   p (laneRow "IMGST" 0x31 2 [.r .v .d, .r .v .a, .r .g .b]), p (laneRow "SOPEN" 0x38 0 [.r .f .d, .base, .vg]),
   p (laneRow "ISOPEN" 0x38 1 [.r .f .d, .base, .index, .r .v .c]), laneRow "SCLOSE" 0x38 2 [.r .f .d],
   { laneRow "SADV" 0x39 0 [.r .f .d, .vg] with need := some "by", preset := .mod 4 4 }, laneRow "SADV" 0x39 0 [.r .f .d],
   laneRow "STEND" 0x39 1 [.r .p .d, .r .f .a], laneRow "SRD" 0x3A 0 [.r .v .d, .r .f .a] st, laneRow "SWR" 0x3A 1 [.r .f .a, .vg] st,
   laneRow "TFEED" 0x3C 0 [.r .m .d, .r .v .a, .r .g .b] x4, laneRow "TDRAIN" 0x3C 1 [.r .v .d, .r .m .a, .r .g .b] x4]

/-- Uniform forms (Tables 17.1 to 17.4, R447 to R461). -/
def uniRows : List Row :=
  let i := immFmts .nothing
  let br (n : String) (major : Nat) : Row := uniRow n major 0 [.label]
  let p (r : Row) : Row := { r with pol := true }
  [uniRow "GADD" 0x00 0 gdab, uniRow "GADD" 0x00 1 gdai i, uniRow "GSUB" 0x00 2 gdab, uniRow "GSUB" 0x00 3 gdai i,
   uniRow "GMUL" 0x01 0 gdab, uniRow "GMUL" 0x01 1 gdai i, uniRow "GAND" 0x02 0 gdab, uniRow "GAND" 0x02 1 gdai i,
   uniRow "GOR" 0x02 2 gdab, uniRow "GOR" 0x02 3 gdai i, uniRow "GXOR" 0x03 0 gdab, uniRow "GXOR" 0x03 1 gdai i,
   uniRow "GSHL" 0x04 0 gdab, uniRow "GSHL" 0x04 1 gdai i, uniRow "GSHR" 0x04 2 gdab [("a", .mod 1 1)],
   uniRow "GSHR" 0x04 3 gdai (("a", .b 1 1) :: i), uniRow "GCMP" 0x05 0 [.r .q .d, .r .g .a, .r .g .b] (modNames 7 condNames),
   uniRow "GCMP" 0x05 1 [.r .q .d, .r .g .a, .imm] (condsB condNames ++ immFmts (.b 8 8)), uniRow "GSEL" 0x05 2 (gdab ++ [.r .q .c]),
   uniRow "GMOV" 0x06 0 [.r .g .d, .r .g .b], uniRow "GMOVI" 0x06 1 [.r .g .d, .imm] i] ++
  [p (uniRow "GLD" 0x07 0 [.r .g .d, .gaddr]), uniRow "GLD" 0x07 1 [.r .g .d, .gimm] i, p (uniRow "GST" 0x07 2 [.gaddr, .r .g .d]),
   uniRow "GST" 0x07 3 [.gimm, .r .g .d] i, br "BRA" 0x10, br "BRC" 0x11, br "BRU" 0x12, br "CALL" 0x13,
   uniRow "RET" 0x14 0 [], uniRow "JMPI" 0x14 1 [.r .g .a] [("l", .mod 1 1)], uniRow "EXIT" 0x14 2 [], uniRow "NOP" 0x14 3 [],
   uniRow "RCV" 0x15 0 [.num .a 4], { uniRow "YLD" 0x15 1 [] with more := [.byte 0 8] }, uniRow "IDR" 0x15 2 [.r .g .a],
   uniRow "TRAP" 0x16 0 [.imm], uniRow "BRK" 0x16 1 [.imm], uniRow "BAR" 0x18 0 [.num .a 2], uniRow "CBAR" 0x18 1 [.num .a 2],
   uniRow "FENCE" 0x19 0 [], { uniRow "BIND" 0x1A 0 (gdab ++ [.r .g .c]) with scope := true }, uniRow "UNBIND" 0x1A 1 [.r .g .d],
   uniRow "SCOPESET" 0x1B 0 [.r .g .a, .r .g .b], uniRow "SCOPESYNC" 0x1B 1 [], uniRow "EXPECT" 0x1C 0 [.r .g .a, .r .g .b]] ++
  [{ uniRow "MFS" 0x20 0 [.r .g .d, .srn] with more := [.r .g .c] }, { uniRow "MTS" 0x20 1 [.srn, .r .g .d] with more := [.r .g .c] },
   uniRow "ROLE" 0x21 0 [.r .g .d, .role], uniRow "ENQ" 0x28 0 [.r .g .a], uniRow "ENQG" 0x28 1 [.r .g .a, .r .g .b],
   { uniRow "SEGATT" 0x29 0 gda with need := some "ld" }, { uniRow "SEGATT" 0x29 1 gda with need := some "nf" },
   uniRow "SEGDET" 0x29 2 [.r .g .a], uniRow "SEGPIN" 0x29 3 [.r .g .a] [("un", .mod 1 1)]]

/-- Engine and graphics forms (Tables 18.2 to 18.7). -/
def engineRows : List Row :=
  let sc (r : Row) : Row := { r with scope := true }
  let ch := modNames 1 ["c0", "c1"]
  let nw := [("nw", Put.mod 4 4)]
  let z := [("z", Put.mod 1 1), ("p1", .mod 2 2)]
  let ms := [Slot.r .m .d, .r .m .a, .r .m .b]
  [sc (uniRow "CPYGO" 0x30 0 gda ch), sc (uniRow "CPYWT" 0x30 1 gda (ch ++ [("clr", .mod 2 2)] ++ nw)), sc (uniRow "TASKPOST" 0x31 0 gda),
   sc (uniRow "TASKWT" 0x31 1 gda nw), uniRow "MMA" 0x32 0 ms z, uniRow "MMAS" 0x32 1 (ms ++ [.r .m .c]) z,
   uniRow "MLUT" 0x32 2 ms [("z", .mod 1 1), ("b1", .byte 1 7), ("b2", .byte 2 7), ("b3", .byte 3 7), ("b4", .byte 4 7)],
   uniRow "MZERO" 0x33 0 [.r .m .d], sc (uniRow "MLD" 0x33 1 [.r .m .d, .gbase, .r .g .b] [("p1", .mod 2 2)]),
   sc (uniRow "MST" 0x33 2 [.gbase, .r .g .b, .r .m .d] [("p1", .mod 2 2)]),
   uniRow "MCVT" 0x33 3 [.r .m .d, .r .m .a] [("p1s", .mod 2 2), ("p1d", .mod 4 4)], sc (uniRow "MWAIT" 0x34 0 [.r .g .d]),
   sc { uniRow "RAYQ" 0x35 0 (gdab ++ [.r .g .c]) with need := some "sp", preset := .mod 1 1 }, sc (uniRow "RAYQ" 0x35 0 gdab),
   sc (uniRow "RAYWT" 0x35 1 gda nw), uniRow "EMIT" 0x3C 0 gdab, uniRow "PAYW" 0x3C 1 (gdab ++ [.r .g .c]), uniRow "PAYR" 0x3C 2 gda,
   uniRow "ATLREQ" 0x3D 0 gdab]

/-- Every written form. -/
def asmRows : List Row := intRows ++ fltRows ++ narrowRows ++ memRows ++ uniRows ++ engineRows

end Machine
end Sys2Proof
end

