-- ==== Sys2Proof/Machine/Zasm.lean ====
section
/-! DEFINITION. zasm: source lines, operands and qualifiers, encoding, directives, descriptor templates and warnings
(R368 to R374). -/

namespace Sys2Proof
namespace Machine

/-! ## Text -/

/-- A blank. -/
def isBlank (c : Char) : Bool := c == ' ' || c == '\t' || c == '\r'
/-- Text without blanks at its ends. -/
def trimText (l : List Char) : List Char := ((l.dropWhile isBlank).reverse.dropWhile isBlank).reverse
/-- The parts of a text between separators. -/
def splitText (c : Char) : List Char → List (List Char)
  | [] => [[]]
  | x :: t =>
    if x == c then [] :: splitText c t
    else match splitText c t with
      | [] => [[x]]
      | h :: r => (x :: h) :: r
/-- A letter or underscore. -/
def identStart (c : Char) : Bool := c.isAlpha || c == '_'
/-- A character of an identifier. -/
def identChar (c : Char) : Bool := c.isAlphanum || c == '_'

/-- The value of a digit. -/
def digitOf (c : Char) : Option Nat :=
  let n := c.toNat
  if 48 ≤ n && n ≤ 57 then some (n - 48)
  else if 97 ≤ n && n ≤ 102 then some (n - 87)
  else if 65 ≤ n && n ≤ 70 then some (n - 55)
  else none
/-- A number in a base, with optional underscores. -/
def natText (base : Nat) (l : List Char) : Option Nat :=
  if l.all (· == '_') then none
  else (l.filter (· != '_')).foldl (fun a c => match a, digitOf c with
    | some x, some k => if k < base then some (x * base + k) else none
    | _, _ => none) (some 0)
/-- An integer without its sign: decimal, 0x or 0b. -/
def absText : List Char → Option Nat
  | '0' :: 'x' :: t => natText 16 t
  | '0' :: 'b' :: t => natText 2 t
  | t => natText 10 t
/-- An integer with an optional leading minus. -/
def intText : List Char → Option Int
  | '-' :: t => (absText t).map fun n => -(n : Int)
  | t => (absText t).map fun n => (n : Int)

/-- A float literal: an exact quotient with its sign, an infinity, or a NaN (R369). -/
inductive AFlt where
  | val (neg : Bool) (n d : Nat)
  | inf (neg : Bool)
  | nan
  deriving DecidableEq, Repr

/-- A float literal without its sign. -/
def absFlt (neg : Bool) (l : List Char) : Option AFlt :=
  if l == ['i', 'n', 'f'] then some (.inf neg)
  else if l == ['n', 'a', 'n'] then some .nan
  else
    let (man, ex) := match splitText 'e' (l.map Char.toLower) with
      | [m] => (m, some 0)
      | [m, e] => (m, intText (if e.head? == some '+' then e.drop 1 else e))
      | _ => ([], none)
    let (whole, frac) := match splitText '.' man with
      | [w] => (w, [])
      | [w, f] => (w, f)
      | _ => (['.'], [])
    if !(l.contains '.' || l.contains 'e' || l.contains 'E') then none
    else match natText 10 (whole ++ frac), ex with
      | some n, some k =>
        let s := 10 ^ (frac.filter (· != '_')).length
        some (if k < 0 then .val neg n (s * 10 ^ k.natAbs) else .val neg (n * 10 ^ k.natAbs) s)
      | _, _ => none
/-- A float literal. -/
def fltText : List Char → Option AFlt
  | '-' :: t => absFlt true t
  | t => absFlt false t

/-- The code of an exact value in a format with `mb` fraction bits and a bias, none where the format cannot hold it. -/
def exactCode (mb bias : Nat) (n d : Nat) : Option Nat :=
  if n == 0 then some 0
  else
    let d' := d / Nat.gcd n d
    let n' := n / Nat.gcd n d
    let k := Nat.log2 d'
    if 2 ^ k != d' then none
    else
      -- the value in units of the least subnormal, 2^-(bias + mb - 1)
      let u := n' * 2 ^ (bias + mb - 1)
      if u % d' != 0 then none
      else
        let u := u / d'
        if u < 2 ^ mb then some u
        else
          let e := Nat.log2 u - mb
          if e + 1 > 2 * bias || u % 2 ^ e != 0 then none else some ((e + 1) * 2 ^ mb + (u / 2 ^ e - 2 ^ mb))

/-- The 16-bit code of a float literal in bf16, or in fp16 (R365, R371). -/
def AFlt.code (half : Bool) : AFlt → Option (BitVec 16)
  | .val neg n d => (if half then exactCode 10 15 n d else exactCode 7 127 n d).map fun c => bit1 neg ++ BitVec.ofNat 15 c
  | .inf neg => some (bit1 neg ++ (if half then 0x7C00 else 0x7F80 : BitVec 15))
  | .nan => some (if half then 0x7E00 else 0x7FC0)

/-! ## Operands (R369) -/

/-- A term of an address in brackets. -/
inductive ATerm where
  | reg (k : AReg) (n : Nat) (suffix : String)
  | num (x : Int)
  deriving DecidableEq, Repr

/-- An operand as written. -/
inductive AOpd where
  | reg (k : AReg) (n : Nat)
  | special (name : String)
  | int (x : Int)
  | flt (x : AFlt)
  | mem (ts : List ATerm)
  | name (s : String)
  deriving DecidableEq, Repr

/-- A register name. -/
def regText (l : List Char) : Option (AReg × Nat) :=
  let go (k : AReg) (n : Nat) (t : List Char) : Option (AReg × Nat) :=
    if t.all Char.isDigit then (natText 10 t).bind fun x => if x < n then some (k, x) else none else none
  match l with
  | 'm' :: 'd' :: t => go .md 32 t
  | 'v' :: t => go .v 128 t
  | 'g' :: t => go .g 64 t
  | 'p' :: t => go .p 8 t
  | 'q' :: t => go .q 8 t
  | 'm' :: t => go .m 32 t
  | 'f' :: t => go .f 16 t
  | _ => none

/-- An identifier: no register name. -/
def identText (l : List Char) : Bool :=
  (match l with | c :: _ => identStart c | [] => false) && l.all identChar && (regText l).isNone

/-- A term of an address. -/
def termText (l : List Char) : Option ATerm :=
  match intText l with
  | some x => some (.num x)
  | none =>
    match splitText '.' l with
    | [r] => (regText r).map fun (k, n) => .reg k n ""
    | [r, s] => (regText r).map fun (k, n) => .reg k n (String.ofList s)
    | _ => none

/-- An operand. -/
def opdText (l : List Char) : Option AOpd :=
  match l with
  | '[' :: t =>
    if t.getLast? != some ']' then none
    else ((splitText '+' t.dropLast).mapM fun x => termText (trimText x)).map .mem
  | '%' :: t => some (.special (String.ofList t))
  | _ =>
    match regText l, intText l, fltText l with
    | some (k, n), _, _ => some (.reg k n)
    | _, some x, _ => some (.int x)
    | _, _, some x => some (.flt x)
    | _, _, _ => if identText l then some (.name (String.ofList l)) else none

/-! ## Lines (R368) -/

/-- A guard: its predicate set, its number, and whether it is inverted. -/
structure AGuard where
  uni : Bool
  n : Nat
  inv : Bool
  deriving DecidableEq, Repr

/-- What a line holds after its label. -/
inductive ABody where
  | nothing
  | directive (name : String) (args : List (List Char))
  | ins (guard : Option AGuard) (name : String) (quals : List String) (ops : List AOpd)
  deriving DecidableEq, Repr

/-- Why a line, or a kernel, is refused (R371, R372, R373). -/
inductive ZErr where
  /-- the line is not of the form of R368, or has an operand that R369 does not know -/
  | form
  /-- no instruction has this mnemonic with these operands -/
  | mnemonic
  /-- a qualifier that the instruction does not take -/
  | qualifier
  /-- two qualifiers of one row of R370 -/
  | twice
  /-- an integer does not fit its field, or a displacement is none of R406 -/
  | fits
  /-- a float literal that its format cannot hold exactly -/
  | exact
  /-- a guard of the wrong set, or on a form that takes none (R384) -/
  | guard
  /-- the words would break R355 to R361 -/
  | fields
  /-- a branch target that no label names, or beyond R352's reach -/
  | target
  /-- a label given twice -/
  | label
  /-- a directive that Table 14.8 does not list, or whose operands it does not allow -/
  | directive
  /-- an instruction outside a kernel, or a kernel or section that is not closed -/
  | place
  /-- a kernel without .wave, or with two -/
  | wave
  /-- a seed kernel with .cluster or more than one wave -/
  | seed
  deriving DecidableEq, Repr

/-- The guard at the head of a text. -/
def guardText (l : List Char) : Option (Option AGuard × List Char) :=
  match l with
  | '?' :: t =>
    let (inv, t) := match t with | '!' :: u => (true, u) | _ => (false, t)
    match t with
    | c :: k :: r =>
      match digitOf k with
      | some n =>
        if (c == 'p' || c == 'q') && n < 8 && (r.head?.map isBlank).getD false then some (some { uni := c == 'q', n := n, inv := inv }, trimText r)
        else none
      | none => none
    | _ => none
  | _ => some (none, l)

/-- The label at the head of a text. -/
def labelText (l : List Char) : Option String × List Char :=
  let name := l.takeWhile identChar
  match l.drop name.length with
  | ':' :: r => if identText name then (some (String.ofList name), trimText r) else (none, l)
  | _ => (none, l)

/-- The operands of a text, separated by commas. -/
def argsText (l : List Char) : List (List Char) := if (trimText l).isEmpty then [] else (splitText ',' l).map trimText

/-- Reads a line: its label, and what follows. -/
def lineText (l : List Char) : Option String × Except ZErr ABody :=
  let (lab, l) := labelText (trimText (l.takeWhile (· != ';')))
  match l with
  | [] => (lab, .ok .nothing)
  | '.' :: _ =>
    let w := l.takeWhile fun c => !isBlank c
    (lab, .ok (.directive (String.ofList (w.map Char.toLower)) (argsText (l.drop w.length))))
  | _ =>
    match guardText l with
    | none => (lab, .error .form)
    | some (g, l) =>
      let w := l.takeWhile fun c => !isBlank c
      match splitText '.' w, (argsText (l.drop w.length)).mapM opdText with
      | m :: qs, some os => (lab, .ok (.ins g (String.ofList (m.map Char.toUpper)) (qs.map fun q => String.ofList (q.map Char.toLower)) os))
      | _, _ => (lab, .error .form)

/-! ## Qualifiers (R370) -/

/-- The rows of R370's table, with the value that a qualifier gives. -/
inductive Qual where
  | sw
  | rnd (x : Nat)
  | sat
  | fmt (page : Bool) (x : Nat)
  | srcFmt (page : Bool) (x : Nat)
  | width (x : Nat)
  | order (x : Nat)
  | scope (x : Nat)
  | pol (x : Nat)
  | own (p : Put)
  deriving DecidableEq, Repr

/-- The formats of page 0 by name (Table 13.1). -/
def fmtNames : List (String × Nat) :=
  [("i8", 0), ("i16", 1), ("i32", 2), ("i64", 3), ("n8", 4), ("n16", 5), ("n32", 6), ("n64", 7), ("i4", 8), ("n4", 9), ("fp64", 10),
   ("fp32", 11), ("fp16", 12), ("bf16", 13), ("e8m0", 14), ("mxe4m3", 16), ("mxe5m2", 17), ("mxe3m2", 18), ("mxe2m3", 19),
   ("mxe2m1", 20), ("mxi8", 21)]

/-- The value that a list of pairs gives a name. -/
def zNamed (l : List (String × Nat)) (s : String) : Option Nat := (l.find? fun x => x.1 == s).map Prod.snd

/-- A binary8 name of page 1 (R318). -/
def binary8 (l : List Char) : Option Nat :=
  let (u, t) := match l with | 'n' :: r => (16, r) | _ => (0, l)
  match t with
  | 'b' :: '8' :: 'p' :: k :: r =>
    match digitOf k with
    | some p => if 1 ≤ p && p ≤ 7 then (if r == [] then some (u + p) else if r == ['f'] then some (u + 8 + p) else none) else none
    | none => none
  | _ => none

/-- A format's page and code. -/
def fmtText (s : String) : Option (Bool × Nat) :=
  match zNamed fmtNames s with
  | some x => some (false, x)
  | none => (binary8 s.toList).map fun x => (true, x)

/-- A qualifier of R370's common rows; `scopes` are the .scope symbols. -/
def commonQual (scopes : List (String × Nat)) (s : String) : Option Qual :=
  let e (l : List Char) : Option Nat := match l with
    | 'e' :: t => if t.all Char.isDigit then (natText 10 t).bind fun x => if 5 ≤ x && x ≤ 31 then some x else none else none
    | _ => none
  match zNamed [("rne", 0), ("rtz", 1), ("rup", 2), ("rdn", 3), ("rna", 4), ("sto", 5), ("dyn", 6)] s,
        zNamed [("w4", 0), ("w8", 1), ("w16", 2), ("w32", 3), ("w64", 4), ("ww", 5)] s,
        zNamed [("rlx", 0), ("acq", 1), ("rel", 2), ("ar", 3), ("sc", 4)] s,
        (zNamed [("core", 0), ("clus", 1), ("die", 2), ("pkg", 3), ("sys", 4)] s <|> e s.toList),
        zNamed [("l1", 0), ("l2", 1), ("mc", 2), ("st", 3)] s, fmtText s with
  | some x, _, _, _, _, _ => some (.rnd x)
  | _, some x, _, _, _, _ => some (.width x)
  | _, _, some x, _, _, _ => some (.order x)
  | _, _, _, some x, _, _ => some (.scope x)
  | _, _, _, _, some x, _ => some (.pol x)
  | _, _, _, _, _, some (p, x) => some (.fmt p x)
  | _, _, _, _, _, _ =>
    if s == "sw" then some .sw else if s == "sat" then some .sat
    else match s.toList with
      | 's' :: t => match fmtText (String.ofList t) with
        | some (p, x) => some (.srcFmt p x)
        | none => (zNamed scopes s).map .scope
      | _ => (zNamed scopes s).map .scope

/-- A qualifier of a form: its own first, then the common ones. -/
def Row.qual (r : Row) (scopes : List (String × Nat)) (s : String) : Option Qual :=
  match r.quals.find? fun x => x.1 == s with
  | some (_, p) => some (.own p)
  | none => commonQual scopes s

/-- Two qualifiers stand in one row of R370's table. -/
def Qual.clash : Qual → Qual → Bool
  | .sw, .sw | .rnd _, .rnd _ | .sat, .sat | .fmt .., .fmt .. | .srcFmt .., .srcFmt .. | .width _, .width _ | .order _, .order _
  | .scope _, .scope _ | .pol _, .pol _ => true
  | .own (.mod _ m), .own (.mod _ n) | .own (.src3 _ m), .own (.src3 _ n) | .own (.b _ m), .own (.b _ n)
  | .own (.byte _ m), .own (.byte _ n) => m &&& n != 0
  | .own .nothing, .own .nothing => true
  | _, _ => false

/-- Some two of a list clash. -/
def anyClash : List Qual → Bool
  | [] => false
  | q :: t => t.any q.clash || anyClash t

/-! ## Encoding (R371) -/

/-- The fields of a line under construction. -/
structure Enc where
  sw : Bool := false
  d : Nat := 0
  a : Nat := 0
  b : Nat := 0
  e : EMod
  imm : Word := 0
  half : BitVec 16 := 0
  label : Option String := none
  deriving DecidableEq, Repr

/-- A value put under a mask. -/
def masked (old x mask : Nat) : Nat := (old - (old &&& mask)) + x

/-- What a qualifier puts. -/
def Put.apply (p : Put) (x : Enc) : Enc :=
  match p with
  | .nothing => x
  | .mod v m => { x with e := { x.e with mod := BitVec.ofNat 3 (masked x.e.mod.toNat v m) } }
  | .src3 v m => { x with e := { x.e with src3 := BitVec.ofNat 7 (masked x.e.src3.toNat v m) } }
  | .b v m => { x with b := masked x.b v m }
  | .byte v m => { x with e := { x.e with byte := BitVec.ofNat 8 (masked x.e.byte.toNat v m) } }

/-- The page in which an instruction reads FMT: VDOT4's is page 1 (R392). -/
def Row.page1 (r : Row) : Bool := r.name == "VDOT4"
/-- CVT and CVTSR carry two formats (R393). -/
def Row.twoFmts (r : Row) : Bool := r.name == "CVT" || r.name == "CVTSR"

/-- A qualifier's fields. An order without a scope takes scope 0 (R200). -/
def Qual.apply (r : Row) (q : Qual) (x : Enc) : Option Enc :=
  match q with
  | .sw => some { x with sw := true }
  | .rnd v => some { x with e := { x.e with rnd := BitVec.ofNat 3 v } }
  | .sat => some { x with e := { x.e with sat := true } }
  | .fmt p v =>
    let y := { x with e := { x.e with fmt := BitVec.ofNat 5 v } }
    if r.twoFmts then some ((Put.src3 (if p then 64 else 0) 64).apply y) else if p == r.page1 then some y else none
  | .srcFmt p v => if r.twoFmts then some ((Put.src3 (v + if p then 32 else 0) 63).apply x) else none
  | .width v => some ((Put.byte v 7).apply x)
  | .order v => some ((Put.byte (v * 32) 255).apply x)
  | .scope v => some ((Put.byte v 31).apply x)
  | .pol v => some ((Put.mod v 3).apply x)
  | .own p => some (p.apply x)

/-- The fields of an instruction that a qualifier's row needs (R355): whether its instruction has them. -/
def Qual.taken (r : Row) (i : Instr) : Qual → Bool
  | .sw | .own _ => true
  | .pol _ => r.pol
  | .scope _ => r.scope || (match i.uses with | .lane _ u => u.orders.isSome | .uni _ u => u.orders.isSome | _ => false)
  | .order _ => match i.uses with | .lane _ u => u.orders.isSome | .uni _ u => u.orders.isSome | _ => false
  | .width _ => match i.uses with | .lane _ u => u.width | _ => false
  | .fmt .. => match i.uses with | .lane _ u => (match u.fmts with | .none => false | _ => true) | .uni _ u => !u.fmts.isEmpty | _ => false
  | .srcFmt .. => r.twoFmts
  | .rnd _ => match i.uses with | .lane _ u => u.rnd | .flt .. => true | .uni _ u => u.rnd | _ => false
  | .sat => match i.uses with | .lane _ u => u.sat | .flt .. => true | .uni _ u => u.rnd | _ => false

/-- Writes an operand field. -/
def Fld.put (f : Fld) (n : Nat) (x : Enc) : Enc :=
  match f with
  | .d => { x with d := n }
  | .a => { x with a := n }
  | .b => { x with b := n }
  | .c => { x with e := { x.e with src3 := BitVec.ofNat 7 n } }

/-- Special registers by name (Table 14.5), %mdn apart. -/
def srnNames : List (String × Nat) :=
  [("wavewidth", 0x010), ("teamid", 0x011), ("waveidx", 0x012), ("clusterrole", 0x013), ("fragid", 0x014), ("coremode", 0x015),
   ("yieldleft", 0x016), ("wavepolicy", 0x018), ("fusetimeout", 0x019), ("misssplit", 0x01A), ("fpmode", 0x020), ("fpflags", 0x021),
   ("srstate", 0x022), ("cyclelo", 0x028), ("cyclehi", 0x029), ("mhalt", 0x030), ("minvlo", 0x031), ("minvhi", 0x032),
   ("trapword", 0x040)]

/-- The number of a special register. -/
def srnText (s : String) : Option Nat :=
  match regText s.toList with
  | some (.md, n) => some (0x100 + n)
  | _ => zNamed srnNames s

/-- Names that a source defines: .segment, .scope and, in the open kernel, .roles. -/
structure ZNames where
  segs : List (String × Nat) := []
  scopes : List (String × Nat) := []
  roles : List (String × Nat) := []
  deriving DecidableEq, Repr

/-- The integer that an operand stands for: a literal, or the value of a segment symbol. -/
def AOpd.int? (ns : ZNames) : AOpd → Option Int
  | .int x => some x
  | .name s => (zNamed ns.segs s).map fun n => (n : Int)
  | _ => none

/-- A lane base: v0 to v63, or g0 to g63 as 64 and above (R405). -/
def baseOf : ATerm → Option Nat
  | .reg .v n "" => if n < 64 then some n else none
  | .reg .g n "" => some (64 + n)
  | _ => none

/-- An index and a displacement, each optional, after a base. -/
def restOf : List ATerm → Option (Option (AReg × Nat × String) × Int)
  | [] => some (none, 0)
  | [.num x] => some (none, x)
  | [.reg k n s] => some (some (k, n, s), 0)
  | [.reg k n s, .num x] => some (some (k, n, s), x)
  | _ => none

/-- The operand may stand at a place: its kind is the place's. -/
def Slot.takes (ns : ZNames) (s : Slot) (o : AOpd) : Bool :=
  match s, o with
  | .r k _, .reg k' _ => k == k'
  | .vg, .reg k _ => k == .v || k == .g
  | .num .., _ | .byte .., _ | .imm, _ | .negImm, _ | .offset, _ => (o.int? ns).isSome
  | .fimm _, .flt _ => true
  | .addr _, .mem _ | .addr32, .mem _ => true
  | .base, .mem [_] | .index, .mem [_] | .gbase, .mem [_] => true
  | .gaddr, .mem [_, .reg ..] => true
  | .gimm, .mem [_] | .gimm, .mem [_, .num _] => true
  | .srn, .special n => (srnText n).isSome
  | .srn, .reg .md _ => true
  | .laneSpecial, .special n => n == "laneid" || n == "quadid"
  | .role, .int _ | .role, .name _ | .label, .name _ => true
  | _, _ => false

/-- A number that fits a field of bits. -/
def fitsIn (bits : Nat) (x : Int) : Bool := 0 ≤ x && x < 2 ^ bits
/-- A number that fits a 32-bit field. -/
def fits32 (x : Int) : Bool := -(2 ^ 31) ≤ x && x < 2 ^ 32
/-- DISP for a byte count in units (R406). -/
def zDisp (unit : Nat) (x : Int) : Option Nat :=
  if unit == 0 || x % (unit : Int) != 0 then none
  else
    let k := x / (unit : Int)
    if -8 ≤ k && k ≤ 7 then some (k % 16).toNat else none

/-- Bytes of an access by the fields so far. -/
def Enc.unit (x : Enc) : Nat := if x.e.src3.getLsbD 4 then 16 else fmtBits x.e.fmt.toNat / 8

/-- An index register in VB. -/
def Enc.index (x : Enc) (k : AReg) (n : Nat) : Option Enc :=
  match k with
  | .v => some { x with b := n }
  | .g => some { x with b := n, e := { x.e with usrc := true } }
  | _ => none

/-- Puts an operand at its place. -/
def Slot.place (ns : ZNames) (s : Slot) (o : AOpd) (x : Enc) : Except ZErr Enc :=
  let opt (e : ZErr) : Option Enc → Except ZErr Enc | some y => .ok y | none => .error e
  match s, o with
  | .r _ f, .reg _ n => .ok (f.put n x)
  | .vg, .reg k n => opt .form (x.index k n)
  | .num f bits, _ => opt .fits ((o.int? ns).bind fun v => if fitsIn bits v then some (f.put v.toNat x) else none)
  | .byte lo bits, _ =>
    opt .fits ((o.int? ns).bind fun v => if fitsIn bits v then some ((Put.byte (v.toNat * 2 ^ lo) ((2 ^ bits - 1) * 2 ^ lo)).apply x) else none)
  | .imm, _ => opt .fits ((o.int? ns).bind fun v => if fits32 v then some { x with imm := BitVec.ofInt 32 v } else none)
  | .negImm, _ => opt .fits ((o.int? ns).bind fun v => if fits32 (-v) then some { x with imm := BitVec.ofInt 32 (-v) } else none)
  | .offset, _ =>
    opt .fits ((o.int? ns).bind fun v => if fitsIn 5 v then some ((Put.mod 4 4).apply ((Put.byte (v.toNat * 8) 0xF8).apply x)) else none)
  | .fimm half, .flt v => opt .exact ((v.code half).map fun c => { x with half := c })
  | .addr unit, .mem (b :: more) =>
    match baseOf b, restOf more with
    | some n, some (ix, d) =>
      match zDisp (unit.getD x.unit) d with
      | none => .error .fits
      | some k =>
        let y := (Put.src3 k 15).apply { x with a := n }
        match ix with
        | none => .ok y
        | some (kind, m, sfx) =>
          opt .form (((zNamed [("", 1), ("sx", 2), ("d", 3)] sfx).bind fun c => ((Put.src3 (c * 32) 0x60).apply y).index kind m))
    | _, _ => .error .form
  | .addr32, .mem (b :: more) =>
    match baseOf b, restOf more with
    | some n, some (ix, d) =>
      match zDisp x.unit d with
      | none => .error .fits
      | some k =>
        let y := (Put.src3 k 15).apply { x with a := n }
        match ix with
        | none => .ok y
        | some (kind, m, sfx) => opt .form (if sfx == "" then ((Put.mod 4 4).apply y).index kind m else none)
    | _, _ => .error .form
  | .base, .mem [b] => opt .form ((baseOf b).map fun n => { x with a := n })
  | .index, .mem [.reg k n ""] => opt .form (x.index k n)
  | .gaddr, .mem [.reg .g n "", .reg .g m ""] => .ok { x with a := n, b := m }
  | .gimm, .mem [.reg .g n ""] => .ok { x with a := n }
  | .gimm, .mem [.reg .g n "", .num v] => if fitsIn 32 v then .ok { x with a := n, imm := BitVec.ofInt 32 v } else .error .fits
  | .gbase, .mem [.reg .g n ""] => .ok { x with a := n }
  | .srn, .special s => opt .form ((srnText s).map fun n => { x with a := n / 64, b := n % 64 })
  | .srn, .reg .md n => .ok { x with a := 4, b := n }
  | .laneSpecial, .special s => .ok { x with b := if s == "quadid" then 1 else 0 }
  | .role, .int v => if fitsIn 5 v then .ok { x with a := v.toNat } else .error .fits
  | .role, .name s => opt .form ((zNamed ns.roles s).map fun n => { x with a := n })
  | .label, .name s => .ok { x with label := some s }
  | _, _ => .error .form

/-- Puts the operands at their places. -/
def placeAll (ns : ZNames) : List Slot → List AOpd → Enc → Except ZErr Enc
  | s :: ss, o :: os, x => (s.place ns o x).bind (placeAll ns ss os)
  | _, _, x => .ok x

/-- A form matches a line: its mnemonic, the qualifier that selects it, and the kinds of its operands. -/
def Row.matches (r : Row) (ns : ZNames) (name : String) (quals : List String) (ops : List AOpd) : Bool :=
  r.name == name && (match r.need with | some q => quals.contains q | none => true) && r.ops.length ≤ ops.length &&
    ops.length ≤ r.ops.length + r.more.length && ((r.ops ++ r.more).zip ops).all fun (s, o) => s.takes ns o

/-- What a line comes to: an instruction, or a branch whose target is not yet known. -/
inductive ZIns where
  | ins (i : Instr)
  | br (major : Nat) (f : BForm) (target : String)
  deriving DecidableEq, Repr

/-- The E-mod word of an instruction, left out where every field has its default (R354, R371). -/
def extOf (i : Instr) (e : EMod) : Option EMod := if e == i.dflt then none else some e

/-- The instruction of a form with its fields, and the guard that a line gives. -/
def Row.make (r : Row) (g : Option AGuard) (x : Enc) : Except ZErr ZIns :=
  let set (g : AGuard) (e : EMod) : EMod := { e with gsense := g.inv, guard := BitVec.ofNat 3 g.n }
  let e := match g with | some g => set g x.e | none => x.e
  match x.label, r.uni with
  | some t, _ =>
    let lanePred := r.major == 0x11 || r.major == 0x12
    match g with
    | some g =>
      if g.uni == lanePred then .error .guard else .ok (.br r.major { sw := x.sw, sense := g.inv, pred := BitVec.ofNat 3 g.n, off := 0 } t)
    | none => .ok (.br r.major { sw := x.sw, sense := false, pred := 0, off := 0 } t)
  | none, false =>
    let v (n : Nat) : BitVec 7 := BitVec.ofNat 7 n
    if (g.map fun g => g.uni).getD false then .error .guard
    else match laneMap r.major r.sub with
      | none => .error .mnemonic
      | some (.mod build) =>
        let f (e : Option EMod) : LForm := { sw := x.sw, vd := v x.d, va := v x.a, vb := v x.b, ext := e }
        .ok (.ins (build (f (extOf (build (f none)) e))))
      | some (.imm build) =>
        if g.isSome then .error .guard else .ok (.ins (build { sw := x.sw, vd := v x.d, va := v x.a, vb := v x.b, imm := x.imm }))
      | some (.flt build) =>
        let h : EFlt := { gsense := e.gsense, guard := e.guard, rsv := 0, sat := e.sat, rnd := e.rnd, imm16 := x.half }
        .ok (.ins (build { sw := x.sw, vd := v x.d, va := v x.a, vb := v x.b, f := h }))
  | none, true =>
    let n (k : Nat) : BitVec 6 := BitVec.ofNat 6 k
    if (g.map fun g => !g.uni).getD false then .error .guard
    else match uniMap r.major r.sub with
      | none => .error .mnemonic
      | some (.mod build) =>
        let f (e : Option EMod) : UForm := { sw := x.sw, gd := n x.d, ga := n x.a, gb := n x.b, ext := e }
        .ok (.ins (build (f (extOf (build (f none)) e))))
      | some (.imm build) => if g.isSome then .error .guard else .ok (.ins (build { sw := x.sw, gd := n x.d, ga := n x.a, gb := n x.b, imm := x.imm }))

/-- The defaults of a form's extension word (R354). -/
def Row.dflt (r : Row) : EMod :=
  if r.uni then
    match uniMap r.major r.sub with
    | some (.mod build) => (build { sw := false, gd := 0, ga := 0, gb := 0, ext := none }).dflt
    | _ => .dflt 0 0
  else
    match laneMap r.major r.sub with
    | some (.mod build) => (build { sw := false, vd := 0, va := 0, vb := 0, ext := none }).dflt
    | _ => .dflt 0 0

/-- An order comes before a scope, so that the scope stands. -/
def orderFirst (qs : List Qual) : List Qual :=
  let isOrder (q : Qual) : Bool := match q with | .order _ => true | _ => false
  qs.filter isOrder ++ qs.filter fun q => !isOrder q

/-- Encodes a line: the first form that matches, its qualifiers, its operands, its guard, and the checks of R355 to R361. -/
def assembleLine (ns : ZNames) (g : Option AGuard) (name : String) (quals : List String) (ops : List AOpd) : Except ZErr ZIns :=
  match asmRows.find? fun r => r.matches ns name quals ops with
  | none => .error .mnemonic
  | some r =>
    let qs := match r.need with | some q => quals.erase q | none => quals
    match qs.mapM (r.qual ns.scopes) with
    | none => .error .qualifier
    | some qs =>
      if anyClash qs then .error .twice
      else match (orderFirst qs).foldlM (fun x q => q.apply r x) (r.preset.apply { e := r.dflt }) with
        | none => .error .qualifier
        | some x =>
          match placeAll ns (r.ops ++ r.more) ops x with
          | .error e => .error e
          | .ok x =>
            match r.make g x with
            | .error e => .error e
            | .ok (.br m f t) => if qs.all (· == .sw) then .ok (.br m f t) else .error .qualifier
            | .ok (.ins i) =>
              if !(qs.all fun q => q.taken r i) then .error .qualifier
              else if (i.illegal .largest).isSome then .error .fields
              else .ok (.ins i)

/-- The words of a line that is one instruction without a label or a name of the source. -/
def lineWords (src : String) : Option (Word × Option Word) :=
  match lineText src.toList with
  | (none, .ok (.ins g n qs os)) =>
    match assembleLine {} g n qs os with
    | .ok (.ins i) => encode i
    | _ => none
  | _ => none

/-! ## Directives (R372) -/

/-- A kernel as its directives give it. -/
structure ZKernel where
  name : String
  start : Nat
  /-- each .wave: width, waves, fuse timeout -/
  wave : List (Nat × Nat × Nat) := []
  vregs : Option Nat := none
  lanepriv : Nat := 0
  teamscr : Nat := 0
  cluster : Option (Nat × Nat × Nat) := none
  mtiles : Nat := 0
  idemp : Bool := false
  roles : List (String × Nat) := []
  deriving DecidableEq, Repr

/-- What a line emits at an address, under the kernel that is open. -/
structure ZPiece where
  line : Nat
  addr : Nat
  kernel : Option Nat
  what : List Byte ⊕ ZIns
  deriving DecidableEq, Repr

/-- The assembler between two lines. -/
structure ZState where
  line : Nat := 0
  addr : Nat := 0
  /-- number of the open kernel -/
  kern : Option Nat := none
  data : Bool := false
  kernels : List ZKernel := []
  pieces : List ZPiece := []
  labels : List (String × Nat) := []
  segs : List (String × Nat) := []
  scopes : List (String × Nat) := []
  errs : List (Nat × ZErr) := []
  deriving DecidableEq, Repr

/-- An error of the line at hand. -/
def ZState.err (z : ZState) (e : ZErr) : ZState := { z with errs := z.errs ++ [(z.line, e)] }
/-- Emits something of a size. -/
def ZState.emit (z : ZState) (what : List Byte ⊕ ZIns) (n : Nat) : ZState :=
  { z with pieces := z.pieces ++ [{ line := z.line, addr := z.addr, kernel := z.kern, what := what }], addr := z.addr + n }
/-- Changes the open kernel, by a directive that may refuse its operands. -/
def ZState.setKernel (z : ZState) (f : Option (ZKernel → ZKernel)) : ZState :=
  match z.kern, f with
  | some k, some f => { z with kernels := z.kernels.mapIdx fun i x => if i == k then f x else x }
  | _, _ => z.err .directive

/-- The names in force. -/
def ZState.names (z : ZState) : ZNames :=
  { segs := z.segs, scopes := z.scopes, roles := (z.kern.bind fun k => z.kernels[k]?.map fun x => x.roles).getD [] }

/-- Numbers within ranges. -/
def numsIn (z : ZState) (args : List (List Char)) : Option (List Nat) :=
  args.mapM fun a => match (opdText a).bind fun o => o.int? z.names with
    | some x => if 0 ≤ x then some x.toNat else none
    | none => none

/-- A word NOP (R372). -/
def nopBytes : List Byte := wordBytes 0x8A000003

/-- Values of .word, .half and .byte. -/
def ZState.values (z : ZState) (n : Nat) (args : List (List Char)) : ZState :=
  if args.isEmpty || (z.kern.isNone && !z.data) || (n != 4 && !z.data) then z.err .directive
  else match args.mapM fun a => (opdText a).bind fun o => o.int? z.names with
    | none => z.err .directive
    | some xs =>
      if xs.all fun x => -(2 ^ (8 * n - 1)) ≤ x && x < 2 ^ (8 * n) then
        z.emit (.inl (xs.flatMap fun x => natBytes n (x % 2 ^ (8 * n)).toNat)) (n * xs.length)
      else z.err .fits

/-- One item of .roles. -/
def roleText (l : List Char) : Option (String × Nat) :=
  match (splitText '=' l).map trimText with
  | [n, x] => (intText x).bind fun v => if identText n && fitsIn 5 v then some (String.ofList n, v.toNat) else none
  | _ => none

/-- A directive of Table 14.8. -/
def ZState.directive (z : ZState) (name : String) (args : List (List Char)) : ZState :=
  let nums := numsIn z args
  let one (lo hi step : Nat) (f : Nat → ZKernel → ZKernel) : ZState :=
    z.setKernel (match nums with | some [n] => if lo ≤ n && n ≤ hi && n % step == 0 then some (f n) else none | _ => none)
  let idle : Bool := z.kern.isNone && !z.data
  if name == ".kernel" then
    match args with
    | [n] =>
      if idle && identText n then
        let a := ceilDiv z.addr 4 * 4
        { z with addr := a, kern := some z.kernels.length, kernels := z.kernels ++ [{ name := String.ofList n, start := a }] }
      else z.err .directive
    | _ => z.err .directive
  else if name == ".end" then (if args.isEmpty && !idle then { z with kern := none, data := false } else z.err .directive)
  else if name == ".data" then (if args.isEmpty && idle then { z with data := true } else z.err .directive)
  else if name == ".wave" then
    z.setKernel (match nums with
      | some (w :: r) =>
        let k := r.headD 1
        let t := (r.drop 1).headD 512
        if [4, 8, 16, 32, 64].contains w && r.length ≤ 2 && 1 ≤ k && k ≤ 16 && t ≤ 65535 then
          some fun x => { x with wave := x.wave ++ [(w, k, t)] } else none
      | _ => none)
  else if name == ".vregs" then one 8 128 8 fun n x => { x with vregs := some (n / 8) }
  else if name == ".lanepriv" then one 0 1024 4 fun n x => { x with lanepriv := n }
  else if name == ".teamscratch" then one 0 1536 1 fun n x => { x with teamscr := n }
  else if name == ".mtiles" then one 0 32 1 fun n x => { x with mtiles := n }
  else if name == ".idempotent" then z.setKernel (if args.isEmpty then some fun x => { x with idemp := true } else none)
  else if name == ".cluster" then
    z.setKernel (match nums with
      | some (r :: c :: k) =>
        if 1 ≤ r && r ≤ 4 && 1 ≤ c && c ≤ 10 && r * c ≤ 12 && k.length ≤ 1 && k.headD 0 ≤ 1536 then
          some fun x => { x with cluster := some (r, c, k.headD 0) } else none
      | _ => none)
  else if name == ".roles" then
    z.setKernel (if args.isEmpty then none else (args.mapM roleText).map fun l x => { x with roles := x.roles ++ l })
  else if name == ".segment" then
    match args with
    | [n, v] =>
      match intText v with
      | some x => if identText n && 0 < x && x < 2 ^ 64 then { z with segs := z.segs ++ [(String.ofList n, x.toNat)] } else z.err .directive
      | none => z.err .directive
    | _ => z.err .directive
  else if name == ".scope" then
    match args with
    | [n, v] =>
      match commonQual [] (String.ofList (if v.head? == some '.' then v.drop 1 else v)), intText v with
      | some (.scope e), _ => if identText n && 5 ≤ e then { z with scopes := z.scopes ++ [(String.ofList n, e)] } else z.err .directive
      | _, some x => if identText n && 5 ≤ x && x ≤ 31 then { z with scopes := z.scopes ++ [(String.ofList n, x.toNat)] } else z.err .directive
      | _, _ => z.err .directive
    | _ => z.err .directive
  else if name == ".align" then
    match nums with
    | some [n] =>
      if n == 0 || n > 4096 || 2 ^ Nat.log2 n != n || idle || (!z.data && n < 4) then z.err .directive
      else
        let k := ceilDiv z.addr n * n - z.addr
        z.emit (.inl (if z.data then List.replicate k 0 else (List.replicate (k / 4) nopBytes).flatten)) k
    | _ => z.err .directive
  else if name == ".word" then z.values 4 args
  else if name == ".half" then z.values 2 args
  else if name == ".byte" then z.values 1 args
  else z.err .directive

/-! ## A whole source -/

/-- Bytes of an instruction. -/
def ZIns.size : ZIns → Nat
  | .ins i => match encode i with | some (_, some _) => 8 | _ => 4
  | .br .. => 4

/-- Takes one line. -/
def ZState.takeLine (z : ZState) (l : List Char) : ZState :=
  let z := { z with line := z.line + 1 }
  let (lab, body) := lineText l
  let z := match lab with
    | none => z
    | some n =>
      if (zNamed z.labels n).isSome then z.err .label
      else if z.kern.isNone && !z.data then z.err .place
      else { z with labels := z.labels ++ [(n, z.addr)] }
  match body with
  | .error e => z.err e
  | .ok .nothing => z
  | .ok (.directive n args) => z.directive n args
  | .ok (.ins g n qs os) =>
    if z.kern.isNone then z.err .place
    else match assembleLine z.names g n qs os with
      | .error e => z.err e
      | .ok i => z.emit (.inr i) i.size

/-- A branch with its target: the offset in words, none beyond R352's reach. -/
def brTo (major : Nat) (f : BForm) (addr target : Nat) : Option Instr :=
  let k : Int := (target : Int) - (addr : Int)
  match branchOf major with
  | none => none
  | some mk => if k % 4 == 0 && -1048576 ≤ k && k ≤ 1048572 then some (mk { f with off := BitVec.ofInt 19 (k / 4) }) else none

/-- What a piece emits once every label is known. -/
def ZPiece.instr (labels : List (String × Nat)) (p : ZPiece) : Option Instr :=
  match p.what with
  | .inl _ => none
  | .inr (.ins i) => some i
  | .inr (.br m f t) => (zNamed labels t).bind fun a => brTo m f p.addr a

/-- The bytes of an instruction. -/
def insBytes (i : Instr) : List Byte :=
  match encode i with
  | none => []
  | some (w, e) => wordBytes w ++ (e.map wordBytes).getD []

/-- VREGS where no .vregs is given: the highest register used, rounded up (Table 14.8). -/
def leastVregs (is : List Instr) : Nat :=
  ((List.range 15).find? fun k => is.all fun i => (i.illegal { vregs := 8 * (k + 1), lanes := 64 }).isNone).map (· + 1) |>.getD 16

/-- A kernel's descriptor template, with the address of its first instruction (R373). -/
def ZKernel.desc (k : ZKernel) (entry : Nat) (is : List Instr) : Desc :=
  let (w, n, t) := k.wave.headD (4, 1, 512)
  let (r, c, sh) := k.cluster.getD (1, 1, 0)
  { entry := BitVec.ofNat 64 entry, arg := 0, affname := 0, waves := n, width := Nat.log2 (w / 4), vregs := k.vregs.getD (leastVregs is),
    teamscr := k.teamscr, crows := r, ccols := c, cshare := sh, mtiles := k.mtiles, fuseTo := t }

/-- The 512 bits of a team descriptor (Table 5.1). -/
def Desc.image (d : Desc) : BitVec 512 :=
  (0 : BitVec 256) ++ BitVec.ofNat 16 d.fuseTo ++ BitVec.ofNat 6 d.mtiles ++ BitVec.ofNat 11 d.cshare ++ BitVec.ofNat 4 d.ccols ++
    BitVec.ofNat 3 d.crows ++ BitVec.ofNat 11 d.teamscr ++ BitVec.ofNat 5 d.vregs ++ BitVec.ofNat 3 d.width ++ BitVec.ofNat 5 d.waves ++
    d.affname ++ d.arg ++ d.entry

/-! ## Warnings (R374) -/

/-- What the checker warns of. -/
inductive ZWarn where
  /-- a read of a register with an outstanding variable-latency write (R148) -/
  | read
  /-- a write of such a register -/
  | write
  /-- an RCV nested in another whose point is not higher than the enclosing one's (R139) -/
  | nesting
  deriving DecidableEq, Repr

/-- Registers by set (true for uniform) and number. -/
abbrev RegSet := List (Bool × Nat)

/-- The registers an instruction names as its destination. -/
def destRegs (i : Instr) : RegSet :=
  let v (n k : Nat) : RegSet := (List.range k).map fun j => (false, n + j)
  let g (n k : Nat) : RegSet := (List.range k).map fun j => (true, n + j)
  let stores : Bool := match i with
    | .st _ | .sts _ | .stf _ | .sfill _ | .imgst _ | .gst _ | .gstI _ | .bind _ | .unbind _ | .mts _ | .emit _ => true
    | _ => false
  if stores then []
  else match i.uses with
    | .lane f u => v f.vd.toNat (lopdWords u.vd (u.fmts.bits (i.extL f)))
    | .imm f vd _ _ => v f.vd.toNat (lopdWords vd 32)
    | .flt f vd _ _ => v f.vd.toNat (lopdWords vd 32)
    | .uni f u => g f.gd.toNat (uopdWords u.gd (if u.fmts.isEmpty then 32 else fmtBits (i.extU f).fmt.toNat))
    | .uimm f gd _ _ => g f.gd.toNat (uopdWords gd 32)
    | .other => []

/-- The destination is a variable-latency result (Table 6.8): a wait writes it before it goes on, unless .nw is given (R432, R463). -/
def returnsLater : Instr → Bool
  | .ld _ | .lds _ | .ldf _ | .tld _ | .tex _ | .srd _ | .atom _ | .atcas _ | .tdrain _ | .gld _ | .gldI _ => true
  | .mfs f => [0x028, 0x029, 0x030, 0x031, 0x032].contains f.srn
  | .cpywt f => (Instr.extU (.cpywt f) f).mod.getLsbD 2
  | .taskwt f => (Instr.extU (.taskwt f) f).mod.getLsbD 2
  | .raywt f => (Instr.extU (.raywt f) f).mod.getLsbD 2
  | _ => false

/-- The registers an instruction reads. -/
def sourceRegs (i : Instr) : RegSet :=
  let r := instrReads i
  (r.vec.flatMap runWords).map (fun n => (false, n)) ++ (r.uni.flatMap runWords).map fun n => (true, n)

/-- A line of a kernel for the checker. -/
structure ZLine where
  line : Nat
  addr : Nat
  ins : Instr
  deriving DecidableEq, Repr

/-- Where control may go from a line: addresses. -/
def ZLine.next (z : ZLine) : List Nat :=
  let after := z.addr + (insBytes z.ins).length
  let dest (f : BForm) : Nat := ((z.addr : Int) + 4 * f.off.toInt).toNat
  match z.ins with
  | .bra f => if f.pred == 0 then (if f.sense then [after] else [dest f]) else [dest f, after]
  | .brc f | .bru f | .call f => if f.pred == 0 then (if f.sense then [after] else [dest f]) else [dest f, after]
  | .exit f => if (Instr.extU (.exit f) f).guard == 0 then [] else [after]
  | .ret _ | .jmpi _ => []
  | _ => [after]

/-- The switch marker of an instruction. -/
def marksSwitch (i : Instr) : Bool := match encode i with | some (w, _) => wordS w | none => false

/-- The outstanding registers after a line, from those before it. -/
def ZLine.flow (z : ZLine) (s : RegSet) : RegSet :=
  if marksSwitch z.ins then [] else (if returnsLater z.ins then s ++ destRegs z.ins else s).eraseDups

/-- One round over a kernel: what is outstanding before each line, from what was found so far. -/
def outRound (ls : List ZLine) (t : Tbl RegSet) : Tbl RegSet :=
  ls.foldl (fun t z => let o := z.flow (t.getD z.addr []); z.next.foldl (fun t a => t.set a ((t.getD a []) ++ o).eraseDups) t) t

/-- Rounds until nothing changes, at most one for each line and one more. -/
def outAll (ls : List ZLine) : Nat → Tbl RegSet → Tbl RegSet
  | 0, t => t
  | n + 1, t => let u := outRound ls t; if u == t then t else outAll ls n u

/-- Warnings about variable-latency results. -/
def warnRuns (ls : List ZLine) : List (Nat × ZWarn) :=
  let t := outAll ls (ls.length + 1) []
  ls.flatMap fun z =>
    let o := t.getD z.addr []
    (if (sourceRegs z.ins).any o.contains then [(z.line, ZWarn.read)] else []) ++
      if (destRegs z.ins).any o.contains then [(z.line, ZWarn.write)] else []

/-- Addresses that a path from `start` reaches without going on from a barred address. -/
def reachFrom (ls : List ZLine) (bar : Nat → Bool) : Nat → List Nat → List Nat
  | 0, seen => seen
  | n + 1, seen =>
    let more := ls.flatMap fun z => if seen.contains z.addr && !bar z.addr then z.next else []
    let s := (seen ++ more).eraseDups
    if s.length == seen.length then seen else reachFrom ls bar n s

/-- An RCV's point. -/
def rcvPoint : Instr → Option Nat
  | .rcv f => some (f.ga.toNat % 16)
  | _ => none

/-- The RCV at which the paths of a branch meet: the nearest one that every path from it to the kernel's end passes. -/
def meetOf (ls : List ZLine) (z : ZLine) : Option ZLine :=
  let n := ls.length + 1
  let ends (a : Nat) : Bool := ls.any fun y => y.addr == a && y.next.isEmpty
  let passes (k : ZLine) : Bool := !((reachFrom ls (· == k.addr) n z.next).any fun a => a != k.addr && ends a)
  let cands := ls.filter fun k => (rcvPoint k.ins).isSome && (reachFrom ls (fun _ => false) n z.next).contains k.addr && passes k
  cands.find? fun k => !(cands.any fun j => j.addr != k.addr && (reachFrom ls (· == k.addr) n z.next).contains j.addr)

/-- Warnings about the points of nested RCVs. -/
def warnNesting (ls : List ZLine) : List (Nat × ZWarn) :=
  (ls.flatMap fun z => match z.ins with
    | .brc f =>
      if f.pred == 0 then []
      else match meetOf ls z with
        | none => []
        | some k =>
          let inside := reachFrom ls (· == k.addr) (ls.length + 1) z.next
          (ls.filter fun j => j.addr != k.addr && inside.contains j.addr && (match rcvPoint j.ins, rcvPoint k.ins with
            | some a, some b => decide (a ≤ b)
            | _, _ => false)).map fun j => (j.line, ZWarn.nesting)
    | _ => []).eraseDups

/-! ## The assembler -/

/-- What a source comes to. -/
structure Assembled where
  /-- address and bytes of each line that emits something -/
  code : List (Nat × List Byte) := []
  /-- name, descriptor template, LANEPRIV and IDEMP of each kernel -/
  kernels : List (String × Desc × Nat × Bool) := []
  /-- errors with their line; `wave` and `seed` with the kernel's number, from 0 -/
  errs : List (Nat × ZErr) := []
  warns : List (Nat × ZWarn) := []
  deriving DecidableEq, Repr

/-- The lines of a source. -/
def sourceLines (s : String) : List (List Char) := splitText '\n' s.toList

/-- Assembles a source placed at an address; `seeds` names the kernels marked for seed use (R371 to R374). -/
def assemble (seeds : List String) (base : Nat) (src : String) : Assembled :=
  let z := (sourceLines src).foldl ZState.takeLine { addr := base }
  let bad (k : Nat) : Bool := match z.kernels[k]? with | some x => x.wave.length != 1 | none => true
  let kept := z.pieces.filter fun p => match p.kernel with | some k => !bad k | none => true
  let insOf (p : ZPiece) : Option ZLine := (p.instr z.labels).map fun i => { line := p.line, addr := p.addr, ins := i }
  let ofKernel (k : Nat) : List ZLine := (kept.filter fun p => p.kernel == some k).filterMap insOf
  let ks := z.kernels.zipIdx
  { code := kept.filterMap fun p => match p.what with
      | .inl bs => if bs.isEmpty then none else some (p.addr, bs)
      | .inr _ => (p.instr z.labels).map fun i => (p.addr, insBytes i),
    kernels := (ks.filter fun (_, k) => !bad k).map fun (x, k) =>
      let ls := ofKernel k
      (x.name, x.desc ((ls.head?.map fun l => l.addr).getD x.start) (ls.map fun l => l.ins), x.lanepriv, x.idemp),
    errs := z.errs ++ (kept.filter fun p => match p.what with | .inr _ => (p.instr z.labels).isNone | .inl _ => false).map (fun p => (p.line, ZErr.target)) ++
      (ks.filter fun (_, k) => bad k).map (fun (_, k) => (k, ZErr.wave)) ++
      (ks.filter fun (x, _) => seeds.contains x.name && (x.cluster.isSome || (x.wave.headD (4, 1, 512)).2.1 != 1)).map (fun (_, k) => (k, ZErr.seed)) ++
      (if z.kern.isSome || z.data then [(z.line, ZErr.place)] else []),
    warns := ks.flatMap fun (_, k) => warnRuns (ofKernel k) ++ warnNesting (ofKernel k) }

end Machine
end Sys2Proof
end

