-- ==== Sys2Proof/Safety.lean ====
section
/-! DEFINITION. What counts as a safe state and a safe run, and the words that statements about instructions are made of. -/

namespace Sys2Proof
namespace Machine

/-! ## Safe states and runs -/

/-- Memory has its canonical form. -/
def State.memWf (s : State) : Prop := s.mem.wf = true

/-- A step goes on: it answers a next state. -/
def goesOn (s : State) : Prop := ∃ t, step s = .next t

/-- A run of k steps never stops. -/
def safeFor : Nat → State → Prop
  | 0, _ => True
  | k + 1, s => ∃ t, step s = .next t ∧ safeFor k t

/-! ## The issue of an instruction -/

/-- None of a wave's registers is poisoned (R36). -/
def Wave.sound (wv : Wave) : Bool := wv.badV.isEmpty && wv.badG.isEmpty && wv.badP.isEmpty && !wv.badQ && wv.badS.isEmpty

/-- `w` is the issuer at hand, and nothing outside the instruction keeps it from its effect: it has BUDGET left (R157), its team
reports no failed re-attach (R189), and neither its entry nor its registers are poisoned (R36). -/
def State.holds (s : State) (w : Who) : Bool :=
  s.cur == some (w.core, w.entry) && s.whoAt w.core w.entry == w && (s.frag w).budget != 0 && (s.team w.team).segmiss.isNone &&
    !(s.frag w).bad && (s.wave w).sound

/-- The issuer holds the turn, and its instruction has not issued before: it neither waits nor is replayed (R63, R145). -/
def State.ready (s : State) (w : Who) : Bool := s.holds w && !(s.frag w).again && (s.frag w).issued.isNone

/-- The instruction word of an instruction. -/
def wordOf (i : Instr) : Word := (insOf i fun _ => (0, 0, 0)).word

/-- Instruction `i`, issued by `w` in `s`, completes with effect `t`: BUDGET falls by 1 where it has just issued (R156), and the
fragment goes to the next instruction, in SWAIT where the word carries S and results are outstanding (R146). -/
def State.finished (s : State) (w : Who) (i : Instr) (t : State) : State :=
  ((t.count w (s.frag w).again).fabForget (.frag w.core w.entry)).leave w (wordS (wordOf i))
    ((s.frag w).pc + BitVec.ofNat 64 (wordLen (wordOf i)))

/-- As `finished`, with the fragment going to `pc`. -/
def State.finishedAt (s : State) (w : Who) (i : Instr) (t : State) (pc : Addr) : State :=
  ((t.count w (s.frag w).again).fabForget (.frag w.core w.entry)).leave w (wordS (wordOf i)) pc

/-- Instruction `i`, issued by `w` in `s` with sources `ops`, raises trap `x` after the partial effect `t`: it has issued, and the
trap is taken (R303). -/
def State.raised (s : State) (w : Who) (i : Instr) (ops : Nat → Word × Word × Word) (t : State) (x : Trap) : State :=
  ((t.count w (s.frag w).again).fabForget (.frag w.core w.entry)).takeTrap w (insOf i ops (instrAddr i (s.regs w))) x

/-- Instruction `i`, issued by `w` in `s`, waits in SYNCWAIT for `k` after the effect `t` (R145). -/
def State.awaiting (s : State) (w : Who) (i : Instr) (t : State) (k : Wait) : State :=
  (t.count w (s.frag w).again).updFrag w fun f =>
    { f with st := .syncwait, wait := k, words := some ((insOf i fun _ => (0, 0, 0)).word, (insOf i fun _ => (0, 0, 0)).ext),
             issued := some (s.issuedOf w (insOf i fun _ => (0, 0, 0))), answers := [],
             since := if f.st == .syncwait then f.since else 0 }

/-- The effect of an instruction of lanes whose results are `outs`: each lane's registers and predicate, and the flags of all
(R338). -/
def State.writeLanes (s : State) (w : Who) (outs : List (Nat × LaneOut)) : State :=
  s.updWave w fun wv => (wv.putLanes outs).orFlags (flagUnion outs)

/-- The results of the lanes that an instruction with extension `e` acts on (R375). -/
def State.outsOf (s : State) (w : Who) (e : EMod) (g : Nat → LaneOut) : List (Nat × LaneOut) :=
  (lanesOf (s.active w e.gsense e.guard)).map fun l => (l, g l)

/-- No legacy class traps in a context, and no floating-point exception in a wave (R308, R340). -/
def State.untrapped (s : State) (w : Who) : Bool := (s.ctx w.ctx).legmask == 0 && (s.wave w).enables == 0

/-- Nothing keeps a cross-lane instruction of minimum width code `code` from its effect: in trap mode, or where no sibling waits at its
address and every running lane of its groups is in the fragment, no forced fuse is needed (R142, R304). -/
def State.whole (s : State) (w : Who) (code : Nat) : Bool :=
  (s.frag w).trap.isSome ||
    (((s.wave w).order.filter fun e => e == w.entry || (((s.core w.core).frag e).st == .ffwait && ((s.core w.core).frag e).pc == (s.frag w).pc))
        == [w.entry] &&
      needLanes (s.frag w).mask (s.wave w).live (widthOf code (s.wave w).lanes) == 0)

/-! ## Words of the statements about memory -/

/-- The state and the bytes of a reading whose every lane completes; none where a lane waits, misses, faults or meets a condition. -/
def Gather.all (g : Gather) : Option (State × List (Acc × List Byte)) := if g.x.any == 0 && g.rest == 0 then some (g.s, g.bytes) else none

/-- The values read return later, as `words` lays them out for each lane (R147, R411). -/
def State.gives (s : State) (w : Who) (h : How) (se : Bool) (bs : List (Acc × List Byte)) (words : Nat → Nat → List (Nat × Word)) :
    State :=
  if bs.isEmpty then s
  else s.later w h.uni se (if h.uni then 0 else lanesGot bs) (keyed (bs.flatMap fun (a, b) => words a.lane (leNat b)))

/-- A load's reading, all of whose pages the die knows: after the fence of a seq_cst access, every access at its place. -/
def State.loadGather (s : State) (w : Who) (h : How) (as : List Acc) : Option (State × List (Acc × List Byte)) :=
  let rs := s.sortAccs w h as
  if (missPages rs).isEmpty then ((if h.order == 4 then s.fenceSc w h.cap else s).gatherPlaced w (fun _ => h) h.wr rs).all else none

/-- A load that has read `bs`, which leaves `t`: the acquire half of what was read, and the values that return later. -/
def State.loaded (s : State) (w : Who) (h : How) (se : Bool) (as : List Acc) (t : State) (bs : List (Acc × List Byte))
    (words : Nat → Nat → List (Nat × Word)) : State :=
  (t.acquireAll w h (readOf (s.sortAccs w h as) bs)).gives w h se bs words

/-- Nothing outside its lanes keeps an ordered access from its effect: its scope is not stale (R211), a seq_cst one has nothing to wait
for (R56, R218), and an ordered access is aligned (R202). -/
def State.orderly (s : State) (w : Who) (h : How) (lanes : Mask) (as : List Acc) : Bool :=
  (s.staleFlow w h lanes).isNone && !(h.order == 4 && s.mustWait w h.cap) && (h.order == 0 || misLanes as == 0)

/-- Every access resolves to bytes: none misses, faults, is refused, or goes to a peer (R60, R63, R166). -/
def resolve (rs : List Placed) : Bool := rs.all fun r => match r.2 with | .ok _ => true | _ => false

/-- The state from which a store's writes are posted, and the state after them (R218, R219). -/
def State.storeFrom (s : State) (w : Who) (h : How) (as : List Acc) : State :=
  (s.fillCore w (as.map fun a => a.addr) true).preStore w h (s.sortAccs w h as)
def State.stored (s : State) (w : Who) (h : How) (fe : Bool) (as : List Acc) (data : Nat → List Byte) : State :=
  let t := (s.storeFrom w h as).storeAccs w (fun _ => h) fe ((s.sortAccs w h as).map fun r => (r, data r.1.lane))
  if h.order == 4 && !as.isEmpty then t.fenceSc w h.cap else t

end Machine
end Sys2Proof
end

