-- ==== Sys2Proof/Certificates/Slice0/Obligations.lean ====
section
/-! DEFINITION. The statements for the provers. -/

namespace Sys2Proof
namespace Machine

/-! ## Words of the statements about lanes -/

/-- An integer source of lane l, by the signedness and width of FMT (R321). -/
def intSrc (wv : Wave) (e : EMod) (usrc : Bool) (l n : Nat) : Int :=
  extBy (signedFmt e.fmt.toNat) (fmtBits e.fmt.toNat) (wv.src usrc (fmtBits e.fmt.toNat) l n)

/-- A source of lane l as a bit string of FMT's width. -/
def bitSrc (wv : Wave) (e : EMod) (usrc : Bool) (l n : Nat) : Nat := wv.src usrc (fmtBits e.fmt.toNat) l n

/-- The exact integer function of each instruction of R379, of the width and of a, b and c. -/
def integerOps : List ((LForm → Instr) × (Nat → Int → Int → Int → Int)) :=
  [(.iadd, fun _ a b _ => a + b), (.isub, fun _ a b _ => a - b), (.imul, fun _ a b _ => a * b),
   (.imulh, fun n a b _ => a * b / (2 ^ n : Int)), (.imad, fun _ a b c => a * b + c), (.imin, fun _ a b _ => min a b),
   (.imax, fun _ a b _ => max a b), (.iabs, fun _ a _ _ => (a.natAbs : Int))]

/-- The function of each instruction of R381 but the counting ones, of the extension, the width and the bit strings a, b and c. -/
def bitOps : List ((LForm → Instr) × (EMod → Nat → Nat → Nat → Nat → Nat)) :=
  [(.and, fun _ _ a b _ => a &&& b), (.or, fun _ _ a b _ => a ||| b), (.xor, fun _ _ a b _ => a ^^^ b),
   (.lop3, fun e n a b c => lop3N e.byte.toNat n a b c), (.shl, fun _ n a b _ => a * 2 ^ (b % n) % 2 ^ n),
   (.shr, fun _ n a b _ => a / 2 ^ (b % n)), (.sar, fun _ n a b _ => wrapN n (toSigned n a / (2 ^ (b % n) : Int))),
   (.rot, fun e n a b _ => rotN n a (if e.mod.getLsbD 0 then (n - b % n) % n else b % n)), (.brev, fun _ n a _ _ => brevN n a)]

/-- The same of BFX, BFI and MOV (R382, R383). -/
def fieldOps : List ((LForm → Instr) × (EMod → Nat → Nat → Nat → Nat → Nat)) :=
  [(.bfx, fun e n a b _ => bfxN (signedFmt e.fmt.toNat) n a b), (.bfi, fun _ n a b c => bfiN n a b c), (.mov, fun _ _ _ b _ => b)]

/-- Number k of the bits of a. -/
def bitOf (a k : Nat) : Nat := a / 2 ^ k % 2

end Machine
end Sys2Proof

open Sys2Proof Sys2Proof.Machine

/-- R379, R380, R321: an integer instruction computes its exact function of a, b and c in FMT, then saturates with SAT set in
%fpflags, or keeps the low bits; IADDC adds a, b and the carry in a predicate and puts the carry out there, with p0 standing for no
carry. -/
def Obligations.IntegerArithmetic : Prop :=
  ∀ (f : LForm) (s : State) (w : Who), s.ready w = true →
    (∀ x ∈ integerOps,
      let i := x.1 f
      let e := i.extL f
      let n := fmtBits e.fmt.toNat
      let lo := (intRange n (signedFmt e.fmt.toNat)).1
      let hi := (intRange n (signedFmt e.fmt.toNat)).2
      exec i s = .next (s.finished w i (s.writeLanes w (s.outsOf w e fun l =>
        let r := x.2 n (intSrc (s.wave w) e false l f.va.toNat) (intSrc (s.wave w) e e.usrc l f.vb.toNat)
          (intSrc (s.wave w) e false l e.src3.toNat)
        if e.sat then
          { v := regWords n f.vd.toNat (wrapN n (max lo (min hi r))), fl := if r < lo ∨ hi < r then Fl.sat else 0 }
        else { v := regWords n f.vd.toNat (wrapN n r) })))) ∧
    (let e := (Instr.iaddc f).extL f
     let pc := e.src3.toNat % 8
     exec (.iaddc f) s = .next (s.finished w (.iaddc f) (s.writeLanes w (s.outsOf w e fun l =>
       let x := ((s.wave w).vreg l f.va.toNat).toNat + (s.wave w).src e.usrc 32 l f.vb.toNat +
         (if pc ≠ 0 ∧ (s.wave w).pred l pc = true then 1 else 0)
       { v := [(f.vd.toNat, BitVec.ofNat 32 x)], p := some (pc, decide (2 ^ 32 ≤ x)) }))))

/-- R381: the shift and bit instructions write their function of the sources' bit strings and nothing else, with the count from b
modulo the width; POPC and CLZ write a 32-bit count. LOP3 looks up each bit's a, b and c in its table; BREV mirrors; POPC counts ones; CLZ
counts the zeros above the highest one; ROT moves bit k to bit k plus the count, modulo the width. -/
def Obligations.BitInstructions : Prop :=
  (∀ (f : LForm) (s : State) (w : Who), s.ready w = true →
    (∀ x ∈ bitOps,
      let i := x.1 f
      let e := i.extL f
      let n := fmtBits e.fmt.toNat
      exec i s = .next (s.finished w i (s.writeLanes w (s.outsOf w e fun l =>
        { v := regWords n f.vd.toNat (x.2 e n (bitSrc (s.wave w) e false l f.va.toNat) (bitSrc (s.wave w) e e.usrc l f.vb.toNat)
            (bitSrc (s.wave w) e false l e.src3.toNat)) })))) ∧
    (let e := (Instr.popc f).extL f
     exec (.popc f) s = .next (s.finished w (.popc f) (s.writeLanes w (s.outsOf w e fun l =>
      { v := [(f.vd.toNat, BitVec.ofNat 32
          (popNat (fmtBits e.fmt.toNat) (bitSrc (s.wave w) e false l f.va.toNat) % 2 ^ 32))] })))) ∧
    (let e := (Instr.clz f).extL f
     exec (.clz f) s = .next (s.finished w (.clz f) (s.writeLanes w (s.outsOf w e fun l =>
      { v := [(f.vd.toNat, BitVec.ofNat 32
          (clzN (fmtBits e.fmt.toNat) (bitSrc (s.wave w) e false l f.va.toNat) % 2 ^ 32))] }))))) ∧
  ∀ n a b c t k : Nat,
    (lop3N t n a b c).testBit k = (decide (k < n) && t.testBit (bitOf a k + 2 * bitOf b k + 4 * bitOf c k)) ∧
    (brevN n a).testBit k = (decide (k < n) && a.testBit (n - 1 - k)) ∧
    popNat n a = ((List.range n).filter fun j => a.testBit j).length ∧
    (a < 2 ^ n → 0 < n → clzN n a ≤ n ∧ a < 2 ^ (n - clzN n a) ∧ (a ≠ 0 → 2 ^ (n - clzN n a - 1) ≤ a)) ∧
    (a < 2 ^ n → b < n → k < n → (rotN n a b).testBit ((k + b) % n) = a.testBit k)

/-- R382, R383: BFX moves a field down, extended by its top bit under an i format; BFI puts the low bits of a into a field of c; PRMT
picks each byte by a selector of c; ICMP writes a predicate; SEL takes a where its predicate is 1, else b; MOV copies b and MOVI its
immediate, and the MOV of %laneid and %quadid the lane's number or its quad's. -/
def Obligations.FieldsCompareAndMove : Prop :=
  (∀ (f : LForm) (g : LImm) (s : State) (w : Who), s.ready w = true →
    (∀ x ∈ fieldOps,
      let i := x.1 f
      let e := i.extL f
      let n := fmtBits e.fmt.toNat
      exec i s = .next (s.finished w i (s.writeLanes w (s.outsOf w e fun l =>
        { v := regWords n f.vd.toNat (x.2 e n (bitSrc (s.wave w) e false l f.va.toNat) (bitSrc (s.wave w) e e.usrc l f.vb.toNat)
            (bitSrc (s.wave w) e false l e.src3.toNat)) })))) ∧
    (let e := (Instr.movSpecial f).extL f
     exec (.movSpecial f) s = .next (s.finished w (.movSpecial f) (s.writeLanes w (s.outsOf w e fun l =>
      { v := [(f.vd.toNat, BitVec.ofNat 32 (if f.vb = 0 then l else l / 4))] })))) ∧
    exec (.movi g) s = .next (s.finished w (.movi g) (s.writeLanes w ((lanesOf (s.active w false 0)).map fun l =>
      (l, ({ v := [(g.vd.toNat, g.imm)] } : LaneOut))))) ∧
    (let e := (Instr.icmp f).extL f
     exec (.icmp f) s = .next (s.finished w (.icmp f) (s.writeLanes w (s.outsOf w e fun l =>
       let a := intSrc (s.wave w) e false l f.va.toNat
       let b := intSrc (s.wave w) e e.usrc l f.vb.toNat
       { p := some (f.vd.toNat % 8, match e.mod.toNat with
           | 0 => decide (a = b) | 1 => decide (a ≠ b) | 2 => decide (a < b) | 3 => decide (a ≤ b) | 4 => decide (b < a)
           | _ => decide (b ≤ a)) })))) ∧
    (let e := (Instr.sel f).extL f
     exec (.sel f) s = .next (s.finished w (.sel f) (s.writeLanes w (s.outsOf w e fun l =>
       { v := regWords (fmtBits e.fmt.toNat) f.vd.toNat
           (if (s.wave w).pred l (e.src3.toNat % 8) then bitSrc (s.wave w) e false l f.va.toNat
            else bitSrc (s.wave w) e e.usrc l f.vb.toNat) })))) ∧
    (let e := (Instr.prmt f).extL f
     exec (.prmt f) s = .next (s.finished w (.prmt f) (s.writeLanes w (s.outsOf w e fun l =>
       let c := ((s.wave w).vreg l e.src3.toNat).toNat
       let byte (k : Nat) : Nat := prmtByte ((s.wave w).vreg l f.va.toNat).toNat ((s.wave w).src e.usrc 32 l f.vb.toNat) (c / 256 ^ k % 256)
       { v := [(f.vd.toNat, BitVec.ofNat 32 (byte 0 + byte 1 * 256 + byte 2 * 256 ^ 2 + byte 3 * 256 ^ 3))] }))))) ∧
  ∀ n a b c k : Nat,
    (n = 32 ∨ n = 64 → a < 2 ^ n → k < n →
      let pos := b % 64 % n
      let e := min (pos + min (b / 256 % 128) n) n
      (∀ sg, (bfxN sg n a b).testBit k =
        if pos + k < e then a.testBit (pos + k) else sg && decide (pos < e) && a.testBit (e - 1)) ∧
      (bfiN n a b c).testBit k = if pos ≤ k ∧ k < e then a.testBit (k - pos) else c.testBit k) ∧
    (let pool : Nat := (if c % 8 < 4 then a / 256 ^ (c % 8) else b / 256 ^ (c % 8 - 4)) % 256
     let x : Nat := if c.testBit 3 then 0 else if c.testBit 4 then (if pool.testBit 7 then 255 else 0) else pool
     prmtByte a b c = if c.testBit 5 then 255 - x else x)

/-- R384: the (I) forms act at 32 bits on a and the immediate, without saturation, under guard p0; VB[3] of ICMP, IMIN and IMAX selects n32,
and VB[2:0] of ICMP its condition. -/
def Obligations.IntegerImmediates : Prop :=
  ∀ (f : LImm) (s : State) (w : Who), s.ready w = true →
    let puts (i : Instr) (r : Nat → Word) : State :=
      s.finished w i (s.writeLanes w ((lanesOf (s.active w false 0)).map fun l => (l, ({ v := [(f.vd.toNat, r l)] } : LaneOut))))
    let a (l : Nat) : Word := (s.wave w).vreg l f.va.toNat
    let least (sg : Bool) (l : Nat) (p : Int → Int → Bool) : Word :=
      if p (extBy sg 32 (a l).toNat) (extBy sg 32 f.imm.toNat) then a l else f.imm
    exec (.iaddI f) s = .next (puts (.iaddI f) fun l => a l + f.imm) ∧
    exec (.imulI f) s = .next (puts (.imulI f) fun l => a l * f.imm) ∧
    exec (.andI f) s = .next (puts (.andI f) fun l => a l &&& f.imm) ∧
    exec (.orI f) s = .next (puts (.orI f) fun l => a l ||| f.imm) ∧
    exec (.xorI f) s = .next (puts (.xorI f) fun l => a l ^^^ f.imm) ∧
    exec (.iminI f) s = .next (puts (.iminI f) fun l => least (!f.vb.getLsbD 3) l fun x y => decide (x ≤ y)) ∧
    exec (.imaxI f) s = .next (puts (.imaxI f) fun l => least (!f.vb.getLsbD 3) l fun x y => decide (y ≤ x)) ∧
    (let i := Instr.icmpI f
     exec i s = .next (s.finished w i (s.writeLanes w ((lanesOf (s.active w false 0)).map fun l =>
       let a := extBy (!f.vb.getLsbD 3) 32 ((s.wave w).vreg l f.va.toNat).toNat
       let b := extBy (!f.vb.getLsbD 3) 32 f.imm.toNat
       (l, ({ p := some (f.vd.toNat % 8, match f.vb.toNat % 8 with
           | 0 => decide (a = b) | 1 => decide (a ≠ b) | 2 => decide (a < b) | 3 => decide (a ≤ b) | 4 => decide (b < a)
           | _ => decide (b ≤ a)) } : LaneOut))))))

namespace Sys2Proof
namespace Machine

/-! ## Words of the statements about floating-point lanes -/

/-- A float source of lane l: what the code in its register stands for, subnormals flushed under FLUSH (R341). -/
def fltSrc (n : FEnv) (f : Fmt) (wv : Wave) (usrc : Bool) (l i : Nat) : Val := decodeCode f n.flush (wv.srcLow usrc f.bits l i)

/-- An exact result with its flags, rounded once into a format and written from register vd on. -/
def rounded (n : FEnv) (f : Fmt) (vd l : Nat) (x : ValF) : LaneOut :=
  let r := n.round f l x.1
  { v := regWords f.bits vd r.code, fl := x.2 ||| r.fl }

/-- The two halves of a register, apart: exact results k = 0 and 1, each rounded once (R386). -/
def twoHalves (n : FEnv) (f : Fmt) (vd l : Nat) (x : Nat → ValF) : LaneOut :=
  let r (k : Nat) : Rounded := n.round f l (x k).1
  { v := [(vd, BitVec.ofNat 32 ((r 0).code + 65536 * (r 1).code))], fl := ((x 0).2 ||| (r 0).fl) ||| ((x 1).2 ||| (r 1).fl) }

/-- The state from which a rounding instruction writes: under STO the pipe's generator has stepped once (R335). -/
def State.drawn (s : State) (w : Who) (n : FEnv) : State := if n.mode == 5 then s.takeStep w else s

/-- The exact function of each instruction of R386 that takes its operands in FMT. -/
def scalarOps : List ((LForm → Instr) × (FEnv → Val → Val → Val → ValF)) :=
  [(.fadd, fun n a b _ => addV a b n.zneg), (.fmul, fun _ a b _ => mulV a b), (.ffma, fun n a b c => fmaV a b c n.zneg)]

/-- The same of the fp64 instructions. -/
def doubleOps : List ((LForm → Instr) × (FEnv → Val → Val → Val → ValF)) :=
  [(.dadd, fun n a b _ => addV a b n.zneg), (.dmul, fun _ a b _ => mulV a b), (.dfma, fun n a b c => fmaV a b c n.zneg)]

/-- The same of the fp32 forms with a bf16 immediate; c is the old destination (R391). -/
def singleOps : List ((LFlt → Instr) × (FEnv → Val → Val → Val → ValF)) :=
  [(.faddF, fun n a b _ => addV a b n.zneg), (.fmulF, fun _ a b _ => mulV a b), (.ffmaF, fun n a b c => fmaV a b c n.zneg)]

/-- Number of each function of R388 and R389 and its rule on one element. -/
def unaryOps : List ((LForm → Instr) × (FEnv → Fmt → Nat → FOpd → FOpd → FOpd → BitVec 16 → Elem)) :=
  [(.frcp, fRecip 0), (.frsq, fRecip 1), (.fsqrt, fRecip 2), (.fexp2, fTrans 0), (.flog2, fTrans 1), (.fsin, fTrans 2), (.fcos, fTrans 3),
   (.ftanh, fTrans 4), (.frnd, fRnd)]

/-- The relation that a comparison condition asks of values that are no NaN. -/
def relOf (c : Nat) (a b : Val) : Bool := match c with
  | 0 => cmpV a b == 0 | 1 => cmpV a b != 0 | 2 => decide (cmpV a b < 0) | 3 => decide (cmpV a b ≤ 0) | 4 => decide (cmpV a b > 0)
  | 5 => decide (cmpV a b ≥ 0) | 6 => false | _ => true

end Machine
end Sys2Proof

/-- R386, R391: FADD, FMUL, FFMA, their fp64 forms, their fp32 forms with an immediate and both HFMA2 round the exact sum, product or
fused result of their operands once, in their format, and OR the flags into %fpflags. -/
def Obligations.FloatArithmetic : Prop :=
  ∀ (f : LForm) (g : LFlt) (s : State) (w : Who), s.ready w = true → s.untrapped w = true →
    (∀ x ∈ scalarOps,
      let i := x.1 f
      let e := i.extL f
      let n := s.fenv w e.rnd e.sat
      let fm := fmtOf false e.fmt.toNat
      exec i s = .next (s.finished w i ((s.drawn w n).writeLanes w (s.outsOf w e fun l => rounded n fm f.vd.toNat l
        (x.2 n (fltSrc n fm (s.wave w) false l f.va.toNat) (fltSrc n fm (s.wave w) e.usrc l f.vb.toNat)
          (fltSrc n fm (s.wave w) false l e.src3.toNat)))))) ∧
    (∀ x ∈ doubleOps,
      let i := x.1 f
      let e := i.extL f
      let n := s.fenv w e.rnd e.sat
      exec i s = .next (s.finished w i ((s.drawn w n).writeLanes w (s.outsOf w e fun l => rounded n fp64 f.vd.toNat l
        (x.2 n (decodeCode fp64 n.flush ((s.wave w).src false 64 l f.va.toNat))
          (decodeCode fp64 n.flush ((s.wave w).src e.usrc 64 l f.vb.toNat))
          (decodeCode fp64 n.flush ((s.wave w).src false 64 l e.src3.toNat))))))) ∧
    (∀ x ∈ singleOps,
      let i := x.1 g
      let n := s.fenv w g.f.rnd g.f.sat
      let reg (l k : Nat) : Val := decodeCode fp32 n.flush ((s.wave w).vreg l k).toNat
      exec i s = .next (s.finished w i ((s.drawn w n).writeLanes w ((lanesOf (s.active w g.f.gsense g.f.guard)).map fun l =>
        (l, rounded n fp32 g.vd.toNat l
          (x.2 n (reg l g.va.toNat) (fimm bf16 fp32 n.flush g.f.imm16.toNat).v (reg l g.vd.toNat))))))) ∧
    (let i := Instr.daddF g
     let n := s.fenv w g.f.rnd g.f.sat
     exec i s = .next (s.finished w i ((s.drawn w n).writeLanes w ((lanesOf (s.active w g.f.gsense g.f.guard)).map fun l =>
      (l, rounded n fp64 g.vd.toNat l (addV (decodeCode fp64 n.flush ((s.wave w).v64 l g.va.toNat).toNat)
        (fimm bf16 fp64 n.flush g.f.imm16.toNat).v n.zneg)))))) ∧
    (let i := Instr.hfma2 f
     let e := i.extL f
     let n := s.fenv w e.rnd e.sat
     let fm := fmtOf false e.fmt.toNat
     let half (usrc : Bool) (l r k : Nat) : Val := decodeCode fm n.flush ((s.wave w).src usrc 32 l r / 65536 ^ k % 65536)
     exec i s = .next (s.finished w i ((s.drawn w n).writeLanes w (s.outsOf w e fun l => twoHalves n fm f.vd.toNat l fun k =>
       fmaV (half false l f.va.toNat k) (half e.usrc l f.vb.toNat k) (half false l e.src3.toNat k) n.zneg)))) ∧
    (let i := Instr.hfma2F g
     let n := s.fenv w g.f.rnd g.f.sat
     let half (l r k : Nat) : Val := decodeCode fp16 n.flush ((s.wave w).src false 32 l r / 65536 ^ k % 65536)
     exec i s = .next (s.finished w i ((s.drawn w n).writeLanes w ((lanesOf (s.active w g.f.gsense g.f.guard)).map fun l =>
       (l, twoHalves n fp16 g.vd.toNat l fun k =>
         fmaV (half l g.va.toNat k) (fimm fp16 fp16 n.flush g.f.imm16.toNat).v (half l g.vd.toNat k) n.zneg)))))

/-- R387, R343: FMIN and FMAX write the operand that MINMAX chooses and FCMP the truth of its condition, which is false of an unordered
pair but under NE and UNORD; a signalling operand, or a quiet one under LT, LE, GT and GE, sets NV. No exception is trapped. -/
def Obligations.FloatCompare : Prop :=
  ∀ (f : LForm) (g : LFlt) (s : State) (w : Who), s.ready w = true → s.untrapped w = true →
    (∀ x ∈ ([(Instr.fmin, false), (Instr.fmax, true)] : List ((LForm → Instr) × Bool)),
      let i := x.1 f
      let e := i.extL f
      let n := s.fenv w e.rnd e.sat
      let fm := fmtOf false e.fmt.toNat
      exec i s = .next (s.finished w i (s.writeLanes w (s.outsOf w e fun l =>
        let y := minmaxV n.minmax x.2 (fltSrc n fm (s.wave w) false l f.va.toNat) (fltSrc n fm (s.wave w) e.usrc l f.vb.toNat)
        { v := regWords fm.bits f.vd.toNat (roundVal fm 0 false false n.nancan 0 y.1).code, fl := y.2 })))) ∧
    (let i := Instr.fcmp f
     let e := i.extL f
     let n := s.fenv w e.rnd e.sat
     let fm := fmtOf false e.fmt.toNat
     exec i s = .next (s.finished w i (s.writeLanes w (s.outsOf w e fun l =>
       let y := condF e.mod.toNat (fltSrc n fm (s.wave w) false l f.va.toNat) (fltSrc n fm (s.wave w) e.usrc l f.vb.toNat)
       { p := some (f.vd.toNat % 8, y.1), fl := y.2 })))) ∧
    (let i := Instr.fcmpF g
     let n := s.fenv w g.f.rnd g.f.sat
     exec i s = .next (s.finished w i (s.writeLanes w ((lanesOf (s.active w g.f.gsense g.f.guard)).map fun l =>
       let y := condF (g.vb.toNat % 8) (decodeCode fp32 n.flush ((s.wave w).vreg l g.va.toNat).toNat)
         (fimm bf16 fp32 n.flush g.f.imm16.toNat).v
       (l, ({ p := some (g.vd.toNat % 8, y.1), fl := y.2 } : LaneOut)))))) ∧
    ∀ (c : Nat) (a b : Val), c < 8 →
      let un := a.isNan || b.isNan
      (condF c a b).1 = (if un then c == 1 || c == 6 else relOf c a b) ∧
      (condF c a b).2 = (if a.snan || b.snan || (un && 2 ≤ c && c ≤ 5) then Fl.nv else 0) ∧
      ∀ isMax : Bool,
        (un = false → minmaxV 0 isMax a b = minmaxV 1 isMax a b ∧ (minmaxV 0 isMax a b).2 = 0 ∧
          ((minmaxV 0 isMax a b).1 = a ∨ (minmaxV 0 isMax a b).1 = b) ∧
          (isMax = false → cmpV (minmaxV 0 isMax a b).1 a ≤ 0 ∧ cmpV (minmaxV 0 isMax a b).1 b ≤ 0) ∧
          (isMax = true → cmpV (minmaxV 0 isMax a b).1 a ≥ 0 ∧ cmpV (minmaxV 0 isMax a b).1 b ≥ 0)) ∧
        (un = true → (minmaxV 0 isMax a b).1.isNan = true) ∧
        (a.snan = false → b.snan = false → a.isNan = true → b.isNan = false → minmaxV 1 isMax a b = (b, 0)) ∧
        (a.snan = false → b.snan = false → a.isNan = false → b.isNan = true → minmaxV 1 isMax a b = (a, 0)) ∧
        (un = true → minmaxV 2 isMax a b = (quiet b, 0))

/-- R344, R388 to R390: the functions of one operand, and FRND, write their element rule's code and flags in FMT; the rule gives the
results that the tables of R388 and R389 state for zeros, negative numbers and infinities. -/
def Obligations.FloatFunctions : Prop :=
  (∀ x ∈ unaryOps, ∀ (f : LForm) (s : State) (w : Who), s.ready w = true → s.untrapped w = true →
    let i := x.1 f
    let e := i.extL f
    let n := s.fenv w e.rnd e.sat
    let fm := fmtOf false e.fmt.toNat
    exec i s = .next (s.finished w i ((s.drawn w n).writeLanes w (s.outsOf w e fun l =>
      let o (usrc : Bool) (k : Nat) : FOpd := fopd fm n.flush ((s.wave w).srcLow usrc fm.bits l k)
      let y := x.2 n fm l (o false f.va.toNat) (o e.usrc f.vb.toNat) (o false e.src3.toNat) 0
      { v := regWords fm.bits f.vd.toNat y.1, fl := y.2.1 })))) ∧
  ∀ (n : FEnv) (fm : Fmt) (l : Nat) (a b c : FOpd) (g : BitVec 16),
    let gives (y : Elem) (v : Val) (fl : Fl) : Prop := y.1 = (n.round fm l v).code ∧ y.2.1 = fl ||| (n.round fm l v).fl
    let recip (op : Nat) : Elem := fRecip op n fm l a b c g
    let trans (op : Nat) : Elem := fTrans op n fm l a b c g
    let one (neg : Bool) : Val := .num { neg := neg, m := 1, e := 0 }
    (∀ x, a.v = .num x → x.isZero = true →
      (∀ op ∈ [0, 1], gives (recip op) (.inf x.neg) Fl.dz) ∧ gives (recip 2) a.v 0 ∧ (∀ op ∈ [0, 3], gives (trans op) (one false) 0) ∧
      gives (trans 1) (.inf true) Fl.dz ∧ ∀ op ∈ [2, 4], gives (trans op) a.v 0) ∧
    (∀ x, a.v = .num x → x.isZero = false → x.neg = true →
      (∀ op ∈ [1, 2], gives (recip op) newNan Fl.nv) ∧ gives (trans 1) newNan Fl.nv) ∧
    ∀ neg, a.v = .inf neg →
      gives (recip 0) (zeroV neg) 0 ∧
      (neg = true → (∀ op ∈ [1, 2], gives (recip op) newNan Fl.nv) ∧ gives (trans 0) (zeroV false) 0 ∧ gives (trans 1) newNan Fl.nv) ∧
      (neg = false → gives (recip 1) (zeroV false) 0 ∧ gives (recip 2) (.inf false) 0 ∧ ∀ op ∈ [0, 1], gives (trans op) (.inf false) 0) ∧
      (∀ op ∈ [2, 3], gives (trans op) newNan Fl.nv) ∧ gives (trans 4) (one neg) 0

namespace Sys2Proof
namespace Machine

/-! ## Words of the statements about narrow and cross-lane instructions -/

/-- An exact integer written into n bits from register vd on: saturated with SAT set where SAT is asked, else its low bits (R379). -/
def intoInt (sg : Bool) (n : Nat) (sat : Bool) (vd : Nat) (r : Int) : LaneOut :=
  let lo := (intRange n sg).1
  let hi := (intRange n sg).2
  if sat then { v := regWords n vd (wrapN n (max lo (min hi r))), fl := if r < lo ∨ hi < r then Fl.sat else 0 }
  else { v := regWords n vd (wrapN n r) }

/-- Four elements of a register, as their format reads them. -/
def fourOf (read : Nat → Val) (w x : Nat) : List Val := (List.range 4).map fun k => read (elemAt w x k)

end Machine
end Sys2Proof

/-- R396, R397: VDOT4 and MXDOT round the sum of the addend and four exact products once, VDOT8 saturates or wraps the exact sum of the
addend and eight integer products. -/
def Obligations.DotProducts : Prop :=
  ∀ (f : LForm) (s : State) (w : Who), s.ready w = true → s.untrapped w = true →
    (let i := Instr.vdot4 f
     let e := i.extL f
     let n := s.fenv w e.rnd e.sat
     let read : Nat → Val := decodeCode (fmtOf true e.fmt.toNat) false
     exec i s = .next (s.finished w i ((s.drawn w n).writeLanes w (s.outsOf w e fun l =>
       let c := decodeCode fp32 n.flush ((s.wave w).vreg l e.src3.toNat).toNat
       let ps := products (fourOf read 8 ((s.wave w).src false 32 l f.va.toNat)) (fourOf read 8 ((s.wave w).src e.usrc 32 l f.vb.toNat))
       let x := sumV (c :: ps.1)
       rounded n fp32 f.vd.toNat l (x.1, x.2 ||| ps.2 ||| snanFl c))))) ∧
    (let i := Instr.vdot8 f
     let e := i.extL f
     let w8 := if e.fmt = 0 ∨ e.fmt = 4 then 8 else 4
     let sa := signedFmt e.fmt.toNat
     let sb := sa != e.mod.getLsbD 0
     exec i s = .next (s.finished w i (s.writeLanes w (s.outsOf w e fun l =>
       intoInt true 32 e.sat f.vd.toNat (((List.range 8).map fun j =>
         extBy sa w8 (elemAt w8 ((s.wave w).src false (8 * w8) l f.va.toNat) j) *
           extBy sb w8 (elemAt w8 ((s.wave w).src e.usrc (8 * w8) l f.vb.toNat) j)).sum +
         toSigned 32 ((s.wave w).vreg l e.src3.toNat).toNat))))) ∧
    (let i := Instr.mxdot f
     let e := i.extL f
     let n := s.fenv w e.rnd e.sat
     let fm := fmtOf false e.fmt.toNat
     s.whole w (e.byte.toNat % 8) = true →
     exec i s = .next (s.finished w i ((s.drawn w n).writeLanes w (s.outsOf w e fun l =>
       let sc := (s.wave w).vreg (l / 8 * 8) e.src3.toNat
       let el (r k : Nat) : List Val := fourOf (mxElem fm (wordByte sc k)) (mxWidth fm) ((s.wave w).vreg l r).toNat
       let ps := products (el f.va.toNat (e.byte.toNat / 16 % 4)) (el f.vb.toNat (e.byte.toNat / 64))
       let x := sumV ps.1
       let y := addV (decodeCode fp32 n.flush ((s.wave w).vreg l f.vd.toNat).toNat) x.1 n.zneg
       rounded n fp32 f.vd.toNat l (y.1, y.2 ||| x.2 ||| ps.2)))))

/-- R393, R394: CVT converts its source between the formats that it names, integers exactly with saturation or wrapping and all others
by one rounding; CVTSR does the same under STO with the word in vb, and takes no step of the generator. -/
def Obligations.Conversions : Prop :=
  ∀ (f : LForm) (s : State) (w : Who), s.ready w = true → s.untrapped w = true →
    let out (e : EMod) (n : FEnv) (r : Nat → Nat) : Nat → LaneOut := fun l =>
      let sf := fmtOf (e.src3.getLsbD 5) (e.src3.toNat % 32)
      let df := fmtOf (e.src3.getLsbD 6) e.fmt.toNat
      let x := (s.wave w).src false sf.bits l f.va.toNat % 2 ^ sf.bits
      if sf.isInt && df.isInt then intoInt df.isSigned df.bits e.sat f.vd.toNat (extBy sf.isSigned sf.bits x)
      else
        let y := roundVal df n.mode n.sat n.flush n.nancan (r l) (decodeCode sf n.flush x)
        { v := regWords df.bits f.vd.toNat y.code, fl := y.fl }
    (let i := Instr.cvt f
     let e := i.extL f
     let n := s.fenv w e.rnd e.sat
     exec i s = .next (s.finished w i ((s.drawn w n).writeLanes w (s.outsOf w e (out e n (laneRand n.x)))))) ∧
    (let i := Instr.cvtsr f
     let e := i.extL f
     exec i s = .next (s.finished w i (s.writeLanes w (s.outsOf w e
       (out e { s.fenv w e.rnd e.sat with mode := 5 } fun l => (s.wave w).src e.usrc 32 l f.vb.toNat)))))

/-- R395, R398, R328: PACK puts the low elements of a and b at a place of vd and keeps the rest, UNPK extends one element of a, and QNT
writes element codes and scale bytes; no finite value of a block lies above its scale's largest power, where the scale is not at its
limit.
It rests on the model's reading in log entry 34. -/
def Obligations.PackingAndScales : Prop :=
  (∀ (f : LForm) (s : State) (w : Who), s.ready w = true → s.untrapped w = true →
    (let i := Instr.pack f
     let e := i.extL f
     let wd := packWidth e.mod
     let lo := 2 * e.byte.toNat * wd
     exec i s = .next (s.finished w i (s.writeLanes w (s.outsOf w e fun l =>
       let d := ((s.wave w).vreg l f.vd.toNat).toNat
       let x := (s.wave w).src false 32 l f.va.toNat % 2 ^ wd + (s.wave w).src e.usrc 32 l f.vb.toNat % 2 ^ wd * 2 ^ wd
       { v := [(f.vd.toNat, BitVec.ofNat 32 (d % 2 ^ lo + x * 2 ^ lo + d / 2 ^ (lo + 2 * wd) * 2 ^ (lo + 2 * wd)))] })))) ∧
    (let i := Instr.unpk f
     let e := i.extL f
     let wd := packWidth e.mod
     exec i s = .next (s.finished w i (s.writeLanes w (s.outsOf w e fun l =>
       let x := elemAt wd ((s.wave w).src false 32 l f.va.toNat) e.byte.toNat
       { v := [(f.vd.toNat, BitVec.ofNat 32 (if e.mod.getLsbD 2 then wrapN 32 (toSigned wd x) else x))] })))) ∧
    (let i := Instr.qnt f
     let e := i.extL f
     let n := s.fenv w e.rnd false
     s.whole w (e.byte.toNat % 8) = true →
     exec i s = .next (s.finished w i ((s.drawn w n).writeLanes w (quantise f e n (s.wave w) (s.active w e.gsense e.guard)))))) ∧
  ∀ (c : Nat) (vs : List Val) (x : RVal), Val.num x ∈ vs → x.isZero = false → vs.all (fun v => !v.isNan && !v.isInf) = true →
    mxScale c vs ≤ 254 ∧ (mxScale c vs < 254 → ilog2 x ≤ (mxScale c vs : Int) - 127 + emaxOf c)

/-- R399, R401 to R404: after the forced fuse, each participant of a cross-lane instruction receives its rule's result over the
participants of its group, and the flags are ORed into %fpflags. -/
def Obligations.CrossLane : Prop :=
  ∀ (f : LForm) (s : State) (w : Who), s.ready w = true → s.untrapped w = true →
    let whole (i : Instr) : Prop := s.whole w ((i.extL f).byte.toNat % 8) = true
    let gets (i : Instr) (g : EMod → FEnv → Mask → Nat → Nat → LaneOut) : Prop :=
      let e := i.extL f
      let n := s.fenv w e.rnd e.sat
      exec i s = .next (s.finished w i ((s.drawn w n).writeLanes w
        (s.outsOf w e (g e n (s.active w e.gsense e.guard) (widthOf (e.byte.toNat % 8) (s.wave w).lanes)))))
    let v (l k : Nat) : Word := (s.wave w).vreg l k
    (whole (.shfl f) → gets (.shfl f) fun e _ _ n l =>
      let base := l / n * n
      let o := if e.mod.getLsbD 2 then e.byte.toNat / 8 else (s.wave w).src e.usrc 32 l f.vb.toNat
      { v := [(f.vd.toNat, match e.mod.toNat % 4 with
          | 0 => v (base + o % n) f.va.toNat
          | 1 => if l < base + o then v l e.src3.toNat else v (l - o) f.va.toNat
          | 2 => if base + n ≤ l + o then v l e.src3.toNat else v (l + o) f.va.toNat
          | _ => v (base + ((l - base) ^^^ o) % n) f.va.toNat)] }) ∧
    (whole (.vote f) → gets (.vote f) fun e _ act n l =>
      let ps := (groupOf act n l).map fun m => (s.wave w).pred m (f.va.toNat % 8)
      { p := some (f.vd.toNat % 8, match e.mod.toNat with
          | 0 => ps.all id | 1 => ps.any id | _ => ps.all id || !(ps.any id)) }) ∧
    (whole (.ballot f) → gets (.ballot f) fun _ _ act n l =>
      { v := regWords 64 f.vd.toNat
          (((groupOf act n l).map fun m => if (s.wave w).pred m (f.va.toNat % 8) then 2 ^ m else 0).sum) }) ∧
    (whole (.redux f) → gets (.redux f) fun e n act g l => reduce f e n (s.wave w) (groupOf act g l) l) ∧
    (whole (.scan f) → gets (.scan f) fun e n act g l =>
      reduce f e n (s.wave w) ((groupOf act g l).filter fun m => m < l || (m == l && !e.byte.getLsbD 3)) l) ∧
    (whole (.qswz f) → gets (.qswz f) fun e _ _ _ l =>
      { v := [(f.vd.toNat, v (l / 4 * 4 + match e.mod.toNat % 4 with
          | 0 => l % 4 ^^^ 1 | 1 => l % 4 ^^^ 2 | 2 => l % 4 ^^^ 3 | _ => e.byte.toNat / 8 % 4) f.va.toNat)] }) ∧
    (whole (.deriv f) → gets (.deriv f) fun e n _ _ l =>
      let at_ (j : Nat) : Val := decodeCode fp32 n.flush (v (l / 4 * 4 + j) f.va.toNat).toNat
      let minus (a b : Val) : ValF := addV a (match b with | .num x => .num { x with neg := !x.neg } | .inf s => .inf !s | v => v) n.zneg
      rounded n fp32 f.vd.toNat l (match e.mod.toNat % 4 with
        | 0 => minus (at_ 1) (at_ 0) | 1 => minus (at_ 2) (at_ 0)
        | 2 => minus (at_ (2 * (l / 2 % 2) + 1)) (at_ (2 * (l / 2 % 2))) | _ => minus (at_ (2 + l % 2)) (at_ (l % 2))))

/-- R403: what the reductions give. The integer ones are the wrapped or saturated sum, the minimum, the maximum and the bitwise functions
of the participants' values; fp32 .add is their exact sum, rounded once; an empty exclusive prefix gives the identity. -/
def Obligations.ReductionRules : Prop :=
  ∀ (f : LForm) (e : EMod) (n : FEnv) (wv : Wave) (l : Nat) (ms : List Nat),
    let r := reduce f e n wv ms l
    let vd := f.vd.toNat
    let reg (m : Nat) : Word := wv.vreg m f.va.toNat
    let sg := signedFmt e.fmt.toNat
    (e.fmt ≠ 11 →
      let val (m : Nat) : Int := extBy sg 32 (reg m).toNat
      (e.mod = 0 → e.sat = false → r = { v := [(vd, BitVec.ofInt 32 (ms.map val).sum)] }) ∧
      (e.mod = 0 → e.sat = true → r = intoInt sg 32 true vd (ms.map val).sum) ∧
      (e.mod = 1 → ms ≠ [] → ∃ m ∈ ms, r.v = [(vd, reg m)] ∧ ∀ k ∈ ms, val m ≤ val k) ∧
      (e.mod = 2 → ms ≠ [] → ∃ m ∈ ms, r.v = [(vd, reg m)] ∧ ∀ k ∈ ms, val k ≤ val m) ∧
      (e.mod = 3 → ∃ x : Word, r.v = [(vd, x)] ∧ ∀ b < 32, x.getLsbD b = ms.all fun m => (reg m).getLsbD b) ∧
      (e.mod = 4 → ∃ x : Word, r.v = [(vd, x)] ∧ ∀ b < 32, x.getLsbD b = ms.any fun m => (reg m).getLsbD b) ∧
      (e.mod = 5 → ∃ x : Word, r.v = [(vd, x)] ∧
        ∀ b < 32, x.getLsbD b = decide ((ms.filter fun m => (reg m).getLsbD b).length % 2 = 1)) ∧
      (ms = [] → e.mod = 1 → r.v = [(vd, if sg then 0x7FFFFFFF else 0xFFFFFFFF)]) ∧
      (ms = [] → e.mod = 2 → r.v = [(vd, if sg then 0x80000000 else 0)])) ∧
    (e.fmt = 11 →
      let val (m : Nat) : Val := decodeCode fp32 n.flush (reg m).toNat
      (e.mod = 0 → ms ≠ [] → r.v = [(vd, BitVec.ofNat 32 (n.round fp32 l (sumV (ms.map val)).1).code)]) ∧
      (e.mod = 0 → ms = [] → r.v = [(vd, 0)]) ∧
      (e.mod = 1 → ms = [] → r.v = [(vd, 0x7F800000)]) ∧
      (e.mod = 2 → ms = [] → r.v = [(vd, 0xFF800000)]))

/-- R60, R172, R408: accesses that resolve to bytes, of a core without posted writes, are read at once; each lane
without poison gets its bytes, and no lane meets another condition.
R31, R172, R174: a byte read at its home or in the scratchpad is the byte of memory; a line that an L1 or an L2 holds under the reader's
key is served from it, a line that it does not hold is filled from the level below, once there is room for it, and a line that an L2 holds
under another key is written back and dropped before that.
It rests on the model's readings in log entries 11 and 31, and on its line size (log entry 5). -/
def Obligations.Reads : Prop :=
  (∀ (s : State) (w : Who) (h : How) (as : List Acc), (s.core w.core).posts = [] → resolve (s.sortAccs w h as) = true →
    ∃ t x bs, s.gather w h as = { s := t, x := x, bytes := bs } ∧ x.acc = 0 ∧ x.mis = 0 ∧ x.bnd = 0 ∧ x.flt = 0 ∧
      (∀ r ∈ bs, r.1 ∈ as ∧ r.2.length = r.1.n) ∧ (x.ecc = 0 → bs.map Prod.fst = as)) ∧
  ∀ (s : State) (tag loc c d : Nat),
    let n := loc / Config.lineBytes
    let i := loc % Config.lineBytes
    (s.readByte .home tag loc).1 = s.homeRead tag loc ∧ (s.readByte .scratch tag loc).1 = s.homeRead tag loc ∧
    (isDev loc = false → s.homeRead tag loc = (s.mem.get loc, (s.mem.poison.get? loc).isSome)) ∧
    (∀ ln : Line, (s.core c).l1.get? n = some ln → ln.key = tag → s.readByte (.l1 c) tag loc = ((ln.byte i, ln.poison.getLsbD i), s)) ∧
    (∀ ln : Line, (s.die d).l2.get? n = some ln → ln.key = tag → s.readByte (.l2 d true) tag loc = ((ln.byte i, ln.poison.getLsbD i), s)) ∧
    ((s.core c).l1.get? n = none → (s.readByte (.l1 c) tag loc).1 = ((s.l1Room c).readByte (.l2 (dieOf c) true) tag loc).1) ∧
    ((s.die d).l2.get? n = none →
      (s.readByte (.l2 d true) tag loc).1 = ((s.l2Room d).touch tag (n * Config.lineBytes)).homeRead tag loc) ∧
    (∀ ln : Line, (s.die d).l2.get? n = some ln → ln.key ≠ tag →
      (s.readByte (.l2 d true) tag loc).1 = (((s.dropL2 d n).l2Room d).touch tag (n * Config.lineBytes)).homeRead tag loc)

/-- R405 to R407, R410 to R412, R436, R437: LD, LDS, GLD and its immediate form read each active lane's bytes at the address that base,
index and displacement give, and their registers return later; an acquiring load acquires what it read.
It rests on the model's readings in log entries 8 and 11. -/
def Obligations.Loads : Prop :=
  ∀ (f : LForm) (g : UForm) (k : UImm) (s : State) (w : Who), s.ready w = true →
    let lane (i : Instr) (se : Bool) (byte : BitVec 8) (adr : EMod → Wave → Nat → Addr) : Prop :=
      let e := i.extL f
      let h := s.how w byte (e.mod.extractLsb' 0 2) {}
      let as := accsOf (s.active w e.gsense e.guard) (accSize e) (adr e (s.wave w))
      s.orderly w h (s.active w e.gsense e.guard) as = true →
      ∀ t bs, s.loadGather w h as = some (t, bs) →
        exec i s = .next (s.finished w i (s.loaded w h se as t bs fun l x => laneKeys l (loadWords e.fmt.toNat e.x2 f.vd.toNat x)))
    let uni (i : Instr) (h : How) (fmt gd : Nat) (a : Addr) : Prop :=
      let as : List Acc := [{ lane := 0, addr := a, n := fmtBits fmt / 8 }]
      s.orderly w h (s.frag w).mask as = true →
      ∀ t bs, s.loadGather w h as = some (t, bs) →
        exec i s = .next (s.finished w i (s.loaded w h false as t bs fun _ x => uniWords fmt gd x))
    lane (.ld f) (((Instr.ld f).extL f).mod.getLsbD 2) ((Instr.ld f).extL f).byte (fun e => laneAddr f e (accSize e)) ∧
    lane (.lds f) false 0 (fun e => windowAddr f e (accSize e)) ∧
    (let e := (Instr.gld g).extU g
     (s.wave w).uguard e = true →
      uni (.gld g) (s.how w e.byte (e.mod.extractLsb' 0 2) { uni := true }) e.fmt.toNat g.gd.toNat
        ((s.wave w).g64 g.ga.toNat + ((s.wave w).greg g.gb.toNat).setWidth 64)) ∧
    uni (.gldI k) { uni := true } 6 k.gd.toNat ((s.wave w).g64 k.ga.toNat + k.imm.setWidth 64)

/-- R406, R407, R412: what an access form's address and registers are. The address is base + index + DISP × s modulo 2^64; a 32-bit
index is extended as Table 16.1 says; a value narrower than 32 bits is sign-extended from an i format and zero-extended from an n
format; a window form's offset wraps at 32 bits below its window's base. -/
def Obligations.AddressesAndImages : Prop :=
  ∀ (f : LForm) (e : EMod) (wv : Wave) (l n x : Nat),
    let reg : Word := if e.usrc then wv.greg f.vb.toNat else wv.vreg l f.vb.toNat
    (laneAddr f e n wv l).toNat = ((wv.base64 l f.va.toNat).toNat +
      (match e.src3.toNat / 32 with
        | 0 => (0 : Addr) | 1 => reg.setWidth 64 | 2 => reg.signExtend 64
        | _ => if e.usrc then wv.g64 f.vb.toNat else wv.v64 l f.vb.toNat).toNat +
      (BitVec.ofInt 64 ((e.src3.extractLsb' 0 4).toInt * n)).toNat) % 2 ^ 64 ∧
    (f.va.toNat < 64 → wv.base64 l f.va.toNat = wv.v64 l f.va.toNat) ∧ (64 ≤ f.va.toNat → wv.base64 l f.va.toNat = wv.g64 (f.va.toNat - 64)) ∧
    (e.src3.toNat / 32 = 0 → winByte (windowAddr f e n wv l) = 0xFD) ∧ (e.src3.toNat / 32 = 1 → winByte (windowAddr f e n wv l) = 0xFC) ∧
    loadWords 4 false n x = [(n, BitVec.ofNat 32 (x % 256))] ∧ loadWords 0 false n x = [(n, BitVec.ofInt 32 (toSigned 8 x))] ∧
    loadWords 6 false n x = [(n, BitVec.ofNat 32 x)] ∧
    loadWords 7 false n x = [(n, BitVec.ofNat 32 x), (n + 1, BitVec.ofNat 32 (x / 2 ^ 32))]

/-- R407, R409, R412, R436, R437: ST, STS, GST and its immediate form post each active lane's bytes to the address that their operands
give, and change no byte of memory before the posts are performed; a releasing store clears the acquire record of its entry.
R172, R409, R416: a posted store that is performed at the home or in the scratchpad writes its bytes at its locations, and every other byte
of memory is as before, but for the bytes of a block of device memory that comes under the writer's key (R28, R30).
It rests on the model's readings in log entries 11 and 31. -/
def Obligations.Stores : Prop :=
  (∀ (f : LForm) (g : UForm) (k : UImm) (s : State) (w : Who), s.ready w = true →
    let lane (i : Instr) (byte : BitVec 8) (adr : EMod → Wave → Nat → Addr) : Prop :=
      let e := i.extL f
      let h := s.how w byte (e.mod.extractLsb' 0 2) { wr := true }
      let as := accsOf (s.active w e.gsense e.guard) (accSize e) (adr e (s.wave w))
      s.orderly w h (s.active w e.gsense e.guard) as = true → resolve (s.sortAccs w h as) = true →
        exec i s = .next (s.finished w i (s.stored w h false as fun l =>
          natBytes (accSize e) ((s.wave w).image false (fmtBits e.fmt.toNat) e.x2 l f.vd.toNat)))
    let uni (i : Instr) (h : How) (fmt gd : Nat) (a : Addr) : Prop :=
      let as : List Acc := [{ lane := 0, addr := a, n := fmtBits fmt / 8 }]
      s.orderly w h (s.frag w).mask as = true → resolve (s.sortAccs w h as) = true →
        exec i s = .next (s.finished w i (s.stored w h false as fun _ =>
          natBytes (fmtBits fmt / 8) ((s.wave w).usrcG (if fmtBits fmt = 64 then 64 else 32) gd)))
    lane (.st f) ((Instr.st f).extL f).byte (fun e => laneAddr f e (accSize e)) ∧
    lane (.sts f) 0 (fun e => windowAddr f e (accSize e)) ∧
    (let e := (Instr.gst g).extU g
     (s.wave w).uguard e = true →
      uni (.gst g) (s.how w e.byte (e.mod.extractLsb' 0 2) { uni := true, wr := true }) e.fmt.toNat g.gd.toNat
        ((s.wave w).g64 g.ga.toNat + ((s.wave w).greg g.gb.toNat).setWidth 64)) ∧
    uni (.gstI k) { uni := true, wr := true } 6 k.gd.toNat ((s.wave w).g64 k.ga.toNat + k.imm.setWidth 64) ∧
    ∀ (h : How) (as : List Acc) (data : Nat → List Byte), h.order = 0 → resolve (s.sortAccs w h as) = true →
      (s.stored w h false as data).mem = s.mem ∧
      ∀ p ∈ ((s.stored w h false as data).core w.core).posts, p ∈ (s.core w.core).posts ∨
        ∃ a ∈ as, ∃ locs, s.laneTr w (if h.uni then none else some a.lane) a.addr a.n h.wr = .ok locs ∧
          p.addr = a.addr ∧ p.slot = w.slot ∧ p.launch = w.launch ∧
          ∃ c, p.op = .store c ∧ ∀ x ∈ c, x ∈ locs.zip (data a.lane)) ∧
  ∀ (s : State) (p : Post) (c : Tbl Byte), p.op = .store c → p.place = .home ∨ p.place = .scratch → c.keys.Nodup →
    (∀ x ∈ c, isDev x.1 = false ∨ ((s.die (homeDie x.1)).fenced = false ∧ s.deadPort x.1 = none)) →
    let t := s.performOp p
    (∀ x ∈ c, t.mem.get x.1 = x.2) ∧
    (∀ l, l ∉ c.keys →
      (∀ k ∈ c.keys, isDev k = true → k / 16 = l / 16 → s.mem.tags.get? (l / 16) = none ∨ s.mem.tags.get? (l / 16) = some (s.tagOf p.ctx)) →
      t.mem.get l = s.mem.get l) ∧
    t.cores = s.cores ∧ t.teams = s.teams ∧ t.mem.empties = s.mem.empties ∧ (s.mem.wf = true → t.mem.wf = true)

/-- R417: the read-modify-write step of each integer operation on values of the access's width.
R416, R417: ATOM and ATCAS perform each active lane's read-modify-write in lane order and return the old value later; RED posts one
operation for each target with its lanes' operands in order.
It rests on the model's readings in log entries 11 and 32. -/
def Obligations.Atomics : Prop :=
  (∀ (sgn flush nancan : Bool) (bits m v : Nat), (bits = 32 ∨ bits = 64) → m < 2 ^ bits → v < 2 ^ bits →
    let step (op : Nat) : Nat := rmwStep op false sgn flush nancan bits m v
    let key (x : Nat) : Int := if sgn then toSigned bits x else x
    step 0 = (m + v) % 2 ^ bits ∧ (step 1 = m ∨ step 1 = v) ∧ key (step 1) = min (key m) (key v) ∧
    (step 2 = m ∨ step 2 = v) ∧ key (step 2) = max (key m) (key v) ∧ step 3 = m &&& v ∧ step 4 = m ||| v ∧ step 5 = m ^^^ v ∧ step 6 = v) ∧
  ∀ (f : LForm) (s : State) (w : Who), s.ready w = true →
    let acts (i : Instr) : Mask := s.active w (i.extL f).gsense (i.extL f).guard
    let how (i : Instr) : How := s.how w (i.extL f).byte ((i.extL f).mod.extractLsb' 0 2) { wr := true, atomic := true }
    let bits (i : Instr) : Nat := fmtBits (i.extL f).fmt.toNat
    let addrs (as : List Acc) : List Addr := (as.map fun a => a.addr).eraseDups
    let start (h : How) (as : List Acc) : State :=
      let t := s.fillCore w (as.map fun a => a.addr) true
      if h.order == 4 then t.fenceSc w h.cap else if ordRel h.order then (addrs as).foldl (fun t a => t.releaseFor w h.cap a) t else t
    let runs (i : Instr) (n : Nat) (op : Rmw) (words : Nat → Nat → List (Nat × Word)) : Prop :=
      let h := how i
      let as := atomAccs f (acts i) n (s.wave w)
      let rs := s.sortAccs w h as
      (s.staleFlow w h (acts i)).isNone = true → misLanes as = 0 → resolve rs = true →
      s.rmwMustWait w h rs = false → s.postsBlock w h rs = false →
      ∀ bs t, runLanes (fun s r => s.rmwAt w h r op) (start h as) rs = (bs, t) → (∀ r ∈ bs, ∃ b, r.2 = .data b false) →
        exec i s = .next (s.finished w i ((t.acquireAll w h rs).gives w {} false
          (bs.map fun r => (r.1, match r.2 with | .data b _ => b | _ => [])) fun l x => laneKeys l (words l x)))
    (let i := Instr.atom f
     let e := i.extL f
     let n := bits i
     runs i (n / 8) (fun l m => some (rmwStep (e.src3.toNat % 8) (e.fmt == 11) (e.fmt.toNat < 4) (s.ctx w.ctx).flush (s.ctx w.ctx).nancan n m
         ((s.wave w).srcLow e.usrc n l f.vb.toNat))) fun _ x => regWords n f.vd.toNat x) ∧
    (let i := Instr.atcas f
     let e := i.extL f
     let n := bits i
     let x2 := e.mod.getLsbD 2
     runs i (imageBytes n x2) (fun l m => if m == (s.wave w).image e.usrc n x2 l f.vb.toNat then some ((s.wave w).image false n x2 l e.src3.toNat)
         else none) fun _ x => loadWords e.fmt.toNat x2 f.vd.toNat x) ∧
    (let i := Instr.red f
     let e := i.extL f
     let n := bits i
     let h := how i
     let as := atomAccs f (acts i) (n / 8) (s.wave w)
     (s.staleFlow w h (acts i)).isNone = true → misLanes as = 0 → resolve (s.sortAccs w h as) = true →
     let t := s.fillCore w (as.map fun a => a.addr) true
     exec i s = .next (s.finished w i ((byAddr (s.sortAccs w h as)).foldl (fun t x =>
       match x.1.2 with
       | .ok locs => t.postOp w h (locs.headD 0) x.1.1.addr (.red (locs.headD 0) (n / 8) (e.src3.toNat % 8) (e.fmt == 11) (e.fmt.toNat < 4)
           (s.ctx w.ctx).flush (s.ctx w.ctx).nancan (x.2.map fun l => (s.wave w).srcLow e.usrc n l f.vb.toNat))
       | _ => t) (t.preStore w h (s.sortAccs w h as)))))
namespace Sys2Proof
namespace Machine

/-! ## Words of the statements about granules, images, streams and tiles -/

/-- Lanes served by an LDF receive their values later; an acquiring one acquires what it read. -/
def Served.given (z : Served) (w : Who) (h : How) (rs : List Placed) (words : Nat → Nat → List (Nat × Word)) : State :=
  let got := z.vals.foldl (fun m r => m ||| laneBit r.1.lane) (0 : Mask)
  let t := z.s.acquireAll w h (rs.filter fun r => got.getLsbD r.1.lane)
  if got == 0 then t else t.later w false false got (keyed (z.vals.flatMap fun r => laneKeys r.1.lane (words r.1.lane r.2)))

/-- The image that an instruction names at address a has been read: the state after the read, and the descriptor (R420). -/
def State.descriptorAt (s : State) (w : Who) (a : Addr) (tex : Bool) : Option (State × Image) :=
  if a.toNat % 32 != 0 then none
  else match (s.gather w { uni := true } [{ lane := 0, addr := a, n := 32 }]).all with
    | some (t, bs) => let d := imageOf (Machine.bytesAt bs 0 0); if d.ok tex then some (t, d) else none
    | none => none

/-- Four-word results for each lane of a mask return later. -/
def State.givesQuads (s : State) (w : Who) (se : Bool) (act : Mask) (vd : Nat) (xs : Nat → List Nat) : State :=
  if act == 0 then s
  else s.later w false se act (keyed ((lanesOf act).flatMap fun l => quadWords l vd (xs l)))

/-- Where SADV leaves each active lane's stream: its bound on a direct one, and where its index list ends on an indirect one (R428);
none where a lane is closed or an index read does not complete. -/
def advances (w : Who) (wv : Wave) (n : Nat) (step : Nat → Nat) : List Nat → State → Option (State × List (Nat × Word))
  | [], s => some (s, [])
  | l :: t, s =>
    let z := wv.strm n l
    if !z.isOpen then none
    else if !z.indirect then
      (advances w wv n step t s).map fun r => (r.1, (l, BitVec.ofNat 32 (min (z.pos.toNat + step l) z.bound.toNat)) :: r.2)
    else match stepIndirect w z l (step l) s z.pos with
      | .pos u p => (advances w wv n step t u).map fun r => (r.1, (l, p) :: r.2)
      | _ => none

end Machine
end Sys2Proof

/-- R175 to R178, R413, R414: LDF serves the lanes whose granules are full and waits with the others, STF posts bytes that fill their
granules, and SFILL empties each active lane's range and writes no byte.
It rests on the model's reading in log entry 32. -/
def Obligations.FullEmptyInstructions : Prop :=
  ∀ (f : LForm) (s : State) (w : Who), s.ready w = true →
    (let i := Instr.ldf f
     let e := i.extL f
     let act := s.active w e.gsense e.guard
     let h := s.how w e.byte 0 {}
     let as := accsOf act (accSize e) (laneAddr f e (accSize e) (s.wave w))
     let rs := windowsOnly (s.sortAccs w h as)
     s.orderly w h act as = true → misLanes as = 0 → resolve rs = true →
     let t := if h.order == 4 then s.fenceSc w h.cap else s
     let z := serveLanes w (e.mod.getLsbD 2) t.nextId rs t.fresh.2
     let u := z.given w h rs fun _ x => loadWords e.fmt.toNat e.x2 f.vd.toNat x
     z.ecc = 0 →
     let left := z.left.foldl (fun m r => m ||| laneBit r.1) (0 : Mask)
     exec i s = .next (if left = 0 then s.finished w i u
       else s.awaiting w i u { kind := .fullEmpty, n := t.nextId, lanes := left, cap := h.cap, gran := z.left })) ∧
    (let i := Instr.stf f
     let e := i.extL f
     let act := s.active w e.gsense e.guard
     let h := s.how w e.byte 0 { wr := true }
     let as := accsOf act (accSize e) (laneAddr f e (accSize e) (s.wave w))
     s.orderly w h act as = true → misLanes as = 0 → (as.all fun a => isWindow a.addr) = true → resolve (s.sortAccs w h as) = true →
     exec i s = .next (s.finished w i (s.stored w h true as fun l =>
       natBytes (accSize e) ((s.wave w).image false (fmtBits e.fmt.toNat) e.x2 l f.vd.toNat)))) ∧
    (let i := Instr.sfill f
     let e := i.extL f
     let act := s.active w e.gsense e.guard
     let adr (l : Nat) : Addr := laneAddr f e 16 (s.wave w) l
     let len (l : Nat) : Nat := ((s.wave w).vreg l f.vd.toNat).toNat
     let place (l : Nat) : Option Nat := s.winLoc w.team (some ((s.wave w).idx, l)) (adr l) (len l)
     (s.core w.core).posts = [] →
     (∀ l ∈ lanesOf act, (adr l).toNat % 16 = 0 ∧ len l % 16 = 0 ∧ isWindow (adr l) = true ∧ (len l ≠ 0 → (place l).isSome = true)) →
     ∃ t, exec i s = .next (s.finished w i t) ∧ t.mem.cells = s.mem.cells ∧ t.mem.poison = s.mem.poison ∧ t.cores = s.cores ∧
       ∀ g, t.isFull g = true ↔ s.isFull g = true ∧
         ∀ l ∈ lanesOf act, ∀ b, place l = some b → len l ≠ 0 → ¬ (b / 16 ≤ g ∧ g < b / 16 + len l / 16))

/-- R175 to R177: a full granule without an older waiter is read, and emptied where the access clears it; an empty one is left to wait
and nothing changes; a full-empty store that is performed fills the granules of its bytes. -/
def Obligations.FullEmptyGranules : Prop :=
  ∀ (s : State) (w : Who) (clear : Bool) (stamp : Nat) (a : Acc) (locs : List Nat), (s.core w.core).posts = [] → locs ≠ [] →
    (∀ l ∈ locs, isDev l = false ∧ s.deadPort l = none ∧ s.mem.poison.get? l = none) →
    let g := locs.headD 0 / 16
    let z := serveLanes w clear stamp [(a, .ok locs)] s
    (s.isFull g = true → s.olderWaits g stamp = false →
      z.vals = [(a, leNat (locs.map s.mem.get))] ∧ z.left = [] ∧ z.ecc = 0 ∧ z.s.mem.cells = s.mem.cells ∧
        ∀ k, z.s.isFull k = (s.isFull k && !(clear && k == g))) ∧
    (s.isFull g = false ∨ s.olderWaits g stamp = true → z.s = s ∧ z.vals = [] ∧ z.left = [(a.lane, g)]) ∧
    ∀ (p : Post) (c : Tbl Byte), p.op = .storeFe c → p.place = .scratch → (∀ x ∈ c, isDev x.1 = false) →
      (∀ x ∈ c, (s.performOp p).isFull (x.1 / 16) = true) ∧
      ∀ k, (∀ x ∈ c, x.1 / 16 ≠ k) → (s.performOp p).isFull k = s.isFull k

/-- R415, R418, R419: WAITC completes with the values read where every active lane's condition holds, and otherwise waits with the lanes
left; PREF completes whatever its addresses are, and writes no register, predicate or flag of any wave.
It rests on the model's reading in log entry 32. -/
def Obligations.MonitorsAndPrefetch : Prop :=
  ∀ (f : LForm) (s : State) (w : Who), s.ready w = true →
    (let i := Instr.waitc f
     let e := i.extL f
     let act := s.active w e.gsense e.guard
     let bits := fmtBits e.fmt.toNat
     let h := s.how w e.byte (e.mod.extractLsb' 0 2) { atomic := true }
     let as := atomAccs f act (bits / 8) (s.wave w)
     let rs := s.sortAccs w h as
     let t0 := s.fillCore w (as.map fun a => a.addr) false
     let holds (r : Acc × List Byte) : Bool :=
       waitCond (e.src3.toNat % 8) bits (leNat r.2) ((s.wave w).srcLow e.usrc bits r.1.lane f.vb.toNat)
     (s.staleFlow w h act).isNone = true → misLanes as = 0 → (as.any fun a => isWindow a.addr) = false → resolve rs = true →
     ∀ (t : State) (bs : List (Acc × List Byte)), t0.readAccs w (fun _ => h) [] rs = (bs.map fun r => (r.1, .data r.2 false), t) →
       let u := ((t.fabForget (.frag w.core w.entry)).updWave w fun x =>
         x.putLanes ((bs.filter holds).map fun r => (r.1.lane, { v := regWords bits f.vd.toNat (leNat r.2) })))
       (bs.all holds = true →
         exec i s = .next (s.finished w i ((u.acquireEach w h rs).dropMonitorsOf w.core w.entry))) ∧
       (bs.all holds = false → ∃ v k, exec i s = .next (s.awaiting w i v k) ∧ k.kind = .waitc ∧
         (∀ r ∈ bs, k.lanes.getLsbD r.1.lane = !(holds r)) ∧ (v.wave w).vregs = (u.wave w).vregs ∧
         ∀ l r, (v.wave w).vreg l r = (u.wave w).vreg l r)) ∧
    (∃ t, exec (.pref f) s = .next (s.finished w (.pref f) t) ∧ t.teams = s.teams ∧
      ∀ c k, (t.core c).wave k = (s.core c).wave k ∧ (t.core c).posts = (s.core c).posts)

/-- R420 to R423: with a descriptor read and in range, TEX returns each lane's weighted sample, TLD each lane's texel, or zeros with
BOUND outside the image, and IMGST posts the texels of the lanes inside. -/
def Obligations.Images : Prop :=
  ∀ (f : LForm) (s : State) (w : Who), s.ready w = true →
    let wv := s.wave w
    let c := s.ctx w.ctx
    let acts (i : Instr) : Mask := s.active w (i.extL f).gsense (i.extL f).guard
    let place (d : Image) (l : Nat) : Option (Nat × Nat) := d.at? (wv.vreg l f.va.toNat) (wv.vreg l (f.va.toNat + 1))
    let inside (i : Instr) (d : Image) : List Acc := (lanesOf (acts i)).filterMap fun l => (place d l).map fun x => d.texel l x.1 x.2
    let bounded (i : Instr) (d : Image) (u : State) : State :=
      if (lanesOf (acts i)).any fun l => (place d l).isNone then u.updWave w fun x => x.orFlags Fl.bound else u
    (let i := Instr.tex f
     let pts (d : Image) (l : Nat) : List (Option (Nat × Nat) × Nat) :=
       d.samples (texCoord c.flush (wv.vreg l f.va.toNat).toNat) (texCoord c.flush (wv.vreg l (f.va.toNat + 1)).toNat)
     ∀ t d, s.descriptorAt w (wv.g64 f.vb.toNat) true = some (t, d) →
     ∀ u bs, (t.gather w { pol := (i.extL f).mod.extractLsb' 0 2 } ((lanesOf (acts i)).flatMap fun l =>
         (pts d l).filterMap fun p => p.1.map fun x => d.texel l x.1 x.2)).all = some (u, bs) →
       exec i s = .next (s.finished w i (u.givesQuads w ((i.extL f).mod.getLsbD 2) (acts i) f.vd.toNat fun l =>
         (List.range 4).map fun ch => d.sample c.flush c.nancan (pairSamples (pts d l) ((bs.filter fun r => r.1.lane == l).map Prod.snd)) ch))) ∧
    (let i := Instr.tld f
     ∀ t d, s.descriptorAt w (wv.g64 f.vb.toNat) false = some (t, d) →
     ∀ u bs, (t.gather w { pol := (i.extL f).mod.extractLsb' 0 2 } (inside i d)).all = some (u, bs) →
       exec i s = .next (s.finished w i ((bounded i d u).givesQuads w ((i.extL f).mod.getLsbD 2) (acts i) f.vd.toNat fun l =>
         if (place d l).isSome then d.load (t.ctx w.ctx).flush (t.ctx w.ctx).nancan (bytesAt bs l 0) else [0, 0, 0, 0]))) ∧
    (let i := Instr.imgst f
     let h : How := { wr := true, pol := (i.extL f).mod.extractLsb' 0 2 }
     ∀ t d, s.descriptorAt w (wv.g64 f.vb.toNat) false = some (t, d) → (t.frag w).again = false → resolve (t.sortAccs w h (inside i d)) = true →
       exec i s = .next (s.finished w i (bounded i d (t.stored w h false (inside i d) fun l =>
         d.store c.flush c.nancan fun k => (wv.vreg l (f.vd.toNat + k)).toNat))))

/-- R424 to R429: SOPEN and ISOPEN open each active lane's stream at position 0, SCLOSE closes it, SADV moves it by its step and not past
its end; STEND writes which lanes are at their end; SRD and SWR read and write the elements named, set BOUND for a lane without one, and
advance under .adv; an 8-byte element with no register pair is ILLOP with cause 3. -/
def Obligations.Streams : Prop :=
  ∀ (f : LForm) (s : State) (w : Who), s.ready w = true →
    let wv := s.wave w
    let acts (i : Instr) : Mask := s.active w (i.extL f).gsense (i.extL f).guard
    let sets (i : Instr) (n : Nat) (mk : Nat → Strm) : State :=
      s.updWave w fun x => (lanesOf (acts i)).foldl (fun x l => x.setStrm n l (mk l)) x
    let opens (i : Instr) (mk : Nat → Strm) : Prop :=
      (∀ l ∈ lanesOf (acts i), (mk l).bound.toNat ≠ sentinel ∧ (mk l).a.toNat % (mk l).size = 0 ∧ ((mk l).indirect = true → (mk l).b.toNat % 4 = 0)) →
        exec i s = .next (s.finished w i (sets i f.vd.toNat mk))
    (let i := Instr.sopen f
     let e := i.extL f
     opens i fun l => { isOpen := true, fmt := e.fmt.toNat, pol := e.mod.extractLsb' 0 2, a := wv.base64 l f.va.toNat,
                        bound := BitVec.ofNat 32 (wv.src e.usrc 32 l f.vb.toNat) }) ∧
    (let i := Instr.isopen f
     let e := i.extL f
     opens i fun l => { isOpen := true, indirect := true, fmt := e.fmt.toNat, pol := e.mod.extractLsb' 0 2, a := wv.base64 l f.va.toNat,
                        b := BitVec.ofNat 64 (wv.src e.usrc 64 l f.vb.toNat), bound := wv.vreg l e.src3.toNat }) ∧
    exec (.sclose f) s = .next (s.finished w (.sclose f) (s.updWave w fun x => (lanesOf (acts (.sclose f))).foldl (fun x l =>
      x.setStrm f.vd.toNat l { x.strm f.vd.toNat l with isOpen := false }) x)) ∧
    (let i := Instr.sadv f
     let e := i.extL f
     ∀ t ps, advances w wv (f.vd.toNat % 16) (fun l => if e.mod.getLsbD 2 then wv.src e.usrc 32 l f.vb.toNat else 1) (lanesOf (acts i)) s = some (t, ps) →
       exec i s = .next (s.finished w i (t.updWave w fun x =>
         ps.foldl (fun x p => x.setStrm (f.vd.toNat % 16) p.1 { x.strm (f.vd.toNat % 16) p.1 with pos := p.2 }) x))) ∧
    (let i := Instr.stend f
     let z := s.findElems w (f.va.toNat % 16) (acts i)
     z.x.any = 0 → z.rest = 0 →
       exec i s = .next (s.finished w i (z.s.updWave w fun x =>
         x.setPreds (f.vd.toNat % 8) (elemLanes z.elems fun _ => true) (elemLanes z.elems fun k => k == .ends)))) ∧
    (let i := Instr.srd f
     let n := f.va.toNat % 16
     wv.pairBad n (acts i) false f.vd.toNat = false →
     let z := s.findElems w n (acts i)
     z.x.any = 0 → z.rest = 0 →
     ∀ t bs, (z.s.gatherStrm w n (elemAccs z.elems)).all = some (t, bs) →
       let u := t.gives w {} false bs fun l x => laneKeys l (loadWords (wv.strm n l).fmt false f.vd.toNat x)
       (finishStream u w n (i.extL f) z.elems {} 0).2.any = 0 →
       exec i s = .next (s.finished w i (finishStream u w n (i.extL f) z.elems {} 0).1)) ∧
    (let i := Instr.swr f
     let e := i.extL f
     let n := f.va.toNat % 16
     let data (l : Nat) : List Byte := natBytes (fmtBits (wv.strm n l).fmt / 8) (wv.src e.usrc (fmtBits (wv.strm n l).fmt) l f.vb.toNat)
     wv.pairBad n (acts i) e.usrc f.vb.toNat = false →
     let z := s.findElems w n (acts i)
     z.x.any = 0 → z.rest = 0 →
       let rs := z.s.sortAccs w { wr := true } (elemAccs z.elems)
       resolve rs = true →
       let u := (z.s.fillCore w (rs.map fun r => r.1.addr) true).storeAccs w (wv.strmHow n true) false (rs.map fun r => (r, data r.1.lane))
       (finishStream u w n e z.elems {} 0).2.any = 0 →
       exec i s = .next (s.finished w i (finishStream u w n e z.elems {} 0).1)) ∧
    (∀ i ∈ [Instr.srd f, .swr f],
      wv.pairBad (f.va.toNat % 16) (acts i) ((i.extL f).usrc && i == .swr f) (if i == .srd f then f.vd else f.vb).toNat = true →
        ∃ ops, exec i s = .next (s.raised w i ops s { code := 1, cause := 3, lanes := acts i })) ∧
    ∀ (z : Strm) (x : Nat),
      z.elem x = (if z.indirect then (if x = 0xFFFFFFFF then .ends else if z.bound.toNat ≤ x then .out x else .at_ x)
        else if z.pos = z.bound then .ends else .at_ z.pos.toNat) ∧
      z.elemAddr x = z.a + BitVec.ofNat 64 (x * (fmtBits z.fmt / 8))

/-- R430, R431: TFEED writes each active lane's bytes into its slot of the tile, and TDRAIN returns a slot's bytes later; a byte outside
the tile's rows or row bytes is neither written nor read, and reads as zero.
It rests on the model's reading in log entry 27. -/
def Obligations.TileMoves : Prop :=
  ∀ (f : LForm) (s : State) (w : Who), s.ready w = true →
    let wv := s.wave w
    let at_ (i : Instr) (n l k : Nat) : Option Nat :=
      let e := i.extL f
      let pos := wv.greg f.vb.toNat
      slotByte (s.shape w.team n) (pos.toNat % 1024) (pos.toNat / 65536) (widthOf (e.byte.toNat % 8) wv.lanes) (slotSize e) l k
    let acts (i : Instr) : Mask := s.active w (i.extL f).gsense (i.extL f).guard
    let clear (i : Instr) (n : Nat) : Prop :=
      s.whole w ((i.extL f).byte.toNat % 8) = true ∧ s.owns w n = true ∧ (wv.greg f.vb.toNat).toNat / 1024 % 64 = 0 ∧
        (wv.greg f.vb.toNat).toNat / 65536 % slotSize (i.extL f) = 0
    (let i := Instr.tfeed f
     let n := f.vd.toNat % 32
     clear i n → s.tileUsed w.team n = false →
     exec i s = .next (s.finished w i ((lanesOf (acts i)).foldl (fun t l => (List.range (slotSize (i.extL f))).foldl (fun t k =>
       match at_ i n l k with
       | some o => t.setTileByte w.team n o (BitVec.ofNat 8 (wordByte (wv.vreg l (f.va.toNat + k / 4)) (k % 4)))
       | none => t) t) s))) ∧
    (let i := Instr.tdrain f
     let n := f.va.toNat % 32
     let byte (l k : Nat) : Byte := match at_ i n l k with | some o => s.mem.get (tileLoc w.team n o) | none => 0
     clear i n → s.invOf w.team n = 0 → s.tileWritten w.team n = false → acts i ≠ 0 →
     (∀ l ∈ lanesOf (acts i), ∀ k < slotSize (i.extL f), ∀ o, at_ i n l k = some o → s.mem.poison.get? (tileLoc w.team n o) = none) →
     ∃ vals, exec i s = .next (s.finished w i (s.later w false false (acts i) vals)) ∧
       ∀ l ∈ lanesOf (acts i), ∀ r < slotSize (i.extL f) / 4,
         Tbl.get? vals ((f.vd.toNat + r) * 64 + l) = some (BitVec.ofNat 32 (leNat ((List.range 4).map fun k => byte l (4 * r + k)))))

namespace Sys2Proof
namespace Machine

/-! ## Words of the statements about uniform and control instructions -/

/-- The function of each uniform arithmetic instruction of R433 to R435, of the extension, the width and a and b as bit strings. -/
def uniformOps : List ((UForm → Instr) × (EMod → Nat → Nat → Nat → Nat)) :=
  [(.gadd, fun _ n a b => (a + b) % 2 ^ n), (.gsub, fun _ n a b => wrapN n ((a : Int) - b)), (.gmul, fun _ n a b => a * b % 2 ^ n),
   (.gand, fun _ n a b => (a &&& b) % 2 ^ n), (.gor, fun _ n a b => (a ||| b) % 2 ^ n), (.gxor, fun _ n a b => (a ^^^ b) % 2 ^ n),
   (.gshl, fun _ n a b => a * 2 ^ (b % n) % 2 ^ n),
   (.gshr, fun e n a b => if e.mod.getLsbD 0 then wrapN n (toSigned n a / (2 ^ (b % n) : Int)) else a / 2 ^ (b % n) % 2 ^ n),
   (.gmov, fun _ n _ b => b % 2 ^ n)]

/-- The same of the forms with an immediate, at 32 bits. -/
def uniformImmOps : List ((UImm → Instr) × (UImm → Word → Word → Word)) :=
  [(.gaddI, fun _ a b => a + b), (.gsubI, fun _ a b => a - b), (.gmulI, fun _ a b => a * b), (.gandI, fun _ a b => a &&& b),
   (.gorI, fun _ a b => a ||| b), (.gxorI, fun _ a b => a ^^^ b), (.gshlI, fun _ a b => a <<< (b.toNat % 32)),
   (.gshrI, fun f a b => if f.gb.getLsbD 0 then a.sshiftRight (b.toNat % 32) else a >>> (b.toNat % 32)), (.gmovi, fun _ _ b => b)]

/-- The condition codes of ICMP and GCMP. -/
def condOf (c : Nat) (a b : Int) : Bool := match c with
  | 0 => decide (a = b) | 1 => decide (a ≠ b) | 2 => decide (a < b) | 3 => decide (a ≤ b) | 4 => decide (b < a) | _ => decide (b ≤ a)

/-- The bookkeeping of a fragment that issues without leaving its instruction by the ordinary way: BUDGET and the counts of a wave. -/
def State.issuedBy (s : State) (w : Who) : State :=
  (s.count w false).updWave w fun wv => { wv with retired := wv.retired + 1 }

/-- The address that a UB-form word at pc names (R352). -/
def targetOf (f : BForm) (pc : Addr) : Addr := BitVec.ofInt 64 ((pc.toNat : Int) + 4 * f.off.toInt)

end Machine
end Sys2Proof

/-- R433 to R435: the uniform arithmetic instructions write their function of ga and gb at FMT's width to gd, and their immediate forms at
32 bits; every other register, predicate and flag of the wave stays, and a write to q0 is ignored.
R432: a uniform instruction with a false guard only issues: no register, predicate, flag or memory byte changes. -/
def Obligations.UniformArithmetic : Prop :=
  (∀ (f : UForm) (g : UImm) (s : State) (w : Who), s.ready w = true →
    (∀ x ∈ uniformOps,
      let i := x.1 f
      let e := i.extU f
      let n := fmtBits e.fmt.toNat
      let src (r : Nat) : Nat := if n = 64 then ((s.wave w).g64 r).toNat else ((s.wave w).greg r).toNat
      (s.wave w).uguard e = true → 0 < n →
      exec i s = .next (s.finished w i (s.updWave w fun wv =>
        (regWords n f.gd.toNat (x.2 e n (src f.ga.toNat) (src f.gb.toNat))).foldl (fun wv r => wv.setG r.1 r.2) wv))) ∧
    (∀ x ∈ uniformImmOps,
      let i := x.1 g
      exec i s = .next (s.finished w i (s.updWave w fun wv =>
        wv.setG g.gd.toNat (x.2 g ((s.wave w).greg g.ga.toNat) g.imm)))) ∧
    (let i := Instr.gcmp f
     let e := i.extU f
     let n := fmtBits e.fmt.toNat
     let src (r : Nat) : Int := extBy (signedFmt e.fmt.toNat) n ((s.wave w).usrcG n r)
     (s.wave w).uguard e = true →
     exec i s = .next (s.finished w i (s.updWave w fun wv =>
       wv.setQ (f.gd.toNat % 8) (condOf e.mod.toNat (src f.ga.toNat) (src f.gb.toNat))))) ∧
    (let i := Instr.gcmpI g
     let sg := !g.gb.getLsbD 3
     exec i s = .next (s.finished w i (s.updWave w fun wv => wv.setQ (g.gd.toNat % 8)
       (condOf (g.gb.toNat % 8) (extBy sg 32 ((s.wave w).greg g.ga.toNat).toNat) (extBy sg 32 g.imm.toNat))))) ∧
    (let i := Instr.gsel f
     let e := i.extU f
     let n := fmtBits e.fmt.toNat
     (s.wave w).uguard e = true →
     exec i s = .next (s.finished w i (s.updWave w fun wv => (regWords n f.gd.toNat
       ((s.wave w).usrcG n (if (s.wave w).qpred (e.src3.toNat % 8) then f.ga.toNat else f.gb.toNat))).foldl (fun wv r => wv.setG r.1 r.2) wv))) ∧
    (∀ (wv : Wave) (r k : Nat) (x : Word) (b : Bool), r < 64 → k < 64 →
      (wv.setG r x).greg k = (if k = r then x else wv.greg k) ∧ (wv.setG r x).v = wv.v ∧ (wv.setG r x).fpflags = wv.fpflags ∧
      (wv.setQ 0 b) = wv)) ∧
  ∀ (f : UForm) (s : State) (w : Who), s.ready w = true →
    ∀ c ∈ ([.gadd, .gsub, .gmul, .gand, .gor, .gxor, .gshl, .gshr, .gcmp, .gsel, .gmov, .gld, .gst, .ret, .jmpi, .exit, .nop, .rcv, .yld,
        .idr, .bar, .cbar, .fence, .bind, .unbind, .scopeset, .scopesync, .expect, .mfs, .mts, .role, .enq, .enqg, .segattLd, .segattNf,
        .segdet, .segpin, .cpygo, .cpywt, .taskpost, .taskwt, .mma, .mmas, .mlut, .mzero, .mld, .mst, .mcvt, .mwait, .rayq, .raywt, .emit,
        .payw, .payr, .atlreq] : List (UForm → Instr)),
      (s.wave w).uguard ((c f).extU f) = false → exec (c f) s = .next (s.finished w (c f) s)

/-- R438 to R441: BRA and CALL go to pc + 4 × offset when their uniform condition holds, BRU when any running lane's predicate does, and
otherwise to the next word; CALL and JMPI.l write the address after them to the link pair of the running lanes; JMPI goes to its pair's
address; RET, where every running lane's link is equal, goes there. -/
def Obligations.UniformBranches : Prop :=
  ∀ (f : BForm) (g : UForm) (s : State) (w : Who), s.ready w = true →
    let pc := (s.frag w).pc
    let mask := (s.frag w).mask
    let linked (m : Mask) (a : Addr) (t : State) : State := t.updWave w fun wv => (lanesOf m).foldl (fun wv l =>
      (wv.setV l (wv.vregs - 2) (a.extractLsb' 0 32)).setV l (wv.vregs - 1) (a.extractLsb' 32 32)) wv
    let taken := (s.wave w).qpred f.pred.toNat != f.sense
    exec (.bra f) s = .next (s.finishedAt w (.bra f) s (if taken then targetOf f pc else pc + 4)) ∧
    exec (.call f) s = .next (if taken then s.finishedAt w (.call f) (linked mask (pc + 4) s) (targetOf f pc)
      else s.finishedAt w (.call f) s (pc + 4)) ∧
    exec (.bru f) s = .next (s.finishedAt w (.bru f) s
      (if (lanesOf mask).any (fun l => (s.wave w).pred l f.pred.toNat != f.sense) then targetOf f pc else pc + 4)) ∧
    (let i := Instr.jmpi g
     let e := i.extU g
     let t := (s.wave w).g64 g.ga.toNat
     (s.wave w).uguard e = true → t.toNat % 4 = 0 →
     exec i s = .next (s.finishedAt w i (if e.mod.getLsbD 0 then linked mask (pc + (if g.ext.isSome then 8 else 4)) s else s) t)) ∧
    (let i := Instr.ret g
     ∀ t : Addr, (s.wave w).uguard (i.extU g) = true → mask ≠ 0 → t.toNat % 4 = 0 →
       (∀ l ∈ lanesOf mask, (s.wave w).v64 l ((s.wave w).vregs - 2) = t) → exec i s = .next (s.finishedAt w i s t))

/-- R131, R134, R135, R439: BRC whose running lanes disagree splits the fragment: the lanes taken keep the entry and go to the target, the
others form the wave's youngest fragment at the next word, or, where no entry is free, a serial frame; every lane is on one side.
It rests on the model's reading in log entry 36. -/
def Obligations.BranchSplits : Prop :=
  ∀ (f : BForm) (s : State) (w : Who), s.ready w = true → (s.frag w).trap = none →
    let fr := s.frag w
    let taken := maskOf fun l => fr.mask.getLsbD l && ((s.wave w).pred l f.pred.toNat != f.sense)
    (taken = fr.mask → exec (.brc f) s = .next (s.finishedAt w (.brc f) s (targetOf f fr.pc))) ∧
    (taken = 0 → fr.mask ≠ 0 → exec (.brc f) s = .next (s.finishedAt w (.brc f) s (fr.pc + 4))) ∧
    (taken ≠ 0 → taken ≠ fr.mask →
      (∀ n, (s.core w.core).freeEntry = some n →
        exec (.brc f) s = .next ((s.issuedBy w).updCore w.core fun c =>
          (c.split w.slot w.entry n taken (targetOf f fr.pc) (fr.pc + 4)).afterSplit [w.entry, n] f.sw)) ∧
      ((s.core w.core).freeEntry = none → (s.core w.core).framesUsed w.slot < 8 →
        exec (.brc f) s = .next ((s.issuedBy w).updCore w.core fun c =>
          (c.pushFrame w.entry taken (targetOf f fr.pc) (fr.pc + 4)).afterSplit [w.entry] f.sw)) ∧
      ((s.core w.core).freeEntry = none → 8 ≤ (s.core w.core).framesUsed w.slot →
        exec (.brc f) s = .next (s.updFrag w fun f => { f with st := .splitwait }))) ∧
    ∀ (c : Core) (slot e n : Nat) (t : Mask) (a b : Addr), e ≠ n →
      let d := c.split slot e n t a b
      (d.frag e).mask = t ∧ (d.frag e).pc = a ∧ (d.frag n).mask = (c.frag e).mask &&& ~~~ t ∧ (d.frag n).pc = b ∧
      (d.frag n).budget = (c.frag e).budget ∧ (d.frag n).board = (c.frag e).board ∧ (d.wave slot).order = (c.wave slot).order ++ [n] ∧
      (∀ k, k ≠ e → k ≠ n → d.frag k = c.frag k) ∧
      let p := c.pushFrame e t a b
      (p.frag e).mask = t ∧ (p.frag e).pc = a ∧
        (p.frag e).frames = { dpc := b, dmask := (c.frag e).mask &&& ~~~ t } :: (c.frag e).frames ∧ ∀ k, k ≠ e → p.frag k = c.frag k

/-- R135, R137, R443: RCV has no effect in trap mode and in a fragment alone without frames; where the fragment holds a frame whose lanes
have not run, it switches to them and does not issue; else it joins the wave's group at its address.
It rests on the model's reading in log entry 36. -/
def Obligations.Reconvergence : Prop :=
  ∀ (f : UForm) (s : State) (w : Who), s.ready w = true → (s.wave w).uguard ((Instr.rcv f).extU f) = true →
    let fr := s.frag w
    let i := Instr.rcv f
    let len := if f.ext.isSome then 8 else 4
    (fr.trap.isSome = true ∨ (fr.frames = [] ∧ (s.wave w).order = [w.entry]) → exec i s = .next (s.finished w i s)) ∧
    (∀ top rest, fr.trap = none → fr.frames = top :: rest → top.joinset = false →
      exec i s = .next (s.updFrag w fun f =>
        { f with mask := top.dmask, pc := top.dpc,
                 frames := { top with arrived := f.mask, join := fr.pc, joinset := true, dmask := 0 } :: rest })) ∧
    (∀ top rest, fr.trap = none → fr.frames = top :: rest → top.joinset = true → top.join = fr.pc → (s.wave w).order = [w.entry] →
      exec i s = .next (s.finished w i (s.updFrag w fun f => { f with mask := f.mask ||| top.arrived, frames := rest }))) ∧
    (fr.trap = none → fr.frames = [] → (s.wave w).order.all (· == w.entry) = false →
      ∃ time since, exec i s = .next (((s.issuedBy w).updFrag w fun g =>
        { g with st := .rcvwait, point := f.ga.toNat % 16, timer := time, since := since, due := false, words := none,
                 wait := { n := len, ok := f.sw } }).updCore w.core fun c => c.settle w.slot))

/-- R443: NOP only issues.
R160, R306, R445: EXIT ends its fragment's running lanes, or in trap mode returns as R306 says. A fragment that exits without frames gives
up its entry, and one with frames goes on with a frame's lanes; the lanes that ran have exited, and the wave's idempotent region is over.
R118, R156, R158, R429, R443: YLD sets BUDGET to (min(k, DLCEIL) + 1) × 64 and goes to the next instruction; outside trap mode the roles of
retired units are bound anew there, and where the team is to be saved and no stream of the wave is open, its fragment enters YSTOP.
R160, R444: IDR in a privileged wave outside service mode opens a region at the next instruction, with the registers of its mask saved;
elsewhere it raises PRIV.
It rests on the model's readings in log entries 16 and 36. -/
def Obligations.NopExitYield : Prop :=
  (∀ (c : Core) (slot e : Nat),
    let d := c.exitFrag slot e
    let f := c.frag e
    (d.wave slot).exited = (c.wave slot).exited ||| f.mask ∧ (d.wave slot).region = none ∧
    (f.frames = [] → d.frags.get? e = none ∧ (d.wave slot).order = (c.wave slot).order.filter (· != e)) ∧
    (∀ fr rest, f.frames = fr :: rest → d.frag e =
      if fr.joinset then { f with mask := fr.arrived, pc := fr.join, frames := rest } else { f with mask := fr.dmask, pc := fr.dpc, frames := rest })) ∧
  ∀ (f : UForm) (s : State) (w : Who), s.ready w = true →
    exec (.nop f) s = .next (s.finished w (.nop f) s) ∧
    (let i := Instr.exit f
     (s.wave w).uguard (i.extU f) = true →
     (∀ r, (s.frag w).trap = some r → exec i s = .next ((s.count w false).returnTrap w r)) ∧
     ((s.frag w).trap = none → exec i s = .next ((s.count w false).exitLanes w))) ∧
    (let i := Instr.yld f
     let e := i.extU f
     let next := (s.frag w).pc + (if f.ext.isSome then 8 else 4)
     let stop := s.asked w.team && (s.frag w).trap.isNone && !((s.wave w).streams.any fun x => x.2.isOpen)
     (s.wave w).uguard e = true →
     let t := ((s.count w false).updFrag w fun fr => { fr with budget := (min e.byte.toNat (s.launch w.launch).dlceil + 1) * 64 }).leave w
       (f.sw && !stop) next
     let u := if (s.frag w).trap = none then t.rebind w.team else t
     exec i s = .next (if stop then u.updFrag w fun fr => { fr with st := .ystop } else u)) ∧
    (let i := Instr.idr f
     let m := (s.wave w).g64 f.ga.toNat
     (s.wave w).uguard (i.extU f) = true → (s.wave w).priv = true → (s.core w.core).mode ≠ .service → s.whole w 5 = true →
     exec i s = .next (s.finished w i (s.updWave w fun x =>
       { x with region := some { entry := (s.frag w).pc + (if f.ext.isSome then 8 else 4), mask := m,
                                 saved := ((List.range 64).filter fun k => m.getLsbD k).foldl (fun t k => Tbl.set t k ((s.wave w).greg k)) [] } }))) ∧
    (let i := Instr.idr f
     (s.wave w).uguard (i.extU f) = true → (s.wave w).priv = false ∨ (s.core w.core).mode = .service →
     ∃ ops, exec i s = .next (s.raised w i ops s { code := 2, lanes := (s.frag w).mask }))

namespace Sys2Proof
namespace Machine

/-! ## Words of the statements about traps, synchronisation and engine commands -/

/-- A uniform instruction whose uniform guard is true issues for `w`, which holds the turn. -/
def State.runs (s : State) (w : Who) (i : Instr) (f : UForm) : Prop := s.holds w = true ∧ (s.wave w).uguard (i.extU f) = true

/-- The fragment is in SYNCWAIT, waiting for `k`. -/
def State.waitsFor (s : State) (w : Who) (k : WaitKind) : Prop := (s.frag w).st = .syncwait ∧ (s.frag w).wait.kind = k

/-- A post at a scope is not kept waiting: its scope is valid, and neither the fabric nor a posted release owes the level an
acknowledgement (R211, R228). -/
def State.clearToPost (s : State) (w : Who) (cap : Capture) : Prop := cap.set.valid = true ∧ s.mustWait w cap = false
/-- A post at a valid scope waits for acknowledgements (R228). -/
def State.keptFromPost (s : State) (w : Who) (cap : Capture) : Prop := cap.set.valid = true ∧ s.mustWait w cap = true

/-- One object of n bytes has been read at an address for the whole fragment: the state after, and its value. -/
def State.object (s : State) (w : Who) (a : Addr) (n : Nat) : Option (State × Nat) :=
  (s.gather w { uni := true, pol := 2 } [{ lane := 0, addr := a, n := n }]).all.map fun r => (r.1, valAt r.2 0 0)
/-- A block of n bytes has been read for a front or the atlas unit: the state after, and its bytes. -/
def State.block (s : State) (w : Who) (pol : BitVec 2) (a : Addr) (n : Nat) : Option (State × List Byte) :=
  (s.gather w { uni := true, pol := pol } (objAccs a n)).all.map fun r => (r.1, r.2.flatMap Prod.snd)

/-- Writes a uniform register of the issuer. -/
def State.putG (s : State) (w : Who) (r : Nat) (x : Word) : State := s.updWave w fun wv => wv.setG r x

end Machine
end Sys2Proof

/-- R446, R316: TRAP raises TRAPI and BRK raises BRK with the immediate in INFO; under an attached debugger BRK asks for a halt and goes
on.
R357: a word that no opcode map assigns raises ILLOP with an empty OPS, cause 2 where its major has another sub-operation, else 1;
its lanes are the fragment's MASK.
It rests on the model's readings in log entries 22 and 35. -/
def Obligations.TrapInstructions : Prop :=
  (∀ (f : UImm) (s : State) (w : Who), s.ready w = true →
    let info : BitVec 96 := BitVec.ofNat 96 f.imm.toNat
    exec (.trap f) s = .next (s.raised w (.trap f) (fun _ => (0, f.imm, 0)) s { code := 18, lanes := (s.frag w).mask, info := info }) ∧
    ((s.ctx w.ctx).dbg.attach = false →
      exec (.brk f) s = .next (s.raised w (.brk f) (fun _ => (0, f.imm, 0)) s { code := 17, lanes := (s.frag w).mask, info := info })) ∧
    ((s.ctx w.ctx).dbg.attach = true →
      exec (.brk f) s = .next (s.finished w (.brk f) (s.updWave w fun wv => { wv with haltReq := true })))) ∧
  ∀ (x e : Word) (s : State) (w : Who), s.cur = some (w.core, w.entry) → s.whoAt w.core w.entry = w → (s.frag w).budget ≠ 0 →
    (if wordUni x then uniMap (wordMajor x) (x.toNat % 32) = none else laneMap (wordMajor x) (x.toNat % 4) = none) →
    exec (.unassignedEncoding x e) s =
      .next (s.takeTrap w { word := x, ext := if wordX x then some e else none, ops := fun _ => (0, 0, 0) }
        { code := 1, lanes := (s.frag w).mask,
          cause := if [0, 1, 2, 3].any fun k => if wordUni x then (uniMap (wordMajor x) k).isSome else (laneMap (wordMajor x) k).isSome then 2
          else 1 })

/-- R303, R305: under a CTX_TRAPPC of 0 a trap is fatal; otherwise taking it writes the trap record of the fragment, restarts its
BUDGET, and sends it to CTX_TRAPPC in state TRAP; its MASK, every wave's registers, every other fragment and memory stay. -/
def Obligations.TrapEntry : Prop :=
  ∀ (s : State) (w : Who) (i : Ins) (t : Trap), t.code ≠ 9 → (s.frag w).trap = none →
    let u := s.takeTrap w i t
    let fr := s.frag w
    ((s.ctx w.ctx).trappc = 0 → u = s.fatal w t.code false true) ∧
    ((s.ctx w.ctx).trappc ≠ 0 → (∃ r, (u.frag w).trap = some r ∧ r.code = t.code ∧ r.cause = t.cause ∧ r.lanes = t.lanes ∧ r.pend = t.pend ∧
      r.addr = (if t.addr ≠ 0 ∨ t.lanes = 0 then t.addr else (i.adr (lowestLane t.lanes)).getD 0) ∧
      r.info = t.info ∧ r.instr = i.word ∧ r.extw = i.ext.getD 0 ∧ r.xw = i.ext.isSome ∧ r.unif = i.word.getLsbD 31 ∧
      r.action = (if t.code = 17 ∨ t.code = 18 then 1 else 3) ∧ r.newpc = 0 ∧
      (r.opA, r.opB, r.opC) = i.ops (if t.lanes = 0 then lowestLane fr.mask else lowestLane t.lanes) ∧
      r.saveg = [(s.wave w).greg 60, (s.wave w).greg 61, (s.wave w).greg 62, (s.wave w).greg 63] ∧
      r.frag = fr.image ∧ (t.code ≠ 8 → r.snaps = [])) ∧
    (u.frag w).st = .trap ∧ (u.frag w).pc = (s.ctx w.ctx).trappc ++ (0 : BitVec 2) ∧ (u.frag w).mask = fr.mask ∧
    (u.frag w).budget = (min 255 (s.launch w.launch).dlceil + 1) * 64 ∧
    (∀ c k, (u.core c).wave k = (s.core c).wave k ∧ (u.core c).posts = (s.core c).posts) ∧
    (∀ c e, (c ≠ w.core ∨ e ≠ w.entry) → (u.core c).frag e = (s.core c).frag e) ∧
    u.mem = s.mem ∧ u.ctxs = s.ctxs ∧ u.teams = s.teams ∧ u.launches = s.launches ∧ u.dies = s.dies)

/-- R306: the return from a handler restores g60 to g63 and BUDGET and clears trap mode; ACTION 0 retries at the trapping instruction,
for the lanes of LANES and PEND alone where it is a memory instruction and they are not empty, ACTION 1 resumes after its words,
ACTION 2 at NEWPC, and ACTION 3 is fatal. EXIT in trap mode does this.
It rests on the model's reading in log entry 36. -/
def Obligations.TrapReturn : Prop :=
  ∀ (f : UForm) (s : State) (w : Who) (r : TrapRec), s.ready w = true → (s.frag w).trap = some r →
    (s.wave w).uguard ((Instr.exit f).extU f) = true → r.saveg.length = 4 →
    let at_ : Addr := r.frag.extractLsb' 194 62 ++ (0 : BitVec 2)
    let lanes := r.lanes ||| r.pend
    ∃ u, exec (.exit f) s = .next u ∧
      (r.action ≠ 3 →
        (u.frag w).trap = none ∧ (u.frag w).st = .run ∧ (u.frag w).mask = (s.frag w).mask ∧
        (u.frag w).budget = (r.frag.extractLsb' 17 15).toNat ∧
        (∀ k < 4, (u.wave w).greg (60 + k) = r.saveg.getD k 0) ∧ (∀ k < 60, (u.wave w).greg k = (s.wave w).greg k) ∧
        (u.wave w).v = (s.wave w).v ∧ (u.wave w).p = (s.wave w).p ∧ (u.wave w).q = (s.wave w).q ∧
        (u.frag w).pc = (match r.action.toNat with
          | 0 => at_ | 1 => at_ + (if r.xw then 8 else 4) | _ => r.newpc ++ (0 : BitVec 2)) ∧
        (u.frag w).only = (if r.action = 0 ∧ isMemWord r.instr = true ∧ lanes ≠ 0 then some lanes else none) ∧ u.mem = s.mem) ∧
      (r.action = 3 → ∃ t : State, u = t.fatal w r.code false false)

/-- R157, R307: an instruction that would issue with BUDGET 0 raises WDOG, whatever it is; WDOG, a trap in trap mode, and a trap under a
CTX_TRAPPC of 0 are fatal: the team ends, and its launch's status is FAULT unless another came first; of a privileged wave, which has no
team, the wave goes (the model's choice, log entry 37). -/
def Obligations.WatchdogAndFatalTraps : Prop :=
  (∀ (i : Instr) (s : State) (w : Who),
    (i.uses ≠ .other ∨ (∃ f, i = .bra f ∨ i = .brc f ∨ i = .bru f ∨ i = .call f) ∨ ∃ x e, i = .unassignedEncoding x e) → s.cur = some (w.core, w.entry) → s.whoAt w.core w.entry = w →
    (s.frag w).budget = 0 → (s.frag w).again = false → ∃ ops adr, exec i s = .next (s.takeTrap w (insOf i ops adr) { code := 9, lanes := (s.frag w).mask })) ∧
  ∀ (s : State) (w : Who) (i : Ins) (t : Trap), t.code = 9 ∨ (s.frag w).trap.isSome = true ∨ (s.ctx w.ctx).trappc = 0 →
    let u := s.takeTrap w i t
    u = s.fatal w t.code (s.frag w).trap.isSome ((s.ctx w.ctx).trappc == 0) ∧
    ((s.wave w).priv = false → (u.team w.team).st = .ended ∧
      (u.launch w.launch).status = (if (s.launch w.launch).status = .ok then .fault else (s.launch w.launch).status)) ∧
    ((s.wave w).priv = true → (u.core w.core).waves.get? w.slot = none)

/-- R308, R340, R345: an instruction of the float group that would set an enabled flag raises FPEXC and writes no lane and no flag; one
that would show a selected legacy class raises LEGACY before any effect, as a fused multiply-add under class 9. -/
def Obligations.FloatTraps : Prop :=
  ∀ (f : LForm) (s : State) (w : Who), s.ready w = true →
    (∀ x ∈ scalarOps, (s.ctx w.ctx).legmask = 0 →
      let i := x.1 f
      let e := i.extL f
      let n := s.fenv w e.rnd e.sat
      let fm := fmtOf false e.fmt.toNat
      let outs := s.outsOf w e fun l => rounded n fm f.vd.toNat l
        (x.2 n (fltSrc n fm (s.wave w) false l f.va.toNat) (fltSrc n fm (s.wave w) e.usrc l f.vb.toNat)
          (fltSrc n fm (s.wave w) false l e.src3.toNat))
      let raises : Mask := maskOf fun l => outs.any fun o => o.1 == l && (o.2.fl &&& (s.wave w).enables) != 0
      raises ≠ 0 →
      ∃ ops, exec i s = .next (s.raised w i ops (s.drawn w n) { code := 14, cause := (flagUnion outs).toNat, lanes := raises })) ∧
    (let i := Instr.ffma f
     let act := s.active w (i.extL f).gsense (i.extL f).guard
     (s.ctx w.ctx).legmask = 2 ^ 9 → act ≠ 0 →
     ∃ ops, exec i s = .next (s.raised w i ops s { code := 13, cause := 9, lanes := act }))

/-- R447, R448: a fragment that issues BAR or CBAR waits in SYNCWAIT for its barrier, arrived at once under a relaxed order, and under
acq_rel once its wait is marked ready; CBAR outside a cluster is BAR. While some live fragment of some participant has not arrived, or
some participant waits for fragment entries (R125), nothing moves; once all have, every waiting fragment goes to the instruction after its barrier.
R217, R451: a fence with a release half, whose scope is not stale, waits in SYNCWAIT until its wait is marked ready, and then acquires
under the scope it captured, where it has an acquire half; a fence that only acquires does so at once.
R211, R219: an acquire by a wave whose core is in its set leaves no line in its core's L1, and writes the generation of a programmed
entry's set into the wave's record.
It rests on the model's readings in log entries 11 and 12. -/
def Obligations.BarriersAndFences : Prop :=
  (∀ (f : UForm) (s : State) (w : Who),
    (∀ x ∈ ([(.bar, false), (.cbar, true)] : List ((UForm → Instr) × Bool)),
      let i := x.1 f
      let e := i.extU f
      let cap := s.capture w (scopeOf e.byte)
      let rel := ordRel (ordOf e.byte)
      let desc := (s.team w.team).desc
      (s.ready w = true ∧ (s.wave w).uguard e = true) → (rel = true → s.stale w cap true (s.frag w).mask = none) →
      let u := (s.count w false).updWave w fun wv => if rel then { wv with acq := wv.acq.erase cap.index } else wv
      exec i s = .next ((u.updFrag w fun fr =>
        { fr with st := .syncwait, words := some (wordOf i, (insOf i fun _ => (0, 0, 0)).ext), answers := [], since := 0,
                  wait := { kind := .barrier, n := f.ga.toNat % 4, m := if x.2 && 1 < desc.crows * desc.ccols then 1 else 0, cap := cap,
                            ok := rel, ready := !rel } }).settleBarriers w.team)) ∧
    ∀ (t kind n : Nat),
      let ws := (s.barrierTeams t kind).flatMap s.wavesOf
      let arrived := ws ≠ [] ∧ ∀ p ∈ ws, ((s.core p.1).wave p.2).owed = [] ∧ ∀ x ∈ (s.core p.1).fragsOf p.2,
        x.2.st = .syncwait ∧ x.2.wait.kind = .barrier ∧ x.2.wait.n = n ∧ x.2.wait.m = kind ∧ x.2.wait.ready = true
      (¬ arrived → s.tryBarrier t kind n = s) ∧
      (arrived → (ws.flatMap fun p => ((s.core p.1).wave p.2).order.map fun e => (p.1, e)).Nodup →
        let u := s.tryBarrier t kind n
        ∀ p ∈ ws, ∀ e ∈ ((s.core p.1).wave p.2).order,
          ((u.core p.1).frag e).st ≠ .syncwait ∧
          ((u.core p.1).frag e).pc = ((s.core p.1).frag e).pc + BitVec.ofNat 64 ((s.core p.1).frag e).wordsLen.1)) ∧
  (∀ (s : State) (w : Who) (cap : Capture),
    (cap.set.holds (.core w.core) = true → ((s.acquire w cap none).core w.core).l1 = []) ∧
    (5 ≤ cap.index → ((s.acquire w cap none).wave w).acq.get? cap.index = some cap.set.gen)) ∧
  ∀ (f : UForm) (s : State) (w : Who),
    let i := Instr.fence f
    let e := i.extU f
    let o := ordOf e.byte
    let cap := s.capture w (scopeOf e.byte)
    s.runs w i f →
    ((s.frag w).again = false → s.stale w cap (ordRel o) (s.frag w).mask = none →
      (ordRel o = true → exec i s = .next (s.awaiting w i (s.updWave w fun wv => { wv with acq := wv.acq.erase cap.index })
        { kind := .fence, cap := cap, n := o })) ∧
      (ordRel o = false → exec i s = .next (s.finished w i (s.acquire w cap none)))) ∧
    (s.waitsFor w .fence → (s.frag w).wait.ready = true →
      exec i s = .next (s.finished w i (if o = 1 ∨ o = 3 ∨ o = 4 then s.acquire w (s.frag w).wait.cap none else s))) ∧
    (s.waitsFor w .fence → (s.frag w).wait.ready = false → exec i s = .next s)

/-- R452 to R455, R457: BIND and UNBIND write their entry and wait until it is everywhere; SCOPESET is refused with PRIV outside a
privileged wave, and in one starts the update it reads and waits for it; SCOPESYNC waits for the update under way; EXPECT adds to a
task's COUNT, waits for the reply and completes, or raises CNTOVF or ACCESS; ROLE reads a role.
It rests on the model's readings in log entries 11 and 31: when EXPECT's reply comes is timing, and a binding reaches every core in one
step. -/
def Obligations.BindingsAndScopes : Prop :=
  ∀ (f : UForm) (s : State) (w : Who),
    let wv := s.wave w
    let mask := (s.frag w).mask
    (let i := Instr.bind f
     let e := i.extU f
     let n := (wv.greg f.gd.toNat).toNat
     let base := wv.g64 f.ga.toNat
     let len := (wv.g64 f.gb.toNat).toNat
     s.runs w i f →
     ((s.frag w).again = false → n ≤ 255 → 0 < len → len < 2 ^ 40 → base.toNat + len ≤ 2 ^ 64 →
       s.stale w (s.capture w (scopeOf e.byte)) false mask = none →
       ∃ key, exec i s = .next (s.awaiting w i
         ((s.updCtx w.ctx fun x =>
           let b : Binding := { base := base, sync := wv.g64 e.src3.toNat, len := len, scope := e.byte.extractLsb' 0 5, valid := true }
           { x with binds := x.binds.set n b, bindUpd := x.bindUpd ++ [(key, b)] }).fresh.2)
         { kind := .binding, n := key })) ∧
     (s.waitsFor w .binding → (s.frag w).wait.ready = true → exec i s = .next (s.finished w i s)) ∧
     ((s.frag w).again = false → 255 < n ∨ len = 0 ∨ 2 ^ 40 ≤ len ∨ 2 ^ 64 < base.toNat + len →
       ∃ ops, exec i s = .next (s.raised w i ops s { code := 5, lanes := mask }))) ∧
    (let i := Instr.unbind f
     let n := (wv.greg f.gd.toNat).toNat
     s.runs w i f →
     ((s.frag w).again = false → n ≤ 255 →
       ∃ key, exec i s = .next (s.awaiting w i
         ((s.updCtx w.ctx fun x =>
           let b : Binding := { x.binds.getD n {} with valid := false }
           { x with binds := x.binds.set n b, bindUpd := x.bindUpd ++ [(key, b)] }).fresh.2)
         { kind := .binding, n := key })) ∧
     (s.waitsFor w .binding → (s.frag w).wait.ready = true → exec i s = .next (s.finished w i s))) ∧
    (let i := Instr.scopeset f
     let c := (wv.greg f.gb.toNat).toNat
     s.runs w i f →
     ((s.frag w).again = false → wv.priv = false → ∃ ops, exec i s = .next (s.raised w i ops s { code := 2, lanes := mask })) ∧
     (s.ready w = true → wv.priv = true → (wv.g64 f.ga.toNat).toNat % 64 = 0 → ∀ t x, s.object w (wv.g64 f.ga.toNat) 64 = some (t, x) →
       scopeImageOk x = true → c ≤ 63 → (s.ctx c).st = .active →
       exec i s = .next (s.awaiting w i (t.fresh.2.addScopeUpd c (scopeUpdOf x t.nextId none)) { kind := .scopeUpdate, n := t.nextId })) ∧
     (s.waitsFor w .scopeUpdate → (s.frag w).wait.ready = true → exec i s = .next (s.finished w i s))) ∧
    (let i := Instr.scopesync f
     s.runs w i f →
     ((s.frag w).again = false → (s.ctx w.ctx).scopeUpd = [] → exec i s = .next (s.finished w i s)) ∧
     (∀ u rest, (s.frag w).again = false → (s.ctx w.ctx).scopeUpd = u :: rest →
       exec i s = .next (s.awaiting w i s { kind := .scopeSync, n := u.id })) ∧
     (s.waitsFor w .scopeSync → ((s.ctx w.ctx).scopeUpd.head?.map fun u => u.id) ≠ some (s.frag w).wait.n →
       exec i s = .next (s.finished w i s))) ∧
    (let i := Instr.expect f
     let t := (wv.greg f.ga.toNat).toNat
     let n := (wv.greg f.gb.toNat).toNat
     let k := (s.ctx w.ctx).tasks.getD t {}
     s.runs w i f →
     ((s.frag w).again = false → t < 4096 → k.count + n ≤ 65535 →
       exec i s = .next (s.awaiting w i (s.updCtx w.ctx fun x => { x with tasks := x.tasks.set t { k with count := k.count + n } })
         { kind := .reply, n := t })) ∧
     (s.waitsFor w .reply → exec i s = .next (s.finished w i s)) ∧
     ((s.frag w).again = false → t < 4096 → 65535 < k.count + n →
       ∃ ops, exec i s = .next (s.raised w i ops s { code := 10, cause := 3, lanes := mask, info := BitVec.ofNat 96 t })) ∧
     ((s.frag w).again = false → 4096 ≤ t → ∃ ops, exec i s = .next (s.raised w i ops s { code := 5, lanes := mask }))) ∧
    (let i := Instr.role f
     s.runs w i f → exec i s = .next (s.finished w i (s.putG w f.gd.toNat (match (s.team w.team).roles.get? (f.ga.toNat % 32) with
       | some u => BitVec.ofNat 32 (2 ^ 31 + u % 2 ^ 15) | none => 0))))

/-- R362, R363, R456, R464: MFS reads a special register into gd, the clocks, %mhalt and the INV registers as results that return later;
MTS writes one, and an MTS to %mdn also makes the tile's INV state 0; reserved bits and codes are refused with ILLOP, and a register that
is not for this wave with PRIV, before any effect.
It rests on the model's readings in log entries 35 and 37. -/
def Obligations.SpecialRegisters : Prop :=
  ∀ (f : UForm) (s : State) (w : Who),
    let wv := s.wave w
    let fr := s.frag w
    let n := f.srn
    let x := wv.greg f.gd.toNat
    let cyc : BitVec 64 := BitVec.ofNat 64 (s.core w.core).cycle
    (let i := Instr.mfs f
     let gives (y : Word) : Prop := exec i s = .next (s.finished w i (s.putG w f.gd.toNat y))
     let later (y : Word) (t : State) : Prop := exec i s = .next (s.finished w i (t.later w true false 0 [(f.gd.toNat, y)]))
     let c := s.core w.core
     s.runs w i f →
       (n = 0x010 → gives (BitVec.ofNat 32 wv.lanes)) ∧ (n = 0x011 → gives (BitVec.ofNat 32 (s.team w.team).number)) ∧
       (n = 0x012 → gives (BitVec.ofNat 32 wv.idx)) ∧ (n = 0x013 → gives (BitVec.ofNat 32 (s.team w.team).role)) ∧
       (n = 0x014 → gives (BitVec.ofNat 32 w.entry)) ∧ (n = 0x015 → gives (BitVec.ofNat 32 (modeCode c.mode))) ∧
       (n = 0x016 → gives (BitVec.ofNat 32 fr.budget)) ∧ (n = 0x018 → gives (if wv.som then 1 else 0)) ∧
       (n = 0x019 → gives (BitVec.ofNat 32 wv.fuseTo)) ∧ (n = 0x01A → gives (BitVec.ofNat 32 c.missThresh)) ∧
       (n = 0x020 → gives wv.fpmode) ∧ (n = 0x021 → gives wv.fpflags) ∧
       (n = 0x022 → wv.priv = true → gives (c.pipe wv.pipe).sr) ∧
       (n = 0x022 → wv.priv = false → ∃ ops, exec i s = .next (s.raised w i ops s { code := 2, lanes := fr.mask })) ∧
       (n = 0x028 → later (cyc.extractLsb' 0 32) (s.updWave w fun wv => { wv with cyclehi := cyc.extractLsb' 32 32 })) ∧
       (n = 0x029 → later wv.cyclehi s) ∧ (n = 0x030 → later (BitVec.ofNat 32 (s.team w.team).mhalt) s) ∧
       (n = 0x031 → later (s.invBits w.team 0) s) ∧ (n = 0x032 → later (s.invBits w.team 16) s) ∧
       (∀ r, n = 0x040 → fr.trap = some r → gives (r.word (wv.greg (i.extU f).src3.toNat).toNat)) ∧
       (n = 0x040 → fr.trap = none → ∃ ops, exec i s = .next (s.raised w i ops s { code := 2, lanes := fr.mask })) ∧
       ∀ k < 32, n = 0x100 + k → (s.team w.team).desc.mtiles > k → s.tileWritten w.team k = false → gives ((s.team w.team).shapes.getD k 0)) ∧
    (let i := Instr.mts f
     let writes (t : State) : Prop := exec i s = .next (s.finished w i t)
     let refused (code cause : Nat) : Prop := ∃ ops, exec i s = .next (s.raised w i ops s { code := code, cause := cause, lanes := fr.mask })
     s.runs w i f →
       (n = 0x018 → if x.toNat < 2 then writes (s.updWave w fun wv => { wv with som := x.getLsbD 0 }) else refused 1 3) ∧
       (n = 0x019 → if x.toNat < 65536 then writes (s.updWave w fun wv => { wv with fuseTo := x.toNat }) else refused 1 3) ∧
       (n = 0x020 → if x.toNat % 8 < 6 ∧ x.toNat / 8 % 32 = 0 ∧ x.toNat < 2 ^ 13 then writes (s.updWave w fun wv => { wv with fpmode := x })
         else refused 1 3) ∧
       (n = 0x021 → if x.toNat < 128 then writes (s.updWave w fun wv => { wv with fpflags := x }) else refused 1 3) ∧
       (n = 0x01A → wv.priv = true → if x.toNat < 65536 then writes (s.updCore w.core fun c => { c with missThresh := x.toNat }) else refused 1 3) ∧
       (n = 0x022 → wv.priv = true → writes (if x = 0 then s
         else s.updCore w.core fun c => { c with pipes := c.pipes.set wv.pipe { c.pipe wv.pipe with sr := x } })) ∧
       (n = 0x01A ∨ n = 0x022 → wv.priv = false → refused 2 0) ∧
       (∀ r, n = 0x040 → fr.trap = some r →
         let j := (wv.greg (i.extU f).src3.toNat).toNat
         if trapReserved j x then refused 1 3 else writes (s.updFrag w fun f => { f with trap := some (r.setWord j x) })) ∧
       (n = 0x040 → fr.trap = none → refused 2 0) ∧
       ∀ k < 32, n = 0x100 + k → (s.team w.team).desc.mtiles > k → s.tileUsed w.team k = false →
         writes (s.updTeam w.team fun t => { t with shapes := t.shapes.put k x 0, inv := t.inv.put k 0 0 }))

/-- R458, R104, R110: ENQ and ENQG read and check a team descriptor, acquire it, release the issuer's writes, raise the launch's counter by
the number of teams, and make the tickets of a new grid; where the release covers operations that a peer has not acknowledged they wait in
SYNCWAIT first. A misaligned or bad descriptor and a count of 0 raise ILLOP with cause 6, and a counter that would pass 2^48 - 1 CNTOVF with
cause 1.
It rests on the model's readings in log entries 11 and 29. -/
def Obligations.TeamsFromInstructions : Prop :=
  ∀ (f : UForm) (s : State) (w : Who),
    let a := (s.wave w).g64 f.ga.toNat
    ∀ x ∈ ([(.enq, false), (.enqg, true)] : List ((UForm → Instr) × Bool)),
      let i := x.1 f
      let grid : Option Nat := if x.2 then some ((s.wave w).greg f.gb.toNat).toNat else none
      let cap := s.capture w 4
      let bad : Trap := { code := 1, cause := 6, lanes := (s.frag w).mask, addr := a }
      let h : How := { uni := true, pol := 2, order := 1, cap := cap }
      let rs := s.sortAccs w h [{ lane := 0, addr := a, n := 64 }]
      let makes (u : State) (cap : Capture) (img : Nat) : Prop :=
        let v := u.drain w cap
        let d := descOf img
        let n := grid.getD d.teams
        u.mustWait w cap = false →
          ((v.launch w.launch).counter + n ≤ 2 ^ 48 - 1 →
            let z := (v.addCount w.launch n).updLaunch w.launch fun l => { l with grids := l.grids + 1 }
            exec i s = .next (s.finished w i ((if d.affname = 0 then z else z.dirOp).giveTickets
              { launch := w.launch, grid := (v.launch w.launch).grids, desc := d, kind := .team, next := 0, bound := n / d.teams,
                issuer := if x.2 then none else some w.die }))) ∧
          (2 ^ 48 - 1 < (v.launch w.launch).counter + n →
            ∃ ops, exec i s = .next (s.raised w i ops v { code := 10, cause := 1, lanes := (s.frag w).mask }))
      s.runs w i f →
      (s.ready w = true → a.toNat % 64 ≠ 0 ∨ grid = some 0 → ∃ ops, exec i s = .next (s.raised w i ops s bad)) ∧
      (∀ t bs, s.ready w = true → a.toNat % 64 = 0 → grid ≠ some 0 → (s.gatherPlaced w (fun _ => h) false rs).all = some (t, bs) →
        let img := valAt bs 0 0
        let u := t.acquireAll w h (readOf rs bs)
        (descOk img (u.launch w.launch).lanepriv grid = false → ∃ ops, exec i s = .next (s.raised w i ops u bad)) ∧
        (descOk img (u.launch w.launch).lanepriv grid = true → makes u cap img ∧
          (u.mustWait w cap = true → exec i s = .next (s.awaiting w i u { kind := .post, cap := cap, gran := [(0, img)] })))) ∧
      (s.waitsFor w .post → makes s (s.frag w).wait.cap (((s.frag w).wait.gran.get? 0).getD 0) ∧
        (s.mustWait w (s.frag w).wait.cap = true → exec i s = .next s))

/-- R182 to R187, R460, R461: SEGATT writes the handle that the directory gives, waits where the segment must move, and raises SEGMISS,
or CNTOVF past 255 nested attaches; SEGDET of a handle that is not held raises SEGMISS, and otherwise waits for its drain and goes on;
SEGPIN pins or unpins a named segment. Each is one operation of the directory, also where it traps.
It rests on the model's reading in log entry 24. -/
def Obligations.SegmentInstructions : Prop :=
  ∀ (f : UForm) (s : State) (w : Who),
    let wv := s.wave w
    let mask := (s.frag w).mask
    (∀ x ∈ ([(.segattLd, true), (.segattNf, false)] : List ((UForm → Instr) × Bool)),
      let i := x.1 f
      let name := (s.regs w).g64 f.ga.toNat
      let answers (t : State) (stays : State → State) : Prop :=
        let answer := t.segAttach w.team name x.2 1 (w.team, w.core, w.entry)
        (∀ u h, answer = .attached u h → exec i s = .next (s.finished w i (u.putG w f.gd.toNat (BitVec.ofNat 32 h)))) ∧
        (∀ u, answer = .wait u → exec i s = .next (stays u)) ∧
        (∀ c, answer = .segmiss c → ∃ ops, exec i s = .next (s.raised w i ops t
          { code := 6, cause := c, lanes := mask, info := BitVec.ofNat 96 name.toNat })) ∧
        (∀ h, answer = .nestFull h → ∃ ops, exec i s = .next (s.raised w i ops t
          { code := 10, cause := 2, lanes := mask, info := BitVec.ofNat 96 h }))
      s.runs w i f →
        (s.ready w = true → answers s.dirOp fun u => s.awaiting w i u { kind := .segment }) ∧
        (s.waitsFor w .segment → (s.frag w).wait.ready = false ∨ (s.frag w).wait.ok = true → answers s fun u => u) ∧
        (s.waitsFor w .segment → (s.frag w).wait.ready = true → (s.frag w).wait.ok = false →
          ∃ ops, exec i s = .next (s.raised w i ops s { code := 5, lanes := mask }))) ∧
    (∀ (t : Nat) (name : Addr) (ld : Bool) (nest : Nat) (who : Nat × Nat × Nat),
      let c := (s.team t).ctx
      let answer := s.segAttach t name ld nest who
      (s.segFind c name = none → answer = .segmiss 0) ∧
      ∀ h, s.segFind c name = some h →
        let g := s.seg c h
        let held := (s.team t).attach.filter fun a => a.handle == h
        (g.dying = true → answer = .segmiss 0) ∧
        (g.dying = false → held ≠ [] → (∀ a ∈ held, a.nest < 255) → ∃ u, answer = .attached u h ∧ u.ctxs = s.ctxs ∧
          ((u.team t).attach.filter fun a => a.handle == h) = held.map fun a => { a with nest := a.nest + 1 }) ∧
        (g.dying = false → held ≠ [] → (∃ a ∈ held, 255 ≤ a.nest) → answer = .nestFull h) ∧
        (g.dying = false → held = [] → g.level = 1 → (s.team t).desc.crows * (s.team t).desc.ccols ≤ 1 → answer = .segmiss 4) ∧
        (g.dying = false → held = [] → (g.level = 1 → 1 < (s.team t).desc.crows * (s.team t).desc.ccols) → 8 ≤ (s.team t).attach.length →
          answer = .segmiss 5) ∧
        (g.dying = false → held = [] → (g.level = 1 → 1 < (s.team t).desc.crows * (s.team t).desc.ccols) → (s.team t).attach.length < 8 →
          g.busy = false → g.leaving = false →
          (g.st = .released → answer = .segmiss 0) ∧
          (g.st = .evicted → ld = false → answer = .segmiss 1) ∧
          (g.st = .resident → g.home = (s.teamHome t g.level).1 →
            (g.level = 1 → g.hcols = (s.teamHome t 1).2.1 ∧ g.hrows = (s.teamHome t 1).2.2) →
            ∃ u, answer = .attached u h ∧ (u.seg c h).attach = g.attach + 1 ∧ (u.seg c h).syncseq = g.syncseq + 1 ∧
              (u.team t).attach = (s.team t).attach ++ [{ handle := h, name := name, nest := nest }]))) ∧
    (let i := Instr.segdet f
     let x := wv.greg f.ga.toNat
     s.runs w i f →
     (s.ready w = true → (s.team w.team).attach.any (fun a => a.handle == x.toNat) = true →
       exec i s = .next (s.awaiting w i s.dirOp { kind := .drain, n := x.toNat, m := s.nextId })) ∧
     (s.ready w = true → (s.team w.team).attach.any (fun a => a.handle == x.toNat) = false →
       ∃ ops, exec i s = .next (s.raised w i ops s.dirOp { code := 6, cause := 6, lanes := mask, info := BitVec.ofNat 96 x.toNat })) ∧
     (s.waitsFor w .drain → (s.frag w).wait.ready = true → exec i s = .next (s.finished w i s))) ∧
    (let i := Instr.segpin f
     let name := wv.g64 f.ga.toNat
     s.runs w i f →
     (∀ h, s.segFind w.ctx name = some h →
       exec i s = .next (s.finished w i (s.dirOp.updSeg w.ctx h fun g => { g with pin := !(i.extU f).mod.getLsbD 0 }))) ∧
     (s.segFind w.ctx name = none →
       ∃ ops, exec i s = .next (s.raised w i ops s.dirOp { code := 6, cause := 0, lanes := mask, info := BitVec.ofNat 96 name.toNat })))

/-- R228, R463, R471 to R475: CPYGO posts a copy job to a channel with room and writes its new POSTED count; CPYWT gives a channel's DONE and
FAILED once DONE has reached its count; TASKPOST posts a task job, waits for the I/O die's answer and writes it; TASKWT gives an idle
task's status. A post waits while its level is owed acknowledgements. A wait whose count or task is not there yet waits, or with .nw answers
at once; where nothing was waited for, its result returns later.
It rests on the model's reading in log entry 26. -/
def Obligations.CopiesAndTasks : Prop :=
  ∀ (f : UForm) (s : State) (w : Who),
    let wv := s.wave w
    (let i := Instr.cpygo f
     let e := i.extU f
     let cap := s.jobCap w e.byte
     let posts (cap : Capture) (ch : Nat) : Prop :=
       let u := s.postDrain w cap
       u.chanFull w.die ch = false →
       let n := (u.chan w.die ch w.ctx).posted + 1
       let j : Job := { id := u.nextId, ctx := w.ctx, launch := w.launch, team := w.team, task := false, card := (s.regs w).g64 f.ga.toNat,
                        cap := cap, chan := ch, number := n.toNat, held := u.heldBy w.team, poster := none }
       let v := ((u.fresh.2.addCount w.launch 1).updTeam w.team fun t => { t with owed := t.owed + 1 }).updDie w.die fun d =>
         { d with jobs := d.jobs ++ [j] }
       exec i s = .next (s.finished w i ((v.updChan w.die ch w.ctx fun x => { x with posted := n }).putG w f.gd.toNat n))
     s.runs w i f →
     (s.ready w = true → ∀ ch, s.copyRole w .post (e.mod.toNat % 2) = some ch →
       (s.clearToPost w cap → posts cap ch) ∧
       (s.keptFromPost w cap → exec i s = .next (s.awaiting w i s { kind := .post, cap := cap, n := ch }))) ∧
     (s.ready w = true → cap.set.valid = true → s.copyRole w .post (e.mod.toNat % 2) = none →
       ∃ ops, exec i s = .next (s.raised w i ops s { code := 5, lanes := (s.frag w).mask })) ∧
     (s.waitsFor w .post → (s.frag w).wait.ready = true → posts (s.frag w).wait.cap ((s.frag w).wait.n % 16))) ∧
    (let i := Instr.cpywt f
     let e := i.extU f
     let cap := s.scopeCap w e.byte
     let gd := f.gd.toNat
     ∀ ch, s.copyRole w .copy (e.mod.toNat % 2) = some ch →
     let x := s.chan w.die ch w.ctx
     let done (t : State) : State := if e.mod.getLsbD 1 then t.updChan w.die ch w.ctx fun x => { x with failed := false } else t
     let fl : Word := if x.failed then 1 else 0
     s.runs w i f →
     (s.ready w = true → cap.set.valid = true → e.mod.getLsbD 2 = true ∨ (x.done - wv.greg f.ga.toNat).toNat < 2 ^ 31 →
       exec i s = .next (s.finished w i ((done (s.waitAcquire w cap)).laterG w [(gd, x.done), (gd + 1, fl)]))) ∧
     (s.ready w = true → cap.set.valid = true → e.mod.getLsbD 2 = false → 2 ^ 31 ≤ (x.done - wv.greg f.ga.toNat).toNat →
       exec i s = .next (s.awaiting w i s { kind := .copy, n := ch, m := (wv.greg f.ga.toNat).toNat, cap := cap })) ∧
     (s.waitsFor w .copy → (x.done - BitVec.ofNat 32 (s.frag w).wait.m).toNat < 2 ^ 31 →
       exec i s = .next (s.finished w i (((done (s.waitAcquire w (s.frag w).wait.cap)).updWave w fun wv => (wv.setG gd x.done).setG (gd + 1) fl)))) ∧
     (s.waitsFor w .copy → e.mod.getLsbD 2 = false → 2 ^ 31 ≤ (x.done - BitVec.ofNat 32 (s.frag w).wait.m).toNat → exec i s = .next s)) ∧
    (let i := Instr.taskpost f
     let cap := s.jobCap w (i.extU f).byte
     let posts (cap : Capture) : Prop :=
       let u := s.postDrain w cap
       let j : Job := { id := u.nextId, ctx := w.ctx, launch := w.launch, team := w.team, task := true, card := (s.regs w).g64 f.ga.toNat,
                        cap := cap, chan := 0, number := 0, held := u.heldBy w.team, poster := some (w.core, w.entry) }
       let v := ((u.fresh.2.addCount w.launch 1).updTeam w.team fun t => { t with owed := t.owed + 1 }).updDie w.die fun d =>
         { d with jobs := d.jobs ++ [j] }
       exec i s = .next (s.awaiting w i v { kind := .task, n := u.nextId, cap := cap })
     s.runs w i f →
     (s.ready w = true → s.clearToPost w cap → posts cap) ∧
     (s.ready w = true → s.keptFromPost w cap → exec i s = .next (s.awaiting w i s { kind := .post, cap := cap })) ∧
     (s.waitsFor w .post → (s.frag w).wait.ready = true → posts (s.frag w).wait.cap) ∧
     (s.waitsFor w .task → (s.frag w).wait.ready = false → exec i s = .next s) ∧
     (s.waitsFor w .task → (s.frag w).wait.ready = true →
       exec i s = .next (s.finished w i (s.putG w f.gd.toNat (BitVec.ofNat 32 (s.frag w).wait.m))))) ∧
    (let i := Instr.taskwt f
     let e := i.extU f
     let cap := s.scopeCap w e.byte
     let t := (wv.greg f.ga.toNat).toNat
     let k := (s.ctx w.ctx).tasks.getD t {}
     s.runs w i f →
     (s.ready w = true → cap.set.valid = true → t < 4096 →
       (k.st = .idle → exec i s = .next (s.finished w i ((s.waitAcquire w cap).laterG w [(f.gd.toNat, BitVec.ofNat 32 k.status)]))) ∧
       (k.st ≠ .idle → e.mod.getLsbD 2 = true → exec i s = .next (s.finished w i (s.laterG w [(f.gd.toNat, 0xFFFFFFFE)]))) ∧
       (k.st ≠ .idle → e.mod.getLsbD 2 = false →
         exec i s = .next (s.awaiting w i s { kind := .taskDone, n := t, cap := cap }))) ∧
     (s.ready w = true → cap.set.valid = true → 4096 ≤ t →
       ∃ ops, exec i s = .next (s.raised w i ops s { code := 5, lanes := (s.frag w).mask })) ∧
     (s.waitsFor w .taskDone → (s.frag w).wait.n < 4096 → ((s.ctx w.ctx).tasks.getD (s.frag w).wait.n {}).st = .idle →
       exec i s = .next (s.finished w i ((s.waitAcquire w (s.frag w).wait.cap).putG w f.gd.toNat
         (BitVec.ofNat 32 ((s.ctx w.ctx).tasks.getD (s.frag w).wait.n {}).status)))))

namespace Sys2Proof
namespace Machine

/-- The request of each matrix instruction: its code, the tiles it names, the tiles it reads, with the page of their format, and
those it writes (R465 to R469). -/
structure MatrixRow where
  make : UForm → Instr
  named : List Nat
  reads : List (Nat × Bool)
  writes : List Nat
  req : MReq

/-- The rows of the matrix instructions that post, for fields f in state s. -/
def matrixRows (s : State) (w : Who) (f : UForm) : List MatrixRow :=
  let d := f.gd.toNat % 32
  let a := f.ga.toNat % 32
  let b := f.gb.toNat % 32
  let wv := s.wave w
  let e (mk : UForm → Instr) : EMod := (mk f).extU f
  let acc (mk : UForm → Instr) : Bool := !(e mk).mod.getLsbD 0
  let page (mk : UForm → Instr) : Bool := (e mk).mod.getLsbD 1
  let own (mk : UForm → Instr) : List (Nat × Bool) := if acc mk then [(d, false)] else []
  let r : MReq := { id := 0, team := 0, launch := 0, ctx := 0, op := .mma, d := d }
  [{ make := .mma, named := [d, a, b], reads := [(a, page .mma), (b, page .mma)] ++ own .mma, writes := [d],
     req := { r with a := a, b := b, acc := acc .mma, page1 := page .mma } },
   { make := .mmas, named := [d, a, b, (e .mmas).src3.toNat % 32],
     reads := [(a, page .mmas), (b, page .mmas), ((e .mmas).src3.toNat % 32, false)] ++ own .mmas, writes := [d],
     req := { r with op := .mmas, a := a, b := b, sTile := (e .mmas).src3.toNat % 32, acc := acc .mmas, page1 := page .mmas } },
   { make := .mlut, named := [d, a, b], reads := [(a, false), (b, false)] ++ own .mlut, writes := [d],
     req := { r with op := .mlut, a := a, b := b, acc := acc .mlut, bits := (e .mlut).byte.toNat % 8 } },
   { make := .mzero, named := [d], reads := [], writes := [d], req := { r with op := .mzero } },
   { make := .mld, named := [d], reads := [], writes := [d],
     req := { r with op := .mld, page1 := page .mld, addr := wv.g64 f.ga.toNat, stride := (wv.greg f.gb.toNat).toNat } },
   { make := .mst, named := [d], reads := [(d, page .mst)], writes := [],
     req := { r with op := .mst, page1 := page .mst, addr := wv.g64 f.ga.toNat, stride := (wv.greg f.gb.toNat).toNat } },
   { make := .mcvt, named := [d, a], reads := [(a, page .mcvt)], writes := d :: (s.scaleOf w.team d ((e .mcvt).mod.getLsbD 2)).toList,
     req := { r with op := .mcvt, a := a, page1 := page .mcvt, page1d := (e .mcvt).mod.getLsbD 2, rnd := wv.mode (e .mcvt).rnd,
                     sat := (e .mcvt).sat } }]

/-- The words of a matrix instruction carry a scope: those that address memory. -/
def MReq.scoped (r : MReq) : Bool := r.op == .mld || r.op == .mst

end Machine
end Sys2Proof

/-- R245, R257, R258, R465 to R470: a matrix instruction whose tiles are its team's and readable posts its request to the quartet that
role 28 names, with an ill-formed one ending the team's requests; a read of a tile whose INV is not 0 raises TILEINV or SPMETA, and a tile
that is not owned ACCESS. MLD and MST, which address memory, wait while their level is owed acknowledgements. MWAIT waits for the team's
earlier requests, then gives %mhalt to gd and clears it.
It rests on the model's reading in log entry 27. -/
def Obligations.MatrixInstructions : Prop :=
  ∀ (f : UForm) (s : State) (w : Who),
    (∀ x ∈ matrixRows s w f,
      let i := x.make f
      let cap := s.jobCap w (i.extU f).byte
      let all := x.reads.map Prod.fst ++ x.reads.filterMap fun r => s.scaleOf w.team r.1 r.2
      let q := match (s.team w.team).roles.get? 28 with
        | some u => s.liveMatrix (u - 0x4000)
        | none => quartetOf w.core
      s.runs w i f → s.ready w = true →
      ((∀ n ∈ all, n < (s.team w.team).desc.mtiles → s.invOf w.team n = 0) → (∀ n ∈ x.named, n < (s.team w.team).desc.mtiles) →
        ((x.req.scoped = true → s.clearToPost w cap) →
          let u := if x.req.scoped then s.postDrain w cap else s
          u.tableFull q = false →
          exec i s = .next (s.finished w i (u.postReq w q
            { x.req with reads := all, writes := x.writes, cap := if x.req.scoped then cap else {} }))) ∧
        (x.req.scoped = true → s.keptFromPost w cap → exec i s = .next (s.awaiting w i s { kind := .post, cap := cap, n := 0x4000 + q }))) ∧
      ((∀ n ∈ all, n < (s.team w.team).desc.mtiles → s.invOf w.team n = 0) → (∃ n ∈ x.named, (s.team w.team).desc.mtiles ≤ n) →
        ∃ ops, exec i s = .next (s.raised w i ops s { code := 5, lanes := (s.frag w).mask })) ∧
      (∀ n, all.find? (fun n => s.owns w n && s.invOf w.team n != 0) = some n →
        ∃ ops, exec i s = .next (s.raised w i ops s
          { code := if s.invOf w.team n = 2 then 11 else 12, lanes := (s.frag w).mask, info := BitVec.ofNat 96 n }))) ∧
    (let i := Instr.mwait f
     let cap := s.scopeCap w (i.extU f).byte
     let code : Word := BitVec.ofNat 32 (s.team w.team).mhalt
     let ends (t : State) : State := t.updTeam w.team fun t => { t with mhalt := 0 }
     s.runs w i f →
     (s.ready w = true → cap.set.valid = true → (∀ r ∈ s.requestsOf w.team, s.nextId ≤ r.id) →
       exec i s = .next (s.finished w i (ends ((s.waitAcquire w cap).laterG w [(f.gd.toNat, code)])))) ∧
     (s.ready w = true → cap.set.valid = true → (∃ r ∈ s.requestsOf w.team, r.id < s.nextId) →
       exec i s = .next (s.awaiting w i s { kind := .matrix, n := s.nextId, cap := cap })) ∧
     (s.waitsFor w .matrix → (∀ r ∈ s.requestsOf w.team, (s.frag w).wait.n ≤ r.id) →
       exec i s = .next (s.finished w i (ends ((s.waitAcquire w (s.frag w).wait.cap).putG w f.gd.toNat code)))))

/-- R228, R476, R477: RAYQ queues a query with the engine that role 29 names and writes the team's new count of posted queries, and waits
while its level is owed acknowledgements; RAYWT gives the status of a query that has ended, waits for one that has not, and with .nw answers
0xFFFFFFFE for it; where nothing was waited for, its result returns later. -/
def Obligations.Queries : Prop :=
  ∀ (f : UForm) (s : State) (w : Who),
    let wv := s.wave w
    (let i := Instr.rayq f
     let e := i.extU f
     let cap := s.jobCap w e.byte
     let u := s.postDrain w cap
     s.runs w i f → s.ready w = true → cap.set.valid = true →
     (∀ r, (s.team w.team).roles.get? 29 = some r →
       let k := s.liveIndigo (r - 0x5000)
       (s.mustWait w cap = false → (u.quartet k).queue.length < 64 →
         let n := (u.team w.team).qPosted + 1
         let q : Query := { id := u.nextId, team := w.team, launch := w.launch, ctx := w.ctx, recA := wv.g64 f.ga.toNat,
                            result := wv.g64 f.gb.toNat,
                            spawn := if e.mod.getLsbD 0 then wv.g64 e.src3.toNat else 0, cap := cap, number := n, held := u.heldBy w.team }
         exec i s = .next (s.finished w i ((((u.fresh.2.updQuartet k fun x => { x with queue := x.queue ++ [q] }).updTeam w.team
           fun t => { t with qPosted := n, owed := t.owed + 1 }).addCount w.launch 1).putG w f.gd.toNat (BitVec.ofNat 32 n)))) ∧
       (s.mustWait w cap = true → exec i s = .next (s.awaiting w i s { kind := .post, cap := cap, n := 0x5000 + k }))) ∧
     ((s.team w.team).roles.get? 29 = none → ∃ ops, exec i s = .next (s.raised w i ops s { code := 5, lanes := (s.frag w).mask }))) ∧
    (let i := Instr.raywt f
     let e := i.extU f
     let cap := s.scopeCap w e.byte
     let n := wv.greg f.ga.toNat
     let got (n : Word) : Prop := (BitVec.ofNat 32 (s.team w.team).qDone - n).toNat < 2 ^ 31
     let status (n : Word) : Word := match (s.team w.team).qEnded.find? fun x => BitVec.ofNat 32 x.1 == n with
       | some (_, st) => BitVec.ofNat 32 st | none => 0xFF
     s.runs w i f → (s.team w.team).roles.get? 29 ≠ none →
     (s.ready w = true → cap.set.valid = true →
       (got n → exec i s = .next (s.finished w i ((s.waitAcquire w cap).laterG w [(f.gd.toNat, status n)]))) ∧
       (¬ got n → e.mod.getLsbD 2 = true → exec i s = .next (s.finished w i (s.laterG w [(f.gd.toNat, 0xFFFFFFFE)]))) ∧
       (¬ got n → e.mod.getLsbD 2 = false → exec i s = .next (s.awaiting w i s { kind := .ray, n := n.toNat, cap := cap }))) ∧
     (s.waitsFor w .ray → e.mod.getLsbD 2 = false → got (BitVec.ofNat 32 (s.frag w).wait.n) →
       exec i s = .next (s.finished w i ((s.waitAcquire w (s.frag w).wait.cap).putG w f.gd.toNat (status (BitVec.ofNat 32 (s.frag w).wait.n))))))

namespace Sys2Proof
namespace Machine

/-! ## Words of the statements about the geometry front and the atlas -/

/-- The pipeline descriptor at an address, with the team descriptors that it names, all read, checked and acquired (R286, Table 11.1). -/
def State.pipeline (s : State) (w : Who) (a : Addr) : Option (State × PipeDesc) :=
  match s.block w 2 a 128 with
  | none => none
  | some (t, bs) =>
    let x := leNat bs
    let at_ := match t.laneTr w none a 128 false with
      | .ok locs => some (locs.headD 0, Place.home)
      | _ => none
    let u := t.acquire w (t.captured w 4) (some (a, at_))
    let lp := (u.launch w.launch).lanepriv
    let ma : Addr := BitVec.ofNat 64 (bitsAt x 0 64)
    let sa : Addr := BitVec.ofNat 64 (bitsAt x 64 64)
    if !(pipeOf x a).2.2.2 || ma.toNat % 64 != 0 || sa.toNat % 64 != 0 then none
    else match u.block w 2 ma 64 with
      | none => none
      | some (v, ms) =>
        let mx := leNat ms
        let p := { (pipeOf x a).1 with mesh := descOf mx, sw := none }
        if !descOk mx lp none || (descOf mx).teams != 1 || (descOf mx).affname != 0 then none
        else if sa == 0 then some (v, p)
        else match v.block w 2 sa 64 with
          | none => none
          | some (z, ss) => let sx := leNat ss; if !descOk sx lp none || (descOf sx).waves != 1 || (descOf sx).width != 4 then none else some (z, { p with sw := some (descOf sx) })

/-- Slot `k` of the issuer's die holds a payload: its bytes and its n mesh tickets (R287). -/
def State.payload (s : State) (w : Who) (gd k : Nat) (p : PipeDesc) (size n : Nat) (bytes : List Byte) : State :=
  let m := bytes.zipIdx.foldl (fun m x => m.put (payLoc w.die k x.2) x.1) (s.mem.clear (payLoc w.die k 0) (payLoc w.die k 65536))
  let grid := (s.launch w.launch).grids
  let t := ((({ s with mem := m } : State).addCount w.launch (n + 1)).updLaunch w.launch fun l => { l with grids := l.grids + 1 }).recordDraw w.ctx w.launch p.addr
  (t.updDie w.die fun x =>
    { x with slots := x.slots.set k { held := true, launch := w.launch, ctx := w.ctx, desc := p, size := size, meshes := n },
             meshPending := x.meshPending ++ [{ launch := w.launch, grid := grid, desc := p.mesh, kind := .mesh k, next := 0, bound := n }] }).putG w gd
    (BitVec.ofNat 32 k)

/-- The probes of an atlas table of `size` entries from entry h on, for at most the count given: the state after the reads, and where they
end: at the key, with its block, or at a free entry; none where all are taken (R299). -/
def State.probed (s : State) (w : Who) (a : Addr) (key : BitVec 64) (size h : Nat) : Nat → Option (State × Option (Addr × Option Nat))
  | 0 => some (s, none)
  | n + 1 =>
    let e := a + BitVec.ofNat 64 (16 + 16 * (h % size))
    match s.block w 2 e 16 with
    | none => none
    | some (t, bs) =>
      let x := leNat bs
      if bitsAt x 0 64 == key.toNat then some (t, some (e, some (bitsAt x 64 32)))
      else if bitsAt x 0 64 == 0 then some (t, some (e, none))
      else t.probed w a key size (h + 1) n

/-- The device location of 16 bytes that the fragment may write; none where there is none. -/
def State.tableAt (s : State) (w : Who) (a : Addr) : Option Nat :=
  match joinTr a 16 (fun c => s.trFrag w c true) with
  | .ok locs => if locs.all isDev then some (locs.headD 0) else none
  | _ => none

end Machine
end Sys2Proof

/-- R285 to R290, R478 to R481: PAYW takes a payload slot of its die, the lowest FREE one, or waits for one behind the waiters that come
first; once its earlier stores are performed it fills its slot and makes its mesh tickets. PAYR reads a word of the mesh team's payload; EMIT
takes a meshlet's triangles in order, once its earlier stores are performed, dropping culled ones and setting BOUND for one that names a
vertex past the block's, or waits for room.
It rests on the model's reading in log entry 29. -/
def Obligations.MeshInstructions : Prop :=
  ∀ (f : UForm) (s : State) (w : Who),
    let wv := s.regs w
    let mask := (s.frag w).mask
    (let i := Instr.payw f
     let r := ((i.extU f).src3).toNat
     let d := wv.g64 f.ga.toNat
     let pay := wv.g64 f.gb.toNat
     let size := (wv.greg r).toNat
     let n := (wv.greg (r + 1)).toNat
     let fills (u : State) (k : Nat) (p : PipeDesc) : Prop :=
       (size = 0 → exec i s = .next (s.finished w i (u.payload w f.gd.toNat k p size n []))) ∧
       (0 < size → (u.hindered w.core fun q => q.slot == w.slot) = false → ∀ v bs, (u.storesDone w).block w 1 pay size = some (v, bs) →
         exec i s = .next (s.finished w i (v.payload w f.gd.toNat k p size n bs)))
     s.runs w i f →
     ((s.die w.die).takenBy w.core w.entry = none → d.toNat % 128 = 0 → pay.toNat % 16 = 0 → size ≤ 16384 → size % 16 = 0 → 0 < n →
       n ≤ 65535 → ∀ t p, s.pipeline w d = some (t, p) → (isWindow pay = true → (t.winLoc w.team none pay size).isSome = true) →
       let waiting := (t.frag w).st == .syncwait && (t.frag w).wait.kind == .payload
       let free := [0, 1, 2, 3].find? fun k => ((t.die w.die).slots.get? k).isNone
       let first := t.firstWaiter w.die (t.ctx w.ctx).prio.toNat (if waiting then (t.frag w).wait.n else t.nextId)
       (∀ k, free = some k → first = true →
         fills ((t.updDie w.die fun x =>
             { x with slots := x.slots.set k { held := true, desc := p, taker := some (w.team, w.core, w.entry) } }).updFrag w
           fun g => if waiting then { g with st := g.runSt, wait := {} } else g) k p) ∧
       (free = none ∨ first = false → waiting = false →
         exec i s = .next (s.awaiting w i t.fresh.2 { kind := .payload, n := t.nextId }))) ∧
     (∀ k, (s.die w.die).takenBy w.core w.entry = some k → fills s k ((s.die w.die).slots.getD k {}).desc)) ∧
    (let i := Instr.payr f
     let o := ((s.wave w).greg f.ga.toNat).toNat
     s.runs w i f →
     (∀ d k j, (s.team w.team).mesh = some (d, k, j) → o % 4 = 0 → o < ((s.die d).slots.getD k {}).size →
       exec i s = .next (s.finished w i (s.putG w f.gd.toNat (BitVec.ofNat 32 (leNat ((List.range 4).map fun b => s.mem.get (payLoc d k (o + b)))))))) ∧
     ((s.team w.team).mesh = none → ∃ ops, exec i s = .next (s.raised w i ops s { code := 5, lanes := mask }))) ∧
    (let i := Instr.emit f
     let a := wv.g64 f.ga.toNat
     let verts := (wv.greg f.gb.toNat).toNat % 256
     let tris := (wv.greg f.gb.toNat).toNat / 256 % 256
     let number := (wv.greg f.gd.toNat).toNat % 2 ^ 24
     s.runs w i f → ∀ src k j, (s.team w.team).mesh = some (src, k, j) →
       (isWindow a = true → (s.winLoc w.team none a 2176).isSome = true) → a.toNat % 16 = 0 →
     (verts ≤ 96 → tris ≤ 160 → ((List.range 8).any fun d => decide (256 ≤ (s.die src).inFlight d)) = false →
       let u := s.updFrag w fun g => if g.st == .syncwait then { g with st := g.runSt, wait := {} } else g
       (u.hindered w.core fun q => q.slot == w.slot) = false →
       ∀ t block, (u.storesDone w).block w 1 a 2176 = some (t, block) →
       let p := ((t.die src).slots.getD k {}).desc
       let word (o : Nat) : Word := BitVec.ofNat 32 (leNat ((block.drop o).take 4))
       let vert (v : Nat) : List Word := [word (16 * v), word (16 * v + 4), word (16 * v + 8), word (16 * v + 12)]
       exec i s = .next (s.finished w i ((List.range tris).foldl (fun u m =>
         let x := (word (1536 + 4 * m)).toNat
         let is := [x % 256, x / 256 % 256, x / 65536 % 256]
         if is.any fun v => decide (verts ≤ v) then u.updWave w fun wv => wv.orFlags Fl.bound
         else if x / 2 ^ 24 % 2 = 1 then u
         else u.emitTri w src k p (BitVec.ofNat 32 (number * 256 + m)) (is.flatMap vert) (keep p.width p.height p.cull (is.map fun v => vtxOf (vert v)))) t))) ∧
     (96 < verts ∨ 160 < tris → ∃ ops, exec i s = .next (s.raised w i ops s { code := 15, lanes := mask, addr := a })) ∧
     (verts ≤ 96 → tris ≤ 160 → ((List.range 8).any fun d => decide (256 ≤ (s.die src).inFlight d)) = true → (s.frag w).st ≠ .syncwait →
       exec i s = .next (s.awaiting w i s { kind := .emit })))

/-- R299, R482: ATLREQ finds its key in the table, answering the block there; enters it with the next block at the free entry its probes reach;
or, with no block or entry left, sets FULL and answers all ones. It acts as acq_rel at the system scope, and waits while the release is owed
acknowledgements.
It rests on the model's reading in log entry 29. -/
def Obligations.AtlasRequests : Prop :=
  ∀ (f : UForm) (s : State) (w : Who),
    let i := Instr.atlreq f
    let a := (s.regs w).g64 f.ga.toNat
    let key := (s.regs w).g64 f.gb.toNat
    let cap := s.captured w 4
    s.runs w i f → key ≠ 0 → isWindow a = false → a.toNat % 16 = 0 →
    (s.mustWait w cap = true → (s.tableAt w a).isSome = true → (s.frag w).st ≠ .syncwait →
      exec i s = .next (s.awaiting w i s { kind := .post, cap := cap })) ∧
    (s.mustWait w cap = false → ∀ l t bs, s.tableAt w a = some l → (s.releaseFor w cap a).block w 2 a 16 = some (t, bs) →
      let x := leNat bs
      4 ≤ bitsAt x 64 4 → bitsAt x 69 59 = 0 →
      let size := 2 ^ bitsAt x 64 4
      let next := bitsAt x 0 32
      let put (u : State) (o : Nat) (bs : List Byte) : State := u.writeBytes .home (u.tagOf w.ctx) (bs.mapIdx fun i b => (o + i, b))
      let ends (u v : State) (g : Nat) : State :=
        ((u.keepRels .home l v).acquire w cap (some (a, some (l, .home)))).putG w f.gd.toNat (BitVec.ofNat 32 g)
      let wrote (u v : State) : State :=
        v.noteRelease { loc := l, place := .home, party := .core w.core, set := cap.set, binds := some (u.bound w a) }
      ∀ u r, t.probed w a key size (key.toNat % size) size = some (u, r) →
        (∀ e g, r = some (e, some g) → exec i s = .next (s.finished w i (ends u u g))) ∧
        (∀ e m, r = some (e, none) → next < bitsAt x 32 32 → u.tableAt w e = some m →
          exec i s = .next (s.finished w i (wrote u (ends u
            (put (put u m (natBytes 8 key.toNat ++ natBytes 4 next)) l (natBytes 4 (next + 1))) next)))) ∧
        (r = none ∨ (∃ e, r = some (e, none)) ∧ bitsAt x 32 32 ≤ next →
          exec i s = .next (s.finished w i (wrote u (ends u (put u (l + 8) (natBytes 4 (bitsAt x 64 4 + 16))) 0xFFFFFFFF)))))

namespace Sys2Proof
namespace Machine

/-! ## Words of the statements about the machine as a whole -/

/-- No opcode map assigns a word: it is neither a lane row, a uniform row nor a branch (R366, R367). -/
def unassignedWord (x : Word) : Bool :=
  if wordUni x then (branchOf (wordMajor x)).isNone && (uniMap (wordMajor x) (x.toNat % 32)).isNone
  else (laneMap (wordMajor x) (x.toNat % 4)).isNone

/-- No fragment holds the turn. -/
def State.idleTurn (s : State) : State := { s with cur := none }

/-- What a fragment's issue at the head of the agenda comes to once instruction `i` is at hand in state t (R5, R149). -/
def afterIssue (t : State) (c : Nat) (i : Instr) : Host.Outcome State Fault Refusal :=
  match exec i t with
  | .next u => .next (u.idleTurn.tickCore c).after
  | .fault r => .fault r
  | .refused r => .refused r

end Machine
end Sys2Proof

/-- Tables 1.3, 1.4, 2.3, 4.1, 5.2, 6.3, 8.2, 8.3, 12.7 and 13.9: the reset values that the tables give. -/
def Obligations.ResetValues : Prop :=
  let s := State.reset
  let m := s.mgmt
  (m.cap = 0x2EE0 ∧ m.capErr = false ∧ m.clkStep = 0 ∧ m.pool = 0 ∧ m.refill = 0 ∧ m.otherW = 0) ∧
  (m.authFail = false ∧ m.ready = false ∧ m.step = 1 ∧ m.warm = false ∧ m.degraded = false ∧ m.fenced = 0 ∧ m.devValid = false ∧
    m.devNum = 0 ∧ m.errCount = 0) ∧
  (∀ p, (m.fabPorts.getD p {}).up = false ∧ (m.fabPorts.getD p {}).retrain = false ∧ (m.fabPorts.getD p {}).fails = 0 ∧
    (m.cxlPorts.getD p {}).up = false ∧ (m.cxlPorts.getD p {}).capacity = 0 ∧ m.routes.get? p = none) ∧
  (∀ c, let x := s.ctx c
    x.st = .free ∧ x.cfgerr = 0 ∧ x.ringerr = false ∧ x.errlost = false ∧ x.fb = false ∧ x.prio = 0 ∧ x.pasid = 0 ∧ x.quota = 64 ∧
    x.legmask = 0 ∧ x.acc = 0 ∧ x.minmax = 0 ∧ x.nancan = false ∧ x.flush = false ∧ x.trappc = 0 ∧ x.segback = 0 ∧ x.errbase = 0 ∧
    x.dring = 0 ∧ x.spillBase = 0 ∧ x.spillPages = 0 ∧ x.irq = 0 ∧ x.irqen = 0 ∧ x.quantum = 0 ∧ x.fbdies = 0xFF ∧ x.subTail = 0 ∧
    x.subHead = 0 ∧ x.dringHead = 0 ∧ x.errCount = 0 ∧ (∀ i, (x.rankprog.getD i 0) = 0) ∧
    (∀ i, (x.scopes.getD i {}).valid = false ∧ (x.scopes.getD i {}).gen = 0 ∧ (x.binds.getD i {}).valid = false ∧
      (x.segs.getD i {}).st = .released ∧ (x.segs.getD i {}).name = 0) ∧
    x.dbg.obj = 0 ∧ x.dbg.err = false ∧ x.dbg.attach = false) ∧
  ∀ n, (s.core n).mode = .startUp ∧ (s.core n).missThresh = 256 ∧ (s.core n).cycle = 0 ∧ (∀ p, ((s.core n).pipe p).sr = 0x2545F491) ∧
    (∀ e, ((s.core n).frag e).st = .free) ∧
    s.boardOf n = { retired := false, waves := 191, scr := 1536, tiles := 32, quads := [768, 768, 768, 768], blocks := [4096, 4096, 4096, 4096] }

/-- Words that the manual writes out decode to the instructions it names, and those that it names as refused are refused for its
reason (R349 to R357). -/
def Obligations.DecodedWords : Prop :=
  let ok (w e : Word) (i : Instr) : Prop := decodeWords .largest w e = .ok i
  let no (w e : Word) (c : Nat) : Prop := ∃ d, decodeWords .largest w e = .error d ∧ d.cause = c
  ok 0x0005040C 0 (.iadd { sw := false, vd := 5, va := 2, vb := 3, ext := none }) ∧
  ok 0x28080A18 0x200B2000 (.fadd { sw := false, vd := 8, va := 5, vb := 6,
                                    ext := some { gsense := false, guard := 2, src3 := 0, fmt := 11, rnd := 1, sat := false, usrc := false, mod := 0, byte := 0 } }) ∧
  ok 0x24090002 0x80000000 (.movi { sw := false, vd := 9, va := 0, vb := 0, imm := 0x80000000 }) ∧
  ok 0x34070E00 0x00E0062A (.shfl { sw := false, vd := 7, va := 7, vb := 0,
                                    ext := some { gsense := false, guard := 0, src3 := 7, fmt := 0, rnd := 0, sat := false, usrc := false, mod := 6, byte := 0x2A } }) ∧
  ok 0x36088819 0x04060042 (.st { sw := false, vd := 8, va := 0x44, vb := 6,
                                  ext := some { gsense := false, guard := 0, src3 := 0x20, fmt := 6, rnd := 0, sat := false, usrc := false, mod := 0, byte := 0x42 } }) ∧
  ok 0x880FFFFB 0 (.bra { sw := false, sense := false, pred := 1, off := 0x7FFFB }) ∧
  ok 0xA3820001 4 (.gldI { sw := false, gd := 1, ga := 0, gb := 0, imm := 4 }) ∧
  ok 0x8A000002 0 (.exit { sw := false, gd := 0, ga := 0, gb := 0, ext := none }) ∧
  ok 0x900A0320 0 (.mfs { sw := false, gd := 5, ga := 0, gb := 25, ext := none }) ∧
  ok 0x980C2001 0 (.cpywt { sw := false, gd := 6, ga := 4, gb := 0, ext := none }) ∧
  no 0x2005040C 0x0000E000 4 ∧ no 0x2005040C 0x00002000 3 ∧ no 0x0001040D 0 3 ∧ no 0x36088819 0x04060022 5 ∧ no 0xA8800000 0 3

/-- R349 to R355: decoding the words of a well-formed instruction gives it back, from its words and from its bytes, and every word that
decodes is encoded by its instruction alone: no bit of an encoding is dropped. -/
def Obligations.DecodeEncodeAgree : Prop :=
  (∀ (sh : WaveShape) (i : Instr) (w : Word) (e : Option Word), i.WellFormed sh = true → encode i = some (w, e) →
    (∀ x y, i = .unassignedEncoding x y → unassignedWord x = true ∧ (wordX x = false → y = 0)) →
    decodeWords sh w (e.getD 0) = .ok i ∧ wordX w = e.isSome ∧
      decode sh (wordBytes w ++ (e.map wordBytes).getD []) = .ok (i, [])) ∧
  ∀ (sh : WaveShape) (w e : Word) (i : Instr), decodeWords sh w e = .ok i →
    i.WellFormed sh = true ∧ encode i = some (w, if wordX w then some e else none)

/-- R5, R149, R358: where a fragment that may issue is next and its words decode to instruction i, the step is exec of i, then a cycle of its
core; a word that fails a check takes ILLOP with its cause instead. A word is fetched from the four bytes of memory that its address
translates to, where no cache holds them.
The agenda that says who moves next is the model's choice (log entry 1). -/
def Obligations.StepRunsDecoded : Prop :=
  ∀ (s : State) (c e : Nat) (rest : List Turn), s.agenda = .issue c e :: rest →
    let u : State := { s with agenda := rest }
    let w := s.whoAt c e
    u.mayIssue c e = true →
    (∀ t x ext, ({ u with cur := some (c, e) } : State).fetch w = .words t x ext →
      (∀ i, decodeWords (t.wave w).shape x (ext.getD 0) = .ok i → step s = afterIssue t c i) ∧
      (∀ d, decodeWords (t.wave w).shape x (ext.getD 0) = .error d → 2 < d.cause →
        step s = .next ((t.illop w x ext d.cause).idleTurn.tickCore c).after)) ∧
    ∀ (a : Addr) (key base : Nat) (b : Nat → Byte), isWindow a = false → isDev base = true →
      base % Config.lineBytes + 4 ≤ Config.lineBytes →
      joinTr a 4 (fun x => s.trFrag w x false) = .ok (locsFrom base 4) →
      let t := s.fillCore w [a] false
      let n := base / Config.lineBytes
      (t.core w.core).icache.get? n = none → (t.die (dieOf w.core)).l2.get? n = none →
      (∀ k < 4, t.homeRead (t.tagOf w.ctx) (base + k) = (b k, false)) →
      ∃ v, s.fetchWord w a key = .ok (b 3 ++ b 2 ++ b 1 ++ b 0, v)

/-- Memory has its canonical form at reset: strictly rising locations, none listed with what an unlisted one reads as.
The form and what an unlisted location reads as are the model's choice (log entry 2). -/
def Obligations.MemoryFormAtReset : Prop :=
  State.reset.memWf ∧ ∀ loc, State.reset.mem.get loc = Mem.dflt

/-- Every step keeps memory's canonical form, so that memories that read alike are equal data. -/
def Obligations.MemoryFormKept : Prop :=
  (∀ s t, s.memWf → step s = .next t → t.memWf) ∧
  ∀ m n : Mem, m.wf = true → n.wf = true → (∀ loc, m.get loc = n.get loc) → m.cells = n.cells

/-- The frame of completion (R146, R153, R156): beside its own effect t, an instruction that completes moves its fragment on and counts; every
register, predicate and flag, every other wave and fragment, all of memory and every unit is as t has it. -/
def Obligations.CompletionFrame : Prop :=
  ∀ (s t : State) (w : Who) (i : Instr),
    let u := s.finished w i t
    let f := t.frag w
    let wv := t.wave w
    ((u.frag w).pc = (s.frag w).pc + BitVec.ofNat 64 (wordLen (wordOf i)) ∧
      (u.frag w).budget = (if (s.frag w).again then f.budget else f.budget - 1) ∧ (u.frag w).mask = f.mask ∧ (u.frag w).trap = f.trap ∧
      (u.frag w).frames = f.frames ∧ (u.frag w).board = f.board ∧
      (u.frag w).st = (if wordS (wordOf i) = true ∧ f.board ≠ [] then .swait else if f.trap.isSome then .trap else .run)) ∧
    ((u.wave w).v = wv.v ∧ (u.wave w).g = wv.g ∧ (u.wave w).p = wv.p ∧ (u.wave w).q = wv.q ∧ (u.wave w).fpmode = wv.fpmode ∧
      (u.wave w).fpflags = wv.fpflags ∧ (u.wave w).som = wv.som ∧ (u.wave w).fuseTo = wv.fuseTo ∧ (u.wave w).cyclehi = wv.cyclehi ∧
      (u.wave w).streams = wv.streams ∧ (u.wave w).pend = wv.pend ∧ (u.wave w).exited = wv.exited ∧ (u.wave w).acq = wv.acq ∧
      (u.wave w).region = wv.region) ∧
    (∀ c k, (c ≠ w.core ∨ k ≠ w.slot) → (u.core c).wave k = (t.core c).wave k) ∧
    (∀ c e, (c ≠ w.core ∨ e ≠ w.entry) → (u.core c).frag e = (t.core c).frag e) ∧
    (∀ loc, u.mem.get loc = t.mem.get loc) ∧ u.mem = t.mem ∧ u.teams = t.teams ∧ u.launches = t.launches ∧ u.ctxs = t.ctxs ∧
    u.dies = t.dies ∧ u.quartets = t.quartets ∧ u.board = t.board ∧ u.mgmt = t.mgmt ∧ u.link = t.link ∧ u.woad = t.woad ∧
    ∀ c, (u.core c).posts = (t.core c).posts ∧ (u.core c).pipes = (t.core c).pipes ∧ (u.core c).l1 = (t.core c).l1 ∧
      (u.core c).mode = (t.core c).mode ∧ (u.core c).missThresh = (t.core c).missThresh

/-- The frame of a lane instruction's results (R338, R361, R375, R376): a register or predicate changes only where a listed lane's result
names it, p0 never; %fpflags gains the union of the flags; no other register of any wave and no byte of memory changes. -/
def Obligations.LaneResultFrame : Prop :=
  ∀ (s : State) (w : Who) (outs : List (Nat × LaneOut)), (outs.map Prod.fst).Nodup → (∀ o ∈ outs, o.1 < 64) →
    let u := s.writeLanes w outs
    let wv := s.wave w
    let wu := u.wave w
    (∀ l r, l < 64 → (∀ o ∈ outs, o.1 = l → ∀ x ∈ o.2.v, x.1 ≠ r) → wu.vreg l r = wv.vreg l r) ∧
    (∀ l o, (l, o) ∈ outs → ∀ r x, o.v = [(r, x)] → wu.vreg l r = x) ∧
    (∀ l k, l < 64 → (k = 0 ∨ ∀ o ∈ outs, o.1 = l → o.2.p.map Prod.fst ≠ some k) → wu.pred l k = wv.pred l k) ∧
    (∀ l o k b, (l, o) ∈ outs → o.p = some (k, b) → k ≠ 0 → wu.pred l k = b) ∧
    wu.fpflags = wv.fpflags ||| (flagUnion outs).setWidth 32 ∧
    (wu.g = wv.g ∧ wu.q = wv.q ∧ wu.fpmode = wv.fpmode ∧ wu.som = wv.som ∧ wu.fuseTo = wv.fuseTo ∧ wu.streams = wv.streams ∧
      wu.pend = wv.pend ∧ wu.acq = wv.acq) ∧
    (∀ c k, (c ≠ w.core ∨ k ≠ w.slot) → (u.core c).wave k = (s.core c).wave k) ∧ (∀ c e, (u.core c).frag e = (s.core c).frag e) ∧
    (∀ loc, u.mem.get loc = s.mem.get loc) ∧ u.mem = s.mem ∧ u.teams = s.teams ∧ u.launches = s.launches ∧ u.ctxs = s.ctxs ∧
    u.dies = s.dies ∧ u.quartets = s.quartets ∧ u.mgmt = s.mgmt

/-- R20 to R28, R100, R162: a start takes the nine steps, ending at step 9 with READY and every live core in service with its agent in slot 191
where both signatures over the firmware's SHA-384 digest verify, or at step 6 with AUTH_FAIL; a cold start takes the reset values, a warm one keeps what the tables say; removal of power keeps
the flash alone; a write of PWR_CAP, the refill of tokens and the step of the clock follow their rules; a core's mode changes as R162 says.
It rests on the model's readings in log entries 10 and 14: a start runs its steps in one event. -/
def Obligations.PowerAndStarts : Prop :=
  ∀ s : State,
    let m := s.mgmt
    let sha := sha384 m.images
    let verified := Config.ecdsaVerify sha m.images && Config.lmsVerify sha m.images
    let started (u : State) (warm ok : Bool) : Prop :=
      u.mgmt.power = true ∧ u.mgmt.warm = warm ∧ u.mgmt.images = m.images ∧ u.mgmt.retiredUnits = m.retiredUnits ∧ u.mgmt.flashLog = m.flashLog ∧
      u.mgmt.pool = 0 ∧ u.mgmt.refill = 0 ∧ u.mgmt.clkStep = 0 ∧ u.mgmt.devValid = false ∧ u.mgmt.measurement = sha ∧
      u.mgmt.cap = (if warm then m.cap else 0x2EE0) ∧ u.mgmt.errCount = (if warm then m.errCount else 0) ∧
      u.mgmt.errlog = [] ∧ u.teams = [] ∧ u.launches = [] ∧ u.ctxs = [] ∧
      (∀ l, isChip l = true → u.mem.get l = Mem.dflt) ∧ (∀ l, isChip l = false → u.mem.get l = s.mem.get l) ∧
      u.mgmt.ready = ok ∧ u.mgmt.step = (if ok then 9 else 6) ∧
      (ok = true → ∀ k, k < 65 → u.mgmt.keyGen.getD k 0 = m.keyGen.getD k 0 + 1) ∧
      ∀ n < 320, (u.core n).mode = (if ok && !(u.core n).retired then .service else .startUp) ∧ (u.core n).missThresh = 256 ∧
        (u.core n).cycle = 0 ∧ (n ∈ m.retiredUnits → (u.core n).retired = true) ∧
        (ok = true → (u.core n).retired = false → (u.core n).waves.get? 191 = some agentWave) ∧ ∀ p, ((u.core n).pipe p).sr = 0x2545F491
    (∃ u, exec .coldStart s = .next u ∧ started u false verified ∧ u.mgmt.authFail = !verified) ∧
    (m.power = true → s.inp.flag = false → m.authKept ≠ some (sha, true) →
      ∃ u, exec .warmStart s = .next u ∧ started u true verified ∧ u.mgmt.authFail = !verified) ∧
    (m.power = true → s.inp.flag = false → m.authKept = some (sha, true) → ∃ u, exec .warmStart s = .next u ∧ started u true true) ∧
    (m.power = true → s.inp.flag = true → exec .warmStart s = exec .coldStart s) ∧
    (s.inp.val % 2 = 1 → s.inp.id % 2 = 1 → ∃ u, exec .resetCtlWarm s = .next u ∧ u.ctxs = [] ∧ u.teams = [] ∧ u.mgmt = m ∧
      u.link.sent = s.link.sent ++ List.replicate s.inp.unit .unsupported ∧
      u.agenda = .event .warmStart { start := s.inp.start, flag := s.inp.flag } :: s.agenda) ∧
    (∃ u, exec .powerRemoval s = .next u ∧ u.mgmt.power = false ∧ u.mgmt.images = m.images ∧ u.mgmt.retiredUnits = m.retiredUnits ∧
      u.mgmt.flashLog = m.flashLog ∧ u.mgmt.interleave = m.interleave ∧ u.ctxs = [] ∧ u.teams = [] ∧ u.cores = [] ∧ u.mgmt.cap = 0x2EE0 ∧
      ∀ l, 2 ^ 64 ≤ l → l < 2 ^ 80 → u.mem.get l = s.mem.get l) ∧
    (∃ u, exec .pwrCapWrite s = .next u ∧ u.mgmt.cap = m.cap ∧
      (s.inp.id % 4 = 3 → 6000 ≤ s.inp.val % 65536 → s.inp.val % 65536 ≤ 14000 → u.mgmt.capNext.toNat = s.inp.val % 65536) ∧
      (s.inp.id % 4 = 3 → s.inp.val % 65536 < 6000 ∨ 14000 < s.inp.val % 65536 → u.mgmt.capNext = m.capNext ∧ u.mgmt.capErr = true) ∧
      (s.inp.id % 4 = 0 → u.mgmt.capNext = m.capNext ∧
        u.mgmt.capErr = (m.capErr && !(s.inp.id / 8 % 2 == 1 && s.inp.val / 2 ^ 31 % 2 == 1)))) ∧
    (m.power = true → ∃ u, exec .tokenRefill s = .next u ∧ u.mgmt.cap = m.capNext ∧ u.mgmt.otherW = s.inp.val ∧
      u.mgmt.pool = min 10000 (m.pool + min 5000 ((m.capNext.toNat - s.inp.val) * 1000 / 1680)) ∧
      (m.pool ≤ 10000 → m.pool + u.mgmt.refill = u.mgmt.pool) ∧ u.mgmt.uptime = m.uptime + 1 ∧ u.cores = s.cores) ∧
    (∃ u, exec .clockStep s = .next u ∧ (m.cap.toNat < m.otherW → u.mgmt.clkStep = min 8 (m.clkStep + 1)) ∧
      (m.otherW + 500 < m.cap.toNat → u.mgmt.clkStep = m.clkStep - 1) ∧
      (m.otherW ≤ m.cap.toNat → m.cap.toNat ≤ m.otherW + 500 → u.mgmt.clkStep = m.clkStep)) ∧
    ∃ u, exec .coremodeChange s = .next u ∧
      (let n := s.inp.unit
       let c := s.core n
       (c.retired = true → u = s) ∧
       (c.retired = false → s.inp.mode = .recovery → m.ready = true → (u.core n).mode = .recovery ∧ u.boardOf n = s.boardNow n) ∧
       (c.retired = false → s.inp.mode = .selfTest → s.occupied n = false → (u.core n).mode = .selfTest) ∧
       (c.retired = false → s.inp.mode = .selfTest → s.occupied n = true → (u.core n).mode = c.mode ∧ (u.core n).draining = true ∧
         ∀ x ∈ s.teams, x.2.st = .resident → x.2.core = n → ∃ y ∈ u.teams, y.1 = x.1 ∧ y.2.preempt = true) ∧
       (c.retired = false → s.inp.mode = .service → c.mode = .selfTest → s.inp.flag = true → n < 320 →
         (u.core n).retired = true ∧ n ∈ u.mgmt.retiredUnits) ∧
       (c.retired = false → s.inp.mode = .service → c.mode ≠ .selfTest ∨ s.inp.flag = false → m.ready = true → (u.core n).mode = .service))

namespace Sys2Proof
namespace Machine

/-! ## Words of the statements about events -/

/-- Event `i` goes on to a state of which p holds. -/
def comes (i : Instr) (s : State) (p : State → Prop) : Prop := ∃ u, exec i s = .next u ∧ p u

/-- An error-log entry has been written for a row and is the youngest, in the log and in flash (Table 2.4). -/
def State.logged (s u : State) (unit array row kind : Nat) : Prop :=
  let e : LogEntry := { time := s.mgmt.uptime, unit := unit, array := array, row := row, kind := kind }
  u.mgmt.errlog.get? (s.mgmt.errCount % 256) = some e ∧ u.mgmt.flashLog.get? (s.mgmt.errCount % 256) = some e ∧
    u.mgmt.errCount = (s.mgmt.errCount + 1) % 65536

/-- The memory, the contexts and the teams of two states agree. -/
def State.sameWork (s u : State) : Prop := u.mem = s.mem ∧ u.ctxs = s.ctxs ∧ u.teams = s.teams ∧ u.launches = s.launches

end Machine
end Sys2Proof

/-- R29, R33 to R36, R40, R44, R48, R50, R53, R54, R58: each SPDM request is answered under the identity key; a soft error is logged, poisons
what it struck and starts its row's test; a test's result is logged and keeps or frees the spare; a line that a CXL device reports as poisoned
fails as a port that is down does; registers read and written act by their access codes, and a wide entry takes effect whole with its high
word; a request to BAR2, or to function 1 before READY, is unsupported.
It rests on the model's readings in log entries 10, 13, 15 and 17. -/
def Obligations.ManagementAndRegisters : Prop :=
  ∀ s : State,
    let x := s.inp
    let m := s.mgmt
    (m.power = true → ∀ p ∈ ([(.getVersion, 1), (.getCapabilities, 2), (.negotiateAlgorithms, 3), (.getDigests, 4), (.getCertificate, 5),
        (.challenge, 6)] : List (Instr × Nat)),
      exec p.1 s = .next (s.send (.spdm p.2 [] (Config.spdmBody p.2 identityKey x.bytes)))) ∧
    (m.power = true → x.item = 1 → exec .getMeasurements s = .next (s.send (.spdm 7 (natBytes 48 m.measurement.toNat).reverse (Config.spdmBody 7 identityKey x.bytes)))) ∧
    (m.power = true → x.item = 2 → exec .getMeasurements s =
      .next (s.send (.spdm 7 (m.retiredUnits.flatMap fun u => natBytes 2 u) (Config.spdmBody 7 identityKey x.bytes)))) ∧
    (m.power = true → exec .unsupportedSpdmRequest s = .next (s.send .spdmUnsupported)) ∧
    (comes .eccError s fun u =>
      (x.flag = false → s.logged u x.row.unit x.row.array x.row.row 1 ∧ s.sameWork u) ∧ u.mgmt.tests.contains x.row = true ∧
      (∀ slot l r, x.flag = true → x.ecc = .vectorReg slot l r →
        s.logged u x.row.unit x.row.array x.row.row 2 ∧ (((u.core x.row.unit).wave slot).badV.get? (r * 64 + l)).isSome = true ∧ s.sameWork u) ∧
      (∀ slot r, x.flag = true → x.ecc = .uniformReg slot r →
        s.logged u x.row.unit x.row.array x.row.row 2 ∧ (((u.core x.row.unit).wave slot).badG.get? r).isSome = true ∧ s.sameWork u) ∧
      (∀ slot r, x.flag = true → x.ecc = .predicate slot r →
        s.logged u x.row.unit x.row.array x.row.row 2 ∧ (((u.core x.row.unit).wave slot).badP.get? r).isSome = true ∧ s.sameWork u) ∧
      (∀ slot, x.flag = true → x.ecc = .uniPred slot →
        s.logged u x.row.unit x.row.array x.row.row 2 ∧ ((u.core x.row.unit).wave slot).badQ = true ∧ s.sameWork u) ∧
      (∀ slot l r, x.flag = true → x.ecc = .streamReg slot l r →
        s.logged u x.row.unit x.row.array x.row.row 2 ∧ (((u.core x.row.unit).wave slot).badS.get? (r * 64 + l)).isSome = true ∧ s.sameWork u) ∧
      (∀ e, x.flag = true → x.ecc = .splitEntry e →
        s.logged u x.row.unit x.row.array x.row.row 2 ∧ ((u.core x.row.unit).frag e).bad = true ∧ s.sameWork u) ∧
      (∀ lvl n, x.flag = true → x.ecc = .cleanCache lvl n → s.logged u x.row.unit x.row.array x.row.row 2) ∧
      ∀ locs, x.flag = true → x.ecc = .data locs → (∀ l ∈ locs, isChip l = true) →
        s.logged u x.row.unit x.row.array x.row.row 2 ∧ (∀ l ∈ locs, (u.mem.poison.get? l).isSome = true) ∧ u.mem.cells = s.mem.cells) ∧
    (comes .rowTestResult s fun u =>
      let recent := m.transients.filter fun p => p.1 == x.row && decide (m.uptime < p.2 + 24 * 3600 * 1000000)
      (m.tests.contains x.row = false → u = s) ∧
      (m.tests.contains x.row = true → x.flag = true → recent.length < 2 →
        s.logged u x.row.unit x.row.array x.row.row 3 ∧ u.mgmt.spares.contains (x.row, false) = false ∧ u.mgmt.tests.contains x.row = false) ∧
      (m.tests.contains x.row = true → x.flag = false ∨ 2 ≤ recent.length → m.spares.contains (x.row, false) = true →
        s.logged u x.row.unit x.row.array x.row.row 4 ∧ u.mgmt.spares.contains (x.row, true) = true) ∧
      (m.tests.contains x.row = true → x.flag = false → m.spares.contains (x.row, false) = false → x.val = 1 → x.row.unit < 320 →
        s.logged u x.row.unit x.row.array x.row.row 5 ∧ (u.core x.row.unit).retired = true ∧ x.row.unit ∈ u.mgmt.retiredUnits)) ∧
    (comes .gddr7UncorrectedError s fun u => u.mem.cells = s.mem.cells ∧
      ∀ l, l / Config.lineBytes = x.val / Config.lineBytes → (u.mem.poison.get? l).isSome = true) ∧
    (comes .cxlPoison s fun u => ((m.cxlBad.get? (x.val / Config.lineBytes)).isSome = true → u = s) ∧
      (m.cxlBad.get? (x.val / Config.lineBytes) = none → s.logged u 0xC000 0 x.unit 6 ∧ s.sameWork u ∧
        ∀ l tag, l / Config.lineBytes = x.val / Config.lineBytes → isDev l = true → Config.secondTier ≤ l → (portOf m.cxlSets l).isSome = true →
          u.homeRead tag l = (0, true) ∧ ∀ b bad, (u.homeWrite tag l b bad).mem = u.mem)) ∧
    (comes .cxlPortDown s fun u => ((m.cxlPorts.getD x.unit {}).up = false → u = s) ∧
      ((m.cxlPorts.getD x.unit {}).up = true → (u.mgmt.cxlPorts.getD x.unit {}).up = false ∧ s.logged u 0xC000 0 x.unit 6)) ∧
    (comes .configRequest s fun u =>
      (m.power = true → x.unit = 1 → m.ready = false → u = s.send (.cfgCompletion 1 x.item 1)) ∧
      (m.power = true → x.unit = 1 → m.ready = true → x.flag = true → x.item = 2 → u.link.priAlloc = x.val ∧
        u.link.sent = s.link.sent ++ [.cfgCompletion 1 2 0]) ∧
      (m.power = true → x.unit = 1 → m.ready = true → x.flag = true → x.item = 1 →
        u.link.bar2.toNat = x.val / Config.bar2Size * Config.bar2Size % 2 ^ 64)) ∧
    (comes .registerWrite s fun u => (2 ≤ x.unit ∨ x.unit = 1 ∧ m.ready = false → u = s.send .unsupported) ∧
      (x.unit = 1 → m.ready = true → x.item / 65536 < 64 → ∀ v : Nat, v < 256 → x.item % 65536 = 2 → x.bytes = [BitVec.ofNat 8 v] →
        ((u.ctx (x.item / 65536)).prio.toNat = v ∧ (u.ctx (x.item / 65536)).pasid = (s.ctx (x.item / 65536)).pasid ∧ u.mem = s.mem ∧
          u.cores = s.cores)) ∧
      (x.unit = 1 → m.ready = true → x.item / 65536 < 64 → x.item % 65536 = 8 → (s.ctx (x.item / 65536)).st ≠ .free → x.bytes.length = 4 →
        (u.ctx (x.item / 65536)).pasid = (s.ctx (x.item / 65536)).pasid)) ∧
    (x.unit < 32 → comes .fabPortStatRead s fun u =>
      let p := s.port x.unit
      u.link.sent = s.link.sent ++ [.readData p.stat] ∧ (u.port x.unit).fails = 0 ∧ (u.port x.unit).misroute = 0 ∧ (u.port x.unit).retries = 0 ∧
        (u.port x.unit).up = p.up ∧ (u.port x.unit).retrain = p.retrain ∧ ∀ q, q ≠ x.unit → u.port q = s.port q) ∧
    (x.id = 15 → comes .devNumWrite s fun u => u.mgmt.devNum.toNat = x.val % 2 ^ 22 ∧ u.mgmt.devValid = (x.val / 2 ^ 31 % 2 == 1) ∧
      (x.val / 2 ^ 31 % 2 = 0 → ∀ p < 32, (u.port p).up = false)) ∧
    (∀ i, i < 1024 →
      (x.item = 0x8000 + 16 * i → x.id = 255 → comes .entryLowWordWrite s fun u => u.mgmt.routes = m.routes ∧
        u.mgmt.routeStage.get? i = some (BitVec.ofNat 64 x.val)) ∧
      (x.item = 0x8000 + 16 * i + 8 → x.id = 255 → comes .fabRouteWrite s fun u =>
        u.mgmt.routes.getD i 0 = (BitVec.ofNat 64 x.val ++ (m.routeStage.get? i).getD ((m.routes.getD i 0).extractLsb' 0 64)) &&& routeMask ∧
        u.mgmt.routeStage.get? i = none ∧ ∀ k, k ≠ i → u.mgmt.routes.getD k 0 = m.routes.getD k 0)) ∧
    ∀ c i, c < 64 → i < 16 →
      (x.item = 0x10000 + 256 * c + 16 * i → x.id = 255 → comes .entryLowWordWrite s fun u => (u.ctx c).wins = (s.ctx c).wins ∧
        (u.ctx c).winStage.get? i = some (BitVec.ofNat 64 x.val)) ∧
      (x.item = 0x10000 + 256 * c + 16 * i + 8 → x.id = 255 → comes .fabWinWrite s fun u =>
        (u.ctx c).wins.getD i 0 = (BitVec.ofNat 64 x.val ++ ((s.ctx c).winStage.get? i).getD (((s.ctx c).wins.getD i 0).extractLsb' 0 64)) &&& winMask ∧
        (u.ctx c).winStage.get? i = none ∧ ∀ k, k ≠ c → u.ctx k = s.ctx k)

/-- R50 to R52, R54 to R56: a flit with a bad CRC is asked for again and counted, and its port retrains after 16 retries; one for another device
is dropped and counted; any other brings its operation. A port comes UP and goes down; one that leaves UP, does not retrain or leaves a flit
unacknowledged counts a failure. An operation whose window names no context is refused; one applied before in its epoch gets its answer again;
a peer's store writes its bytes at their home. An acknowledged operation leaves its stream and answers its waiter; a stream without a path keeps
no operation and begins a new epoch; a close is answered once its epoch is acknowledged; a closed stream's entry is free; an operation refused
for now goes out again after its retry. Where its condition does not hold, an event changes nothing.
It rests on the model's readings in log entries 17 and 18. -/
def Obligations.FabricEvents : Prop :=
  ∀ s : State,
    let x := s.inp
    let p := x.unit
    (∀ f, x.flit = some f → s.portUp p = true →
      (f.crcOk = false → comes .flitReceive s fun u => (u.port p).retries = min 65535 ((s.port p).retries + 1) ∧
        u.link.sent = s.link.sent ++ [.resend p] ∧ (16 ≤ (s.port p).run → (u.port p).retrain = true) ∧ s.sameWork u) ∧
      (f.crcOk = true → f.dest ≠ s.mgmt.devNum → comes .flitReceive s fun u => (u.port p).misroute = min 63 ((s.port p).misroute + 1) ∧
        u.fab = s.fab ∧ u.agenda = s.agenda ∧ s.sameWork u) ∧
      (f.crcOk = true → f.dest = s.mgmt.devNum → comes .flitReceive s fun u =>
        u.agenda = .event .fabricOperationArrival { unit := p, stream := f.op.stream, flit := some f } :: s.agenda ∧ s.sameWork u)) ∧
    (x.flit = none ∨ s.portUp p = false → exec .flitReceive s = .next s) ∧
    (32 ≤ p ∨ s.mgmt.devValid = false → exec .portUp s = .next s) ∧
    (p < 32 → s.mgmt.devValid = true → comes .portUp s fun u => (u.port p).up = true ∧ (u.port p).retrain = false ∧ s.sameWork u) ∧
    ((s.port p).up = true → comes .portDown s fun u => (u.port p).up = false ∧ (u.port p).fails = min 255 ((s.port p).fails + 1) ∧ s.sameWork u) ∧
    ((s.port p).up = false → exec .portDown s = .next s) ∧
    ((s.port p).retrain = false → exec .retrainTimeout s = .next s) ∧ (s.unacked p = false → exec .ackTimeout s = .next s) ∧
    ((s.port p).retrain = true → comes .retrainTimeout s fun u => (u.port p).up = false ∧ (u.port p).fails = min 255 ((s.port p).fails + 1) ∧
      s.sameWork u) ∧
    (s.unacked p = true → comes .ackTimeout s fun u => (u.port p).up = false ∧ (u.port p).retrain = true ∧
      (u.port p).fails = min 255 ((s.port p).fails + 1) ∧ s.sameWork u) ∧
    (comes .streamBreak s fun u =>
      let st := s.fab.srcStream x.stream
      (st.ops = [] ∨ s.noPath x.stream = false → u = s) ∧
      (st.ops ≠ [] → s.noPath x.stream = true → (u.fab.srcStream x.stream).ops = [] ∧ (u.fab.srcStream x.stream).fresh = true)) ∧
    (∀ f, x.flit = some f →
      (s.fab.dstStream f.op.stream = none → s.fab.dstFull = false → f.op.num = 0 → s.dstCtx f.op = none →
        let no : FabAck := { stream := f.op.stream, epoch := f.op.epoch, num := f.op.num, refused := true, poisoned := false, data := [] }
        comes .fabricOperationArrival s fun u => u.link.sent = s.link.sent ++ [.ack no] ∧ u.mem = s.mem) ∧
      (∀ d, s.fab.dstStream f.op.stream = some d → d.begun = true → f.op.epoch = d.epoch → notAfter f.op.num d.last = true →
        ∀ a, d.acks.find? (fun a => a.num == f.op.num) = some a →
        comes .fabricOperationArrival s fun u => u.link.sent = s.link.sent ++ [.ack a] ∧ s.sameWork u)) ∧
    (x.flit = none → s.fab.dstStream x.stream = none → exec .fabricOperationArrival s = .next s) ∧
    (∀ c op locs rounds, s.dstCtx op = some c → s.dstTr c op = .ok locs → op.kind = .store →
      ∃ t, s.performFab op rounds = .done t false false [] ∧ t.mem = (s.writeBytes .home (s.tagOf c) (locs.zip op.data)).mem) ∧
    (x.ack = none → exec .fabricAck s = .next s) ∧
    (∀ a, x.ack = some a →
      let st := s.fab.srcStream a.stream
      (∀ o, st.ops.find? (fun o => o.op.epoch == a.epoch && o.op.num == a.num && o.sent) = some o →
        comes .fabricAck s fun u => ((u.fab.srcStream a.stream).ops.all fun y => !(y.op.epoch == a.epoch && y.op.num == a.num)) = true ∧
          (∀ cl k, o.waiter = some (cl, k) → o.launch = none → s.sameWork u ∧ ∀ r ∈ u.fab.replies, r.client = cl → r.key = k →
            r.got = true ∧ r.refused = a.refused ∧ r.poisoned = a.poisoned ∧ r.data = a.data)) ∧
      (st.ops.find? (fun o => o.op.epoch == a.epoch && o.op.num == a.num && o.sent) = none → exec .fabricAck s = .next s)) ∧
    (comes .fabricReleaseSend s fun u => u = s.pump x.stream ∧ s.sameWork u) ∧
    (let st := s.fab.srcStream x.stream
     (st.epoch.toNat ≠ x.val ∨ st.fresh = true →
      exec .closeReceive s = .next (s.send (.closeAnswer x.stream (BitVec.ofNat 8 x.val)))) ∧
     (st.epoch.toNat = x.val → st.fresh = false →
      (st.ops ≠ [] → comes .closeReceive s fun u => (u.fab.srcStream x.stream).closing = true ∧ u.link.sent = s.link.sent ∧ s.sameWork u) ∧
      (st.ops = [] → comes .closeReceive s fun u => (u.fab.srcStream x.stream).fresh = true ∧
        u.link.sent = s.link.sent ++ [.closeAnswer x.stream st.epoch] ∧ s.sameWork u))) ∧
    (comes .closeAnswerReceive s fun u => u.fab.dst = s.fab.dst.filter fun d => !(d.id == x.stream && d.closing && d.epoch.toNat == x.val)) ∧
    (let hit (o : SentOp) : Bool := o.op.num.toNat == x.val && o.sent
     ((s.fab.srcStream x.stream).ops.any hit = false → exec .retryResponse s = .next s) ∧
     ((s.fab.srcStream x.stream).ops.any hit = true → comes .retryResponse s fun u => s.sameWork u ∧
      ∀ o ∈ (u.fab.srcStream x.stream).ops, o.op.num.toNat = x.val → o.sent = false ∧ o.refused = true)) ∧
    (let hit (o : SentOp) : Bool := o.op.num.toNat == x.val && o.refused
     ((s.fab.srcStream x.stream).ops.any hit = false → exec .retryResend s = .next s) ∧
     ((s.fab.srcStream x.stream).ops.any hit = true → comes .retryResend s fun u => s.sameWork u ∧
      ∀ o ∈ (u.fab.srcStream x.stream).ops, o.op.num.toNat = x.val → o.refused = false))

/-- R42, R60 to R64, R66 to R68: a leaf sends its waiting requests; an answer that an invalidation has overtaken is not used, and any other is
installed where it serves an access that waits, and goes to those alone that it does not serve so; page requests queue and leave within the
allocation; a response lets the parked access go on a round further, or ends it in ACCESS, and one for an access that has gone is discarded; a
Failure holds for the context; an invalidation goes to its leaves, each of which drops what it covers, and a die that is late is fenced.
It rests on the model's readings in log entries 19 and 20. -/
def Obligations.TranslationEvents : Prop :=
  ∀ s : State,
    let x := s.inp
    let leaf := x.unit
    let pasid := x.pasid.getD 0
    let cache (u : State) : List Xlat := if leaf < 8 then (u.die leaf).tc else u.link.tc
    let quiet : Bool := if leaf < 8 then (s.die leaf).pixels.all fun p => p.parked
      else (s.woad.writes.all fun w => w.parked || w.signal.isSome || w.peer.isSome) && s.ctxs.all fun y => y.2.errWait.isEmpty
    let mine (r : AtsReq) : Bool := r.pasid == pasid && r.page == x.val && r.sent
    (∀ r, s.nextAts leaf = some r → comes .atsRequest s fun u =>
      u.link.sent = s.link.sent ++ [.atsRequest leaf r.pasid r.page r.write] ∧
      (∀ y ∈ u.atsOf leaf, y.pasid = r.pasid → y.page = r.page → y.sent = true) ∧ s.sameWork u) ∧
    (s.nextAts leaf = none → exec .atsRequest s = .next s) ∧
    ((s.atsOf leaf).find? mine = none → exec .translationCompletion s = .next s) ∧
    (∀ r, (s.atsOf leaf).find? mine = some r →
      (r.overtaken x.ats = true → comes .translationCompletion s fun u => s.sameWork u ∧ cache u = cache s ∧
        ∀ y ∈ u.atsOf leaf, y.pasid = pasid → y.page = x.val → y.sent = false ∧ y.stale = false ∧ y.invals = []) ∧
      (r.overtaken x.ats = false → quiet = true →
        (∀ t wr size, x.ats = .success t true wr false size → comes .translationCompletion s fun u =>
          (r.waiters = [] ∨ wr = true ∨ (∃ z ∈ r.waiters, z.2 = false) → (cache u).head? = some (heldAs pasid x.val t true wr false size)) ∧
          (∀ y ∈ u.atsOf leaf, ¬(y.pasid = pasid ∧ y.page = x.val)) ∧ s.sameWork u ∧
          (wr = false → r.write = true → ∀ c e, (.frag c e, true) ∈ r.waiters → (x.val, x.ats) ∈ ((u.core c).frag e).answers)) ∧
        (x.ats = .refused → comes .translationCompletion s fun u => cache u = cache s ∧ s.sameWork u ∧
          ∀ c e z, (.frag c e, z) ∈ r.waiters → (x.val, .refused) ∈ ((u.core c).frag e).answers) ∧
        (∀ t rd wr un size, x.ats = .success t rd wr un size → un = true ∨ rd = false →
          comes .translationCompletion s fun u => cache u = cache s ∧ s.sameWork u ∧
            ∀ c e z, (.frag c e, z) ∈ r.waiters → (x.val, x.ats) ∈ ((u.core c).frag e).answers))) ∧
    (∀ r t, s.link.prqWait = r :: t → s.link.prq.length < 4096 → comes .pageRequestEnqueue s fun u =>
      u.link.prq = s.link.prq ++ [r] ∧ u.link.prqWait = t ∧ s.sameWork u) ∧
    (4096 ≤ s.link.prq.length → exec .pageRequestEnqueue s = .next s) ∧
    (∀ r t, s.link.prq = r :: t →
      (s.link.priOut < s.link.priAlloc → comes .pageRequestSend s fun u =>
        u.link.prq = t ∧ u.link.priOut = s.link.priOut + 1 ∧ u.link.sent = s.link.sent ++ [.pageRequest r] ∧ s.sameWork u) ∧
      (s.link.priAlloc ≤ s.link.priOut → exec .pageRequestSend s = .next s)) ∧
    (let here (g : Group) : Bool := g.pasid == pasid && g.index == some x.val
     (s.link.groups.find? here = none → exec .pageResponse s = .next s) ∧
     ∀ g, s.link.groups.find? here = some g →
      (g.client = .gone → comes .pageResponse s fun u => s.sameWork u ∧ u.link.priOut = s.link.priOut - g.pages.length) ∧
      (∀ c e, g.client = .frag c e → c < 320 →
        (x.pr = .success → comes .pageResponse s fun u => s.sameWork u ∧ u.link.priOut = s.link.priOut - g.pages.length ∧
          (((s.core c).frag e).st = .xlate → ((u.core c).frag e).rounds = ((s.core c).frag e).rounds + 1 ∧ ((u.core c).frag e).wait.ready = true) ∧
          ∀ p ∈ g.pages, ∀ y ∈ (u.core c).tc ++ (u.die (dieOf c)).tc, y.covers pasid (p * 4096) = false) ∧
        (x.pr = .invalid → comes .pageResponse s fun u => s.sameWork u ∧ u.agenda = .issue c e :: s.agenda ∧
          (((s.core c).frag e).st = .xlate → ((u.core c).frag e).rounds = ((s.core c).frag e).rounds ∧ ((u.core c).frag e).wait.ready = true) ∧
          ∀ p ∈ g.pages, (p, .refused) ∈ ((u.core c).frag e).answers)) ∧
      ∀ c, x.pr = .failure → s.ctxOf pasid = some c →
        (s.link.groups.all fun h => h.pasid != pasid || match h.client with | .frag _ _ => true | _ => false) = true →
        comes .pageResponse s fun u => (u.ctx c).priFail = true ∧
          ∀ h ∈ s.link.groups, h.pasid = pasid → ∀ n e, h.client = .frag n e → ∀ p ∈ h.pages, (p, .refused) ∈ ((u.core n).frag e).answers) ∧
    (let full : Bool := 32 ≤ s.link.invals.length || s.link.invals.any fun i => i.itag == x.id
     (full = true → exec .atsInvalidation s = .next s) ∧
     (full = false → comes .atsInvalidation s fun u => s.sameWork u ∧ u.link.invals = s.link.invals ++
        [{ itag := x.id, pasid := x.pasid, base := x.val, size := x.item, leaves := ((List.range 8).filter fun d => !(s.die d).fenced) ++ [8, 9] }])) ∧
    (let here (i : Inval) : Bool := i.itag == x.item && i.leaves.contains leaf
     (s.link.invals.find? here = none → exec .invalidationAck s = .next s) ∧
     ∀ i, s.link.invals.find? here = some i →
      (leaf < 8 → s.invalHindered leaf i = true → exec .invalidationAck s = .next s) ∧
      (leaf < 8 → s.invalHindered leaf i = false → exec .invalidationAck s = .next ((s.invalDie leaf i).ackInval x.item leaf) ∧
        comes .invalidationAck s fun u => (∀ j ∈ u.link.invals, j.itag = x.item → leaf ∉ j.leaves) ∧
          (∀ y ∈ (u.die leaf).tc, i.drops y = false) ∧ (∀ c, dieOf c = leaf → ∀ y ∈ (u.core c).tc, i.drops y = false)) ∧
      (∀ v : State, (v.link.invals.filter fun j => j.itag == x.item) = [{ i with leaves := [leaf] }] →
        .invalCompletion x.item ∈ (v.ackInval x.item leaf).link.sent) ∧
      (leaf = 9 → comes .invalidationAck s fun u => s.sameWork u ∧ (∀ y ∈ u.link.tc, i.drops y = false) ∧
        ∀ j ∈ u.link.invals, j.itag = x.item → leaf ∉ j.leaves) ∧
      (leaf = 8 → comes .invalidationAck s fun u => s.sameWork u ∧ ∀ j ∈ u.link.invals, j.itag = x.item → leaf ∉ j.leaves)) ∧
    (let late : Bool := s.link.invals.any fun i => i.itag == x.item && i.leaves.contains leaf && leaf < 8
     (late = false → exec .invalidationTimeout s = .next s) ∧
     (late = true → exec .invalidationTimeout s = .next (s.fenceDie leaf)) ∧ ((s.die leaf).fenced = true → s.fenceDie leaf = s)) ∧
    match (s.ctx leaf).scopeUpd with
    | [] => exec .scopeUpdateTimeout s = .next s
    | v :: _ => (v.leaves.contains x.item = false → exec .scopeUpdateTimeout s = .next s) ∧
      (v.leaves.contains x.item = true → exec .scopeUpdateTimeout s = .next (s.fenceDie x.item))

namespace Sys2Proof
namespace Machine

/-- Packet `p` has left Woad's queue for its dispatch (R84), and its context counts as busy (R89). -/
def State.marked (s : State) (p : Packet) : State :=
  (s.updWoad fun w => { w with packets := w.packets.map fun q => if q.stamp == p.stamp then { q with dispatched := true } else q }).updCtx p.ctx
    fun x => { x with busySince := if x.busySince.isSome then x.busySince else some s.mgmt.uptime }

/-- The packet is no longer incomplete: it has left the queue, and its number is complete (R86, R87). -/
def State.completed (u : State) (p : Packet) : Prop :=
  (∀ q ∈ u.woad.packets, q.stamp ≠ p.stamp) ∧ p.num ∉ ((u.ctx p.ctx).source p.src).open_

end Machine
end Sys2Proof

/-- R26, R71, R72, R75 to R79, R81, R84 to R86, R89, R90, R94, R96, R180, R181, R208: the events of contexts and of Woad: an enable with its
checks, the host ring's tail, the arrival of packets, each kind's dispatch, the end of a teardown, the quantum, and requests of pre-emption.
Before READY the writes of function 1 change nothing.
It rests on the model's readings in log entries 23 and 38. -/
def Obligations.ContextsAndPackets : Prop :=
  ∀ s : State,
    let x := s.inp
    let c := x.unit
    let y := s.ctx c
    let others := s.ctxs.filter fun k => k.1 != c
    let quotas := ((others.filter fun k => k.2.st == .active).map fun k => k.2.quota.toNat).sum
    ((s.enableCode c = 0 ↔ rankValid y.rankprog = true ∧ y.minmax ≠ 3 ∧ y.acc ≠ 3 ∧ (y.dring = 0 ∨ 4 ≤ y.dringLog.toNat ∧ y.dringLog.toNat ≤ 12) ∧
        1 ≤ y.quota.toNat ∧ y.quota.toNat ≤ 4096 ∧ quotas + y.quota.toNat ≤ 4096 ∧ ∀ k ∈ others, k.2.st ≠ .free → k.2.pasid ≠ y.pasid) ∧
      (y.st ≠ .free ∨ s.mgmt.ready = false → exec .contextEnable s = .next s) ∧
      (y.st = .free → s.mgmt.ready = true → s.enableCode c ≠ 0 → exec .contextEnable s = .next (s.updCtx c fun z => { z with cfgerr := s.enableCode c })) ∧
      (y.st = .free → s.mgmt.ready = true → s.enableCode c = 0 → comes .contextEnable s fun u =>
        let z := u.ctx c
        z.st = .active ∧ z.cfgerr = 0 ∧ z.subTail = 0 ∧ z.subHead = 0 ∧ z.dringHead = 0 ∧ z.errCount = 0 ∧ z.scopes = [] ∧ z.binds = [] ∧ z.segs = [] ∧
          z.tasks = [] ∧ z.pasid = y.pasid ∧ z.quota = y.quota ∧ z.trappc = y.trappc ∧ z.rankprog = y.rankprog ∧ u.mem = s.mem ∧
          ∀ k, k ≠ c → u.ctx k = s.ctx k)) ∧
    (let v : Word := BitVec.ofNat 32 x.val
     let bad := 2 ^ 31 ≤ (v - y.subTail).toNat ∨ 512 < (v - y.subHead).toNat
     (s.mgmt.ready = false → exec .subTailWrite s = .next s) ∧
     (s.mgmt.ready = true → comes .subTailWrite s fun u => (bad → (u.ctx c).ringerr = true ∧ (u.ctx c).subTail = y.subTail) ∧
        (¬bad → (u.ctx c).subTail = v ∧ (u.ctx c).ringerr = y.ringerr) ∧ (∀ k, k ≠ c → u.ctx k = s.ctx k) ∧ u.mem = s.mem)) ∧
    (s.nextSource = none → exec .packetArrival s = .next s) ∧
    (∀ d src bytes, s.nextSource = some (d, src) →
      (src = 0 ∧ bytes = (s.ctx d).slotBytes (s.ctx d).subHead.toNat) ∨
        (src = 2 ∧ ∃ t rest, (s.ctx d).taskQ = t :: rest ∧ bytes = ((s.ctx d).tasks.getD t {}).packet) →
      let z := s.ctx d
      let n := (z.source src).read
      let k := kindOf (leNat (bytes.take 4) % 16)
      let p : Packet := { ctx := d, src := src, num := n, stamp := s.woad.nextStamp, kind := k.getD .scope, bytes := bytes }
      (k = none ∨ p.ok = false → comes .packetArrival s fun u => (∀ q ∈ u.woad.packets, q ∈ s.woad.packets) ∧ n ∉ ((u.ctx d).source src).open_) ∧
      ∀ r, k.isSome = true → p.ok = true → p.kind ≠ .teardown → (if z.fb then some 0 else rankOf z.rankprog bytes) = some r → p.badAfter = false →
        comes .packetArrival s fun u => u.woad.packets = s.woad.packets ++ [{ p with rank := r }] ∧ u.woad.nextStamp = s.woad.nextStamp + 1 ∧
          (u.ctx d).source src = { read := n + 1, open_ := (z.source src).open_ ++ [n] } ∧ (src = 0 → (u.ctx d).subHead = z.subHead + 1) ∧
          u.mem = s.mem ∧ u.cores = s.cores) ∧
    (∀ d, s.nextSource = some (d, 1) → exec .packetArrival s = .next ((s.readRing d).updWoad fun w => { w with rr := 3 * d + 1 })) ∧
    (comes .dringWake s fun u => (y.st = .active → y.dring ≠ 0 → y.dringStopped = false → (u.ctx c).dringLook = true) ∧ u.mem = s.mem ∧
      ∀ k, k ≠ c → u.ctx k = s.ctx k) ∧
    (s.nextPacket = none → ∀ i ∈ ([.launch, .barrier, .signal, .scope, .segmentCreate, .segmentDestroy, .segmentPin, .segmentUnpin,
      .segmentInvalidOp] : List Instr), exec i s = .next s) ∧
    (∀ p, s.nextPacket = some p →
      let t := s.marked p
      (p.kind = .launch → comes .launch s fun u =>
        let l := u.launch p.stamp
        l.ctx = p.ctx ∧ l.counter = 1 ∧ l.status = .ok ∧ l.complete = false ∧ l.launchid = BitVec.ofNat 64 (bitsAt p.image 320 64) ∧
          l.lanepriv = bitsAt p.image 384 16 ∧ l.dlceil = bitsAt p.image 424 8 ∧ l.order = s.woad.dispatched ∧
          u.woad.dispatched = s.woad.dispatched + 1 ∧ ∀ q ∈ u.woad.packets, q.stamp = p.stamp → q.dispatched = true) ∧
      (p.kind = .barrier → exec .barrier s = .next (t.completePacket p .ok)) ∧
      (p.kind = .signal → exec .signal s = .next (({ t with nextId := s.nextId + 1 } : State).updWoad fun w => { w with writes := w.writes ++
        [{ id := s.nextId, ctx := p.ctx, addr := BitVec.ofNat 64 (p.field 24 8), data := natBytes 8 (p.field 32 8), signal := some p.stamp }] })) ∧
      (p.kind = .scope →
        let e := bitsAt p.image 128 5
        ((s.ctx p.ctx).scopeUpd ≠ [] → comes .scope s fun u => (u.ctx p.ctx).scopes = (s.ctx p.ctx).scopes ∧
          (u.ctx p.ctx).scopeUpd.length = (s.ctx p.ctx).scopeUpd.length + 1 ∧ u.mem = s.mem) ∧
        ((s.ctx p.ctx).scopeUpd = [] → s.liveDies ≠ [] → comes .scope s fun u =>
          let new := (u.ctx p.ctx).scopes.getD e {}
          new.gen = ((s.ctx p.ctx).scopes.getD e {}).gen + 1 ∧ (bitsAt p.image 146 1 = 1 → new.valid = false) ∧
            (∀ n, n < 320 → new.cores.getLsbD n = true → (s.core n).retired = false ∧ (s.die (dieOf n)).fenced = false) ∧
            (u.ctx p.ctx).scopeUpd.map ScopeUpd.leaves = [s.liveDies] ∧ u.mem = s.mem)) ∧
      (p.kind = .segment →
        let z := s.ctx p.ctx
        let level := bitsAt p.image 260 2
        let size := bitsAt p.image 288 32
        let good := p.name ≠ 0 ∧ s.segFind p.ctx p.name = none ∧ level ≠ 3 ∧ 16 ≤ size ∧ size ≤ maxSize level ∧ size % 16 = 0
        (p.op = 1 → ∀ h, z.freeHandle = some h → good → comes .segmentCreate s fun u => u.completed p ∧
          u.seg p.ctx h = { name := p.name, size := size, level := level, st := .declared }) ∧
        (p.op = 1 → z.freeHandle = none ∨ ¬good → exec .segmentCreate s = .next (t.dirOp.completePacket p .segfail)) ∧
        (p.op = 2 → ∀ h, s.segFind p.ctx p.name = some h → (s.seg p.ctx h).dying = false → (s.seg p.ctx h).attach ≠ 0 →
          comes .segmentDestroy s fun u => (u.seg p.ctx h).dying = true ∧ (u.seg p.ctx h).destroyer = some p.stamp ∧ u.mem = s.mem) ∧
        (p.op = 2 → ∀ h, s.segFind p.ctx p.name = some h → (s.seg p.ctx h).dying = false → (s.seg p.ctx h).attach = 0 → (s.seg p.ctx h).busy = false →
          comes .segmentDestroy s fun u => (u.ctx p.ctx).segs.get? h = none) ∧
        (p.op = 2 → (s.segFind p.ctx p.name).all (fun h => (s.seg p.ctx h).dying) = true → exec .segmentDestroy s = .next (t.dirOp.completePacket p .segfail)) ∧
        (p.op = 3 → ∀ h, s.segFind p.ctx p.name = some h → comes .segmentPin s fun u => (u.seg p.ctx h).pin = true ∧ u.completed p) ∧
        (p.op = 4 → ∀ h, s.segFind p.ctx p.name = some h → comes .segmentUnpin s fun u => (u.seg p.ctx h).pin = false ∧ u.completed p) ∧
        (p.op = 3 → s.segFind p.ctx p.name = none → exec .segmentPin s = .next (t.dirOp.completePacket p .segfail)) ∧
        (p.op = 4 → s.segFind p.ctx p.name = none → exec .segmentUnpin s = .next (t.dirOp.completePacket p .segfail)) ∧
        (p.op = 0 ∨ 5 ≤ p.op → exec .segmentInvalidOp s = .next (t.dirOp.completePacket p .segfail)))) ∧
    (∀ (p : Packet) st, (s.completePacket p st).completed p) ∧
    (let here (w : WoadWrite) : Bool := w.id == x.id && w.signal.isSome && !w.parked
     let rest (u : State) : State := u.updWoad fun z => { z with writes := z.writes.filter fun v => v.id != x.id }
     (s.woad.writes.find? here = none → exec .signalStoreDone s = .next s) ∧
     ∀ w stamp, s.woad.writes.find? here = some w → w.signal = some stamp →
      let tr := s.trWoad (.write w.id) w.ctx w.addr true
      let tag := s.tagOf w.ctx
      let used := s.useAnswer (.write w.id) w.ctx w.addr true
      let bad (l : Nat) : Option Nat := ((List.range 8).map (l + ·)).find? fun a => (s.homeRead tag a).2
      (w.sent = true → exec .signalStoreDone s = .next (if s.fabBusy w.ctx then s else (rest s).completeStamp stamp .ok)) ∧
      (w.sent = false → ∀ l, tr = .loc l → bad l = none → exec .signalStoreDone s = .next ((rest ((used.writeBytes .home tag
        (w.data.mapIdx fun i b => (l + i, b))).noteRelease (outsideRel l))).completeStamp stamp .ok)) ∧
      (w.sent = false → ∀ l a, tr = .loc l → bad l = some a →
        exec .signalStoreDone s = .next ((rest (s.touch tag a)).completeStamp stamp .fault)) ∧
      (w.sent = false → tr = .access → exec .signalStoreDone s = .next ((rest used).completeStamp stamp .fault))) ∧
    (exec .teardown s = .next (s.startTeardown c) ∧
      exec .ctxTeardownWrite s = .next (if s.mgmt.ready then s.startTeardown c else s) ∧
      (y.st ≠ .active → s.startTeardown c = s) ∧
      (y.st = .active → s.openLaunches c = [] → (s.woad.packets.all fun p => p.ctx != c) = true → (s.teams.all fun t => t.2.ctx != c) = true →
        (s.dies.all fun d => d.2.jobs.all fun j => j.ctx != c) = true →
        (s.quartets.all fun q => (q.2.table.all fun r => r.ctx != c) && (q.2.queue ++ q.2.slots.vals).all fun k => k.ctx != c) = true →
        (y.segs.all fun g => g.2.reload.isNone) = true →
        ((s.startTeardown c).ctx c).st = .tearing ∧ (s.startTeardown c).teams = s.teams ∧ (s.startTeardown c).mem = s.mem)) ∧
    (y.st ≠ .tearing ∨ s.quiescent c = false → exec .teardownQuiescent s = .next s) ∧
    (y.st = .tearing → s.quiescent c = true → comes .teardownQuiescent s fun u => (u.ctx c).st = .free ∧ (u.ctx c).segs = [] ∧ (u.ctx c).tasks = [] ∧
      (u.ctx c).irq.getLsbD 4 = true ∧ u.mgmt.keyGen.getD c 0 = s.mgmt.keyGen.getD c 0 + 1 ∧ .stopMarker y.pasid ∈ u.link.sent ∧
      (∀ n, ∀ e ∈ (u.core n).tc, e.pasid ≠ y.pasid) ∧ (∀ d, ∀ e ∈ (u.die d).tc, e.pasid ≠ y.pasid) ∧ ∀ e ∈ u.link.tc, e.pasid ≠ y.pasid) ∧
    (let due := y.busySince.any fun t => y.fb && y.quantum != 0 && decide (t + y.quantum.toNat ≤ s.mgmt.uptime)
     (due = false → exec .quantumExpiry s = .next s) ∧
     ∀ t, y.busySince = some t → due = true → comes .quantumExpiry s fun u => (u.ctx c).busySince = some (t + y.quantum.toNat) ∧
        (u.ctx c).irq.getLsbD 2 = true ∧ s.mem = u.mem) ∧
    (exec .ctxPreemptReq s = .next (if s.mgmt.ready then (s.openLaunches c).foldl (fun u l => u.requestPreempt l) s else s) ∧
      (s.woad.seeds = [] → s.chooseVictim = s) ∧
      ∀ l, (s.launch l).complete = false → (s.launch l).request = false → s.running l = true →
        let u := s.requestPreempt l
        (u.launch l).request = true ∧ (u.launch l).reqCores = s.liveDies.flatMap coresOf ∧ (u.ctx (s.launch l).ctx).pending = true ∧ u.mem = s.mem) ∧
    (let l := s.launch x.item
     let due := l.request && l.reqCores.contains c
     (due = false → exec .preemptArrival s = .next s) ∧
     (due = true → comes .preemptArrival s fun u => c ∉ (u.launch x.item).reqCores ∧
        ∀ k, (s.team k).launch = x.item → (s.team k).core = c → (s.team k).st = .resident → s.teams.get? k ≠ none → (u.team k).preempt = true))

/-- R91, R110 to R115, R125, R131 to R133, R136 to R143, R148, R152, R418, R419, R488: placement of tickets and seeds, the entries of
starting waves, results that return, and what the sequencer does of itself: splits at misses and faults, releases and timeouts of waits,
retries, the pool, and condition monitors.
It rests on the model's readings in log entries 7, 25 and 36. -/
def Obligations.PlacementAndSequencer : Prop :=
  ∀ s : State,
    let x := s.inp
    let d := x.unit
    let n := x.unit
    let c := s.core n
    let f := c.frag x.item
    let pend := (s.die d).pending
    ((s.die d).fenced = true ∨ s.capacity d = false ∨ s.seedFits d = true → exec .ticketClaim s = .next s) ∧
    ((s.die d).fenced = false → s.capacity d = true → s.seedFits d = false →
      (∀ t, s.claimMesh d = some t → exec .ticketClaim s = .next t) ∧
      (s.claimMesh d = none →
        (∀ t, s.claimResume d = some t → exec .ticketClaim s = .next t) ∧
        (s.claimResume d = none →
          let b := s.evictForWaiters d
          (b.claimNew d = none → exec .ticketClaim s = .next b) ∧
          ∀ tk t, b.claimNew d = some (tk, t) →
            (∀ v, (t.lookup tk).place tk d = some v → exec .ticketClaim s = .next v) ∧
            ((t.lookup tk).place tk d = none → comes .ticketClaim s fun u => (u.die d).pending = pend ++ [tk] ∧ u.mem = s.mem ∧ u.teams = s.teams)))) ∧
    (∀ (t v : State) tk k, t.place tk k = some v → ∃ m, v.nextTeam = t.nextTeam + m ∧ ∀ i < m,
      (v.team (t.nextTeam + i)).st = .resident ∧ (v.team (t.nextTeam + i)).launch = tk.launch ∧ (v.team (t.nextTeam + i)).grid = tk.grid ∧
        (v.team (t.nextTeam + i)).number = tk.first + i ∧ (v.team (t.nextTeam + i)).role = i ∧ (v.team (t.nextTeam + i)).cluster = t.nextTeam) ∧
    ((s.die d).fenced = true ∨ s.seedFits d = true ∨ s.claimMesh d ≠ none ∨ s.claimResume d ≠ none → exec .pendingRetry s = .next s) ∧
    ((s.die d).fenced = false → s.seedFits d = false → s.claimMesh d = none → s.claimResume d = none → comes .pendingRetry s fun u =>
      (∀ tk ∈ (u.die d).pending, tk ∈ pend) ∧ ∀ tk ∈ pend, s.claimable tk.launch = false → tk ∈ (u.die d).pending) ∧
    (∀ tk, s.woad.seeds = [tk] →
      (∀ v, s.offerSeed tk (d % 8) = some v →
        exec .seedReoffer s = .next (v.updWoad fun w => { w with seeds := w.seeds.filter fun y => y.launch != tk.launch })) ∧
      (s.offerSeed tk (d % 8) = none → exec .seedReoffer s = .next (s.seedWaits tk))) ∧
    (comes .seedReoffer s fun u => ∀ tk ∈ u.woad.seeds, tk ∈ s.woad.seeds) ∧
    (pend[x.item]? = none → exec .affinityTimeout s = .next s) ∧
    (∀ tk, pend[x.item]? = some tk → s.segFind (s.launch tk.launch).ctx tk.desc.affname = none → exec .affinityTimeout s = .next s) ∧
    (∀ tk h, pend[x.item]? = some tk →
      let k := (s.launch tk.launch).ctx
      let g := s.seg k h
      s.segFind k tk.desc.affname = some h →
      (tk.loose = true ∨ (s.affSeg k tk.desc).isNone = true ∨ g.level = 2 ∨ g.homeDie ≠ d ∨ s.fitsOn tk d = true ∨ g.pin = true ∨ g.attach ≠ 0 ∨
          g.busy = true ∨ g.dying = true ∨ s.claimable tk.launch = false ∨ s.usable k d = false →
        exec .affinityTimeout s = .next s) ∧
      (tk.loose = false → (s.affSeg k tk.desc).isSome = true → g.level ≠ 2 → g.homeDie = d → s.fitsOn tk d = false → g.pin = false →
          g.attach = 0 → g.busy = false → g.dying = false → s.claimable tk.launch = true → s.usable k d = true →
        let t := if s.candidate k g then s.startEvict k h else s
        let tk' : Ticket := { tk with loose := true }
        (∀ v, t.place tk' d = some v → comes .affinityTimeout s fun u => (u.die d).pending = pend.eraseIdx x.item ∧ u.teams = v.teams) ∧
        (t.place tk' d = none → comes .affinityTimeout s fun u => (u.die d).pending = pend.set x.item tk' ∧ u.mem = s.mem ∧
          (s.candidate k g = true → (u.seg k h).busy = true)))) ∧
    (match c.entryWaiters with
     | [] => exec .waveEntryGrant s = .next s
     | k :: _ => (c.freeEntries.length < (c.wave k).owed.length → exec .waveEntryGrant s = .next s) ∧
       ((c.wave k).owed.length ≤ c.freeEntries.length → comes .waveEntryGrant s fun u => ((u.core n).wave k).owed = [] ∧ k ∉ (u.core n).entryWaiters ∧
         ((u.core n).wave k).order.length = (c.wave k).order.length + (c.wave k).owed.length ∧ (∀ m, m ≠ n → u.core m = s.core m) ∧ s.sameWork u)) ∧
    (let wv := c.wave x.item
     (wv.pend.find? (fun p => p.id == x.id) = none → exec .resultReturn s = .next s) ∧
     ∀ p, wv.pend.find? (fun p => p.id == x.id) = some p → p.vals.keys.Nodup → comes .resultReturn s fun u =>
      let new := (u.core n).wave x.item
      let last := p.uniform || x.lanes == 0 || p.lanes &&& x.lanes == p.lanes
      (p.uniform = true → (∀ i y, (i, y) ∈ p.vals → new.greg i = y ∨ wv.late true i = true ∧ new.greg i = wv.greg i) ∧ new.v = wv.v) ∧
      (p.uniform = false → (∀ k y, (k, y) ∈ p.vals → p.lanes.getLsbD (k % 64) = true → last = true ∨ x.lanes.getLsbD (k % 64) = true →
          new.vreg (k % 64) (k / 64) = y ∨ wv.late false k = true ∧ new.vreg (k % 64) (k / 64) = wv.vreg (k % 64) (k / 64)) ∧
        (∀ k, p.lanes.getLsbD (k % 64) = false → new.vreg (k % 64) (k / 64) = wv.vreg (k % 64) (k / 64)) ∧ new.g = wv.g) ∧
      (last = true → (∀ q ∈ new.pend, q.id ≠ x.id) ∧ ∀ e ∈ new.order, x.id ∉ ((u.core n).frag e).board) ∧ new.p = wv.p ∧ new.q = wv.q ∧ s.sameWork u) ∧
    (let wv := c.wave f.slot
     let free := (c.updFrag x.item fun f => { f with considered := true }).freeEntry
     let ps := wv.pend.filter fun p => f.board.contains p.id
     let done := wholeQuads f.mask (f.mask &&& busyLanes ps)
     let due := f.st == .swait && !f.considered && wv.som && c.missThresh != 0 && f.since == c.missThresh + 1 && f.trap.isNone
     (due = false → exec .missSplit s = .next s) ∧
     (due = true → free = none ∨ ps.all (fun p => p.eligible) = false ∨ done = 0 ∨ done = f.mask →
       comes .missSplit s fun u => ((u.core n).frag x.item) = { f with considered := true } ∧ s.sameWork u) ∧
     ∀ k, due = true → free = some k → k ≠ x.item → ps.all (fun p => p.eligible) = true → done ≠ 0 → done ≠ f.mask → comes .missSplit s fun u =>
       ((u.core n).frag x.item).mask = f.mask &&& ~~~ done ∧ ((u.core n).frag x.item).st = .swait ∧ ((u.core n).frag k).mask = done ∧
         ((u.core n).frag k).pc = f.pc ∧ ((u.core n).frag k).st = .run ∧ ((u.core n).frag k).budget = f.budget ∧ k ∈ ((u.core n).wave f.slot).order ∧ s.sameWork u) ∧
    (let wv := c.wave f.slot
     let free := (c.updFrag x.item fun f => { f with considered := true }).freeEntry
     let ps := wv.pend.filter fun p => f.board.contains p.id
     let done := wholeQuads f.mask f.unfin
     let due := f.st == .xlate && f.only.isSome && !f.considered && wv.som && c.missThresh != 0 && f.since == c.missThresh + 1 && f.trap.isNone
     (due = false ∨ f.words = none → exec .faultSplit s = .next s) ∧
     (∀ a e, f.words = some (a, e) → seWords a e = false → exec .faultSplit s = .next s) ∧
     (∀ a e, due = true → f.words = some (a, e) → seWords a e = true → free = none ∨ ps.all (fun p => p.eligible) = false ∨ done = 0 ∨ done = f.mask →
       comes .faultSplit s fun u => ((u.core n).frag x.item) = { f with considered := true } ∧ s.sameWork u) ∧
     ∀ k a e, due = true → f.words = some (a, e) → free = some k → k ≠ x.item → seWords a e = true → ps.all (fun p => p.eligible) = true →
         done ≠ 0 → done ≠ f.mask →
       comes .faultSplit s fun u => ((u.core n).frag x.item).mask = f.mask &&& ~~~ done ∧ ((u.core n).frag x.item).st = .xlate ∧
         ((u.core n).frag k).mask = done ∧ ((u.core n).frag k).pc = f.pc + BitVec.ofNat 64 (wordLen a) ∧ s.sameWork u) ∧
    (f.st ≠ .rcvwait ∨ f.due = false → exec .fuseTimeout s = .next s) ∧
    (∀ e rest, f.st = .rcvwait → f.due = true → c.group f.slot f.pc = e :: rest → (c.wave f.slot).order.Nodup →
      ((e :: rest).all fun k => (c.frag k).frames.isEmpty) = true → comes .fuseTimeout s fun u =>
      let g := (u.core n).frag e
      g.pc = f.pc + BitVec.ofNat 64 (c.frag e).wait.n ∧ (g.st = .run ∨ g.st = .swait) ∧
        (∀ l, l < 64 → g.mask.getLsbD l = (e :: rest).any fun k => (c.frag k).mask.getLsbD l) ∧
        (∀ k ∈ rest, k ∉ ((u.core n).wave f.slot).order) ∧ s.sameWork u) ∧
    (c.releaseChoice x.item = none → exec .reconvergenceRelease s = .next s) ∧
    (∀ a, c.releaseChoice x.item = some a →
      exec .reconvergenceRelease s = .next (s.setCore n ((c.releaseGroup x.item a).settle x.item)) ∧
      ∃ e ∈ (c.wave x.item).order, (c.frag e).st = .rcvwait ∧ (c.frag e).pc = a ∧ ∀ k ∈ (c.wave x.item).order,
        (c.frag k).st = .ffwait ∨ (c.frag k).st = .rcvwait ∧ ((c.frag k).point < (c.frag e).point ∨
          (c.frag k).point = (c.frag e).point ∧ a.toNat ≤ (c.frag k).pc.toNat)) ∧
    (let w := s.whoAt n x.item
     let oldest := (s.core w.core).allForced w.slot == some w.entry
     ((s.frag w).st = .ffwait → (s.frag w).due = true → exec .fuseto s = .next (s.fuseTrap w 0)) ∧
     ((s.frag w).due = false → oldest = true → exec .fuseto s = .next (s.fuseTrap w 2)) ∧
     ((s.frag w).due = false → oldest = false → exec .fuseto s = .next s)) ∧
    (let free := c.freeEntry.isSome || decide (c.framesUsed f.slot < 8)
     (f.st = .splitwait → free = true → exec .splitwaitRetry s = .next (s.push [.issue n x.item])) ∧
     (f.st ≠ .splitwait ∨ free = false → exec .splitwaitRetry s = .next s)) ∧
    (let wv := c.wave x.item
     let pool := (c.pipe wv.pipe).pool
     (wv.idle ≤ 32 ∨ x.item ∉ pool ∨ c.readyOut wv.pipe = none → exec .poolEvict s = .next s) ∧
     ∀ k, 32 < wv.idle → x.item ∈ pool → c.readyOut wv.pipe = some k → comes .poolEvict s fun u =>
       ((u.core n).pipe wv.pipe).pool = pool.filter (· != x.item) ++ [k] ∧ (∀ m, m ≠ n → u.core m = s.core m) ∧ s.sameWork u) ∧
    (let t := s.team x.item
     let fired := s.dies.any fun y => y.2.monitors.any fun m => m.team == x.item && m.saved && m.fired
     x.flag = true → (t.st = .saved → t.swapOut = true → fired = true → comes .monitorWake s fun u => (u.team x.item).swapOut = false ∧
        (u.die t.imageDie).resume = (s.die t.imageDie).resume ++ [x.item] ∧ u.mem = s.mem) ∧
      (t.st ≠ .saved ∨ t.swapOut = false ∨ fired = false → exec .monitorWake s = .next s)) ∧
    (x.flag = false → f.waits .waitc = false ∨ s.firedIds n x.item = [] → exec .monitorWake s = .next s) ∧
    (∀ l g, x.flag = false → f.waits .waitc = true → (l, g) ∈ f.wait.gran → l < 64 → g ≠ 0 → g - 1 ∈ s.firedIds n x.item → comes .monitorWake s fun u =>
      u.agenda = .issue n x.item :: s.agenda ∧ ((u.core n).frag x.item).wait.ready = true ∧ ((u.core n).frag x.item).wait.m.testBit l = true ∧ s.sameWork u) ∧
    (f.waits .waitc = false ∨ (f.wait.gran.all fun y => y.2 != 0) = true → exec .waitcPoll s = .next s) ∧
    (∀ l, f.waits .waitc = true → (l, 0) ∈ f.wait.gran → l < 64 → comes .waitcPoll s fun u =>
      u.agenda = .issue n x.item :: s.agenda ∧ ((u.core n).frag x.item).wait.ready = true ∧ ((u.core n).frag x.item).wait.m.testBit l = true ∧ s.sameWork u) ∧
    let w := s.whoAt n x.item
    let ms := s.members w.team
    let waits := (s.team w.team).st == .resident && !ms.isEmpty && ms.all fun m => s.longWait m && s.teamStopped m
    (waits = false ∨ s.fitsReserve w.die ms = none → exec .waitcSwapOut s = .next s) ∧
    ∀ at_, waits = true → s.fitsReserve w.die ms = some at_ → exec .waitcSwapOut s = .next (s.saveAll w.die at_ true)

/-- R118, R158, R159, R161, R187, R192, R193, R209, R215, R219, R228, R309, R312, R313, R315, R316: what each of the events TEAM_SAVE,
TEAM_SAVE_DONE, RETIREMENT_SAVE, IDR_PREEMPT, HALT_WAVE, RESUME_WAVE, HALT_CONTEXT, RESUME_CONTEXT, DBG_READ, DBG_WRITE, SEGDET_DRAIN_DONE,
SEGMENT_EVICT_DONE, SEGMENT_RELOAD_DONE, SCOPE_UPDATE_ACK, BINDING_PROPAGATED, RELEASE_DRAIN_DONE and POST_ACCEPT leaves, in the states where
it has something to act on and in those where it has not. An event with nothing to act on leaves the state as it was.
It rests on the model's readings in log entries 21, 22, 24 and 31. -/
def Obligations.SaveDebugSegments : Prop :=
  ∀ s : State,
    let x := s.inp
    let n := x.unit
    let t := x.item
    let tm := s.team t
    let ms := s.members t
    let y := s.ctx n
    let w := s.whoAt n x.item
    let f := s.frag w
    let saves := tm.st == .resident && (tm.preempt || s.drains t) && s.clusterStopped t
    (saves = false → exec .teamSave s = .next s) ∧
    (∀ at_, saves = true → s.fitsReserve (dieOf tm.core) ms = some at_ → at_.map Prod.fst = ms ∧
      (∀ y ∈ at_, y.2 + s.imageSize y.1 ≤ Config.reserveBytes ∧
        ∀ z ∈ s.images (dieOf tm.core), z.1 + z.2 ≤ y.2 ∨ y.2 + s.imageSize y.1 ≤ z.1) ∧
      comes .teamSave s fun u => (∀ m ∈ ms, (u.team m).saving = true ∧ (u.team m).imageDie = dieOf tm.core) ∧ u.mem = s.mem ∧
        u.agenda = .event .teamSaveDone { unit := dieOf tm.core, item := t } :: s.agenda) ∧
    (saves = true → s.fitsReserve (dieOf tm.core) ms = none → exec .teamSave s =
      .next ((ms.foldl (fun u m => (u.runOn m).updTeam m fun y => { y with preempt := false }) s).checkPreempt tm.launch)) ∧
    (tm.st ≠ .resident ∨ tm.saving = false → exec .teamSaveDone s = .next s) ∧
    (tm.st = .resident → tm.saving = true → exec .teamSaveDone s =
      .next (((ms.filter fun m => (s.team m).saving).foldl (fun u m => u.saveTeam m false) s).checkPreempt tm.launch)) ∧
    (∀ k keep, let u := s.saveTeam k keep
      (u.team k).st = .saved ∧ (u.team k).slots = [] ∧ (u.team k).saving = false ∧ (u.team k).swapOut = keep ∧
        (u.team k).saved.length = (s.team k).slots.length ∧ (u.team k).attach = (s.team k).attach ∧
        ((u.team k).owed = 0 → (u.team k).storage = false) ∧
        (keep = false → k ∈ (u.die (dieOf (s.team k).core)).resume)) ∧
    (let goes := tm.st == .resident && !tm.preempt && s.mustMove t && s.clusterStopped t
     let stay := ms.foldl (fun u m => u.runOn m) s
     (goes = false → exec .retirementSave s = .next s) ∧
     (goes = true → s.fitsReserve (dieOf tm.core) ms = none → exec .retirementSave s = .next stay) ∧
     ∀ at_, goes = true → s.fitsReserve (dieOf tm.core) ms = some at_ →
      let v := s.saveAll (dieOf tm.core) at_ false
      let room := (v.usableDies tm.ctx).any fun d => (v.chooseResume t d).isSome
      (room = false → exec .retirementSave s = .next stay) ∧ (room = true → exec .retirementSave s = .next (v.checkPreempt tm.launch))) ∧
    (let wv := (s.core n).wave x.item
     (wv.region = none ∨ wv.order = [] ∨ wv.priv = false ∨ (s.core n).mode = .service → exec .idrPreempt s = .next s) ∧
     ∀ r e rest, wv.region = some r → wv.order = e :: rest → wv.priv = true → (s.core n).mode ≠ .service → comes .idrPreempt s fun u =>
      let new := (u.core n).wave x.item
      ((u.core n).frag e).pc = r.entry ∧ ((u.core n).frag e).mask = wv.live ∧ ((u.core n).frag e).st = .run ∧ new.order = [e] ∧ new.pend = [] ∧
        (∀ i < 64, r.mask.getLsbD i = true → new.greg i = r.saved.getD i 0) ∧ s.sameWork u) ∧
    (let g := y.dbg
     let err := s.updCtx n fun z => { z with dbg := { z.dbg with err := true } }
     (s.mgmt.ready = false → exec .haltWave s = .next s ∧ exec .resumeWave s = .next s ∧ exec .haltContext s = .next s ∧
       exec .resumeContext s = .next s ∧ exec .dbgRead s = .next s ∧ exec .dbgWrite s = .next s) ∧
     (s.mgmt.ready = true →
     (s.dbgWave n = none → exec .haltWave s = .next err ∧ exec .resumeWave s = .next err) ∧
     ((s.dbgWave n).isSome = true →
       (comes .haltWave s fun u => ((u.core g.core).wave g.slot).haltReq = true ∧ s.sameWork u) ∧
       comes .resumeWave s fun u => ((u.core g.core).wave g.slot).haltReq = false ∧ s.sameWork u) ∧
     (comes .haltContext s fun u => s.sameWork u ∧ ∀ k a i sl, (k, a) ∈ s.teams → a.ctx = n → a.st = .resident → (i, sl) ∈ a.slots →
       ((u.core a.core).wave sl).haltReq = true) ∧
     (comes .resumeContext s fun u => s.sameWork u ∧ ∀ k a i sl, (k, a) ∈ s.teams → a.ctx = n → a.st = .resident → (i, sl) ∈ a.slots →
       ((u.core a.core).wave sl).haltReq = false) ∧
     (s.dbgObj n = none → exec .dbgRead s = .next err ∧ exec .dbgWrite s = .next err) ∧
     ∀ bs, s.dbgObj n = some bs →
      (bs.length ≤ g.page * 1024 → exec .dbgRead s = .next err ∧ exec .dbgWrite s = .next err) ∧
      (2 ≤ g.obj → exec .dbgWrite s = .next err) ∧
      (g.obj = 0 → (g.page + 1) * 1024 ≤ (s.headBytes g.core g.slot).length → exec .dbgWrite s = .next err) ∧
      (g.page * 1024 < bs.length → g.obj = 0 → (s.headBytes g.core g.slot).length < (g.page + 1) * 1024 → comes .dbgWrite s fun u =>
        let new := (u.core g.core).wave g.slot
        (∀ i < 64, let o := (s.headBytes g.core g.slot).length + 4 * i
          g.page * 1024 ≤ o → o + 3 < (g.page + 1) * 1024 →
            new.greg i = BitVec.ofNat 32 (leNat ((List.range 4).map fun b => g.data.getD (o - g.page * 1024 + b) 0))) ∧
        new.v = ((s.core g.core).wave g.slot).v ∧ s.sameWork u) ∧
      (g.page * 1024 < bs.length → comes .dbgRead s fun u => (u.ctx n).dbg.data.length = 1024 ∧ (u.ctx n).dbg.err = g.err ∧
        (∀ i < 1024, (u.ctx n).dbg.data.getD i 0 = bs.getD (g.page * 1024 + i) 0) ∧ u.mem = s.mem ∧ u.cores = s.cores) ∧
      (g.page * 1024 < bs.length → g.obj = 1 → ((s.core g.core).wave g.slot).lanes ≤ 64 → comes .dbgWrite s fun u =>
        let old := (s.core g.core).wave g.slot
        let new := (u.core g.core).wave g.slot
        (∀ i l, i < old.vregs → l < old.lanes →
          let o := 4 * (i * old.lanes + l)
          g.page * 1024 ≤ o → o + 3 < (g.page + 1) * 1024 → new.vreg l i = BitVec.ofNat 32 (leNat ((List.range 4).map fun b => g.data.getD (o - g.page * 1024 + b) 0))) ∧
        new.g = old.g ∧ new.p = old.p ∧ s.sameWork u))) ∧
    (let idle := f.waits .drain && !s.segBusy w.team w.ctx f.wait.n f.wait.m && !s.hindered w.core (Post.onSeg w.team f.wait.n)
     (idle = false → exec .segdetDrainDone s = .next s) ∧
     (idle = true → exec .segdetDrainDone s =
       .next ((((s.segDrain w.team f.wait.n).segDetach w.team f.wait.n).wake w.core w.entry).push [.issue w.core w.entry]))) ∧
    (∀ k h, let u := s.segDetach k h
      (((s.team k).attach.any fun a => a.handle == h && decide (a.nest ≤ 1)) = true → ∀ a ∈ (u.team k).attach, a.handle ≠ h) ∧
      (((s.team k).attach.any fun a => a.handle == h && decide (a.nest ≤ 1)) = false → u.mem = s.mem ∧
        (u.team k).attach = (s.team k).attach.map fun a => if a.handle == h then { a with nest := a.nest - 1 } else a)) ∧
    (let b := s.beginLeave n x.item
     let g := b.seg n x.item
     let e := segEng g.homeDie n x.item
     let locs := segLocs n x.item g.size
     let data := b.bytesIn locs
     let moves := g.st == .resident && g.busy && g.reload.isNone && !g.parked && !(b.die g.homeDie).fenced
     let lost := g.leaving && (b.ctx n).segback == 0
     (moves = false → exec .segmentEvictDone s = .next b) ∧
     (moves = true → lost = true → exec .segmentEvictDone s = .next (b.loseSeg n x.item g)) ∧
     (∀ v, moves = true → lost = false → b.engWrite e (b.imageAt n x.item) data = .miss v → exec .segmentEvictDone s = .next v) ∧
     (∀ v ps k, moves = true → lost = false → g.rounds < 16 → b.engWrite e (b.imageAt n x.item) data = .fault v ps k →
       exec .segmentEvictDone s = .next (v.parkSeg n x.item ps true)) ∧
     (∀ v a, moves = true → lost = false → b.engWrite e (b.imageAt n x.item) data = .access v a →
       exec .segmentEvictDone s = .next (if g.leaving then v.loseSeg n x.item g else v.evictFails n x.item a)) ∧
     ∀ v v', moves = true → lost = false → b.engWrite e (b.imageAt n x.item) data = .ok v () →
      v.engWrite e (v.bitmapAt n x.item) (good (v.mapBytes locs (bitmapBytes g.size))) = .ok v' () →
      (v'.fabBusy n = true → exec .segmentEvictDone s = .next v') ∧
      (v'.fabBusy n = false → exec .segmentEvictDone s = .next
        (((v'.freeSeg n x.item g).updSeg n x.item fun z => { z with st := .evicted, leaving := false }).unbusy n x.item))) ∧
    (let g := s.seg n x.item
     (g.busy = false ∨ g.parked = true ∨ g.reload = none → exec .segmentReloadDone s = .next s) ∧
     ∀ home cols rows, g.busy = true → g.parked = false → g.reload = some (home, cols, rows) →
      let d := ({ g with home := home, hcols := cols, hrows := rows } : Seg).homeDie
      let e := segEng d n x.item
      ((s.die d).fenced = true → exec .segmentReloadDone s = .next s) ∧
      (∀ v, (s.die d).fenced = false → s.engRead e (s.imageAt n x.item) g.size = .miss v → exec .segmentReloadDone s = .next v) ∧
      (∀ v a, (s.die d).fenced = false → s.engRead e (s.imageAt n x.item) g.size = .access v a →
        exec .segmentReloadDone s = .next (v.reloadFails n x.item g)) ∧
      ∀ v data v' bits, (s.die d).fenced = false → s.engRead e (s.imageAt n x.item) g.size = .ok v data →
        v.engRead e (v.bitmapAt n x.item) (bitmapBytes g.size) = .ok v' bits →
        ∃ z : State, (∀ i b, data[i]? = some b → z.mem.get (segLoc n x.item i) = b.1) ∧ exec .segmentReloadDone s =
          .next ((z.updSeg n x.item fun y => { y with st := .resident, home := home, hcols := cols, hrows := rows }).unbusy n x.item)) ∧
    (match y.scopeUpd with
     | [] => exec .scopeUpdateAck s = .next s
     | v :: more =>
       let new := y.scopes.getD v.entry {}
       let taken := (List.range 40).foldl (fun z k => z.updCore (x.item * 40 + k) fun c =>
         { c with scopes := c.scopes.set (n * 256 + v.entry) new }) s
       (x.item ∉ v.leaves → exec .scopeUpdateAck s = .next s) ∧
       (∀ k, dieOf k = x.item → (taken.core k).scopes.get? (n * 256 + v.entry) = some new) ∧
       (x.item ∈ v.leaves → exec .scopeUpdateAck s = .next
         ((taken.updCtx n fun z => { z with scopeUpd := { v with leaves := v.leaves.filter (· != x.item) } :: more }).endScope n))) ∧
    (y.bindUpd.find? (fun k => k.1 == x.item) = none → exec .bindingPropagated s = .next s) ∧
    (∀ b, y.bindUpd.find? (fun k => k.1 == x.item) = some (x.item, b) → comes .bindingPropagated s fun u =>
      (∀ k < 320, (u.core k).binds.get? (n * 256 + x.item % 256) = some b) ∧ (∀ k ∈ (u.ctx n).bindUpd, k.1 ≠ x.item) ∧
      (∀ k e, (((s.core k).frag e).waits .binding) = true → ((s.core k).frag e).wait.n = x.item → ((u.core k).frag e).wait.ready = true) ∧ u.mem = s.mem) ∧
    (x.flag = true →
      (((s.core n).posts.find? fun p => p.id == x.id) = none → exec .releaseDrainDone s = .next s) ∧
      ∀ p, ((s.core n).posts.find? fun p => p.id == x.id) = some p →
        let may := p.rel.isSome && !s.hindered n fun q => q.id == p.id
        (may = true → exec .releaseDrainDone s = .next (s.performPost n p)) ∧ (may = false → exec .releaseDrainDone s = .next s)) ∧
    (x.flag = false →
      let due := (f.waits .barrier || f.waits .fence) && !s.mustWait w f.wait.cap
      let clean := (s.performWhere n fun p => p.slot == w.slot).cleanCore n f.wait.cap.set.level fun _ => true
      let v := clean.updCore n fun c => c.updFrag w.entry fun f => { f with wait := { f.wait with ready := true } }
      (due = false → exec .releaseDrainDone s = .next s) ∧
      (due = true → f.wait.kind = .fence → exec .releaseDrainDone s = .next (v.push [.issue n w.entry])) ∧
      (due = true → f.wait.kind = .barrier → exec .releaseDrainDone s = .next (v.settleBarriers w.team))) ∧
    (let ok := f.waits .post && !s.mustWait w f.wait.cap
     (ok = false → exec .postAccept s = .next s) ∧
     (ok = true → comes .postAccept s fun u => ((u.core n).frag x.item).wait.ready = true ∧ u.agenda = .issue n x.item :: s.agenda ∧ s.sameWork u))

/-- R23, R91, R174, R226, R230, R235 to R237, R240, R241, R247, R250 to R254, R257, R259, R271, R288, R295, R297, R408: the engines' own
events: a copy channel begins its next job and walks its chain, the task scheduler arms and releases, the matrix and Indigo engines take
and end their work, the fronts send and take triangles; and what leaves a cache or takes effect late.
It rests on the model's readings in log entries 7, 26, 27, 28 and 29. -/
def Obligations.EnginesAndRender : Prop :=
  ∀ s : State,
    let x := s.inp
    let d := x.unit
    let q := x.unit
    (∀ j, s.chanJob d x.item = some j → exec .copyJobStart s = .next s) ∧
    (s.chanJob d x.item = none → s.chanHead d x.item = none → exec .copyJobStart s = .next s) ∧
    (∀ j, s.chanJob d x.item = none → s.chanHead d x.item = some j →
      (j.parked = true → exec .copyJobStart s = .next s) ∧
      (j.parked = false →
        (j.cardBytes = [] → j.card.toNat % 128 ≠ 0 → exec .copyJobStart s = .next (s.haltJob d j 3 j.card)) ∧
        (∀ v, s.readCard d j = .wait v → exec .copyJobStart s = .next v) ∧
        (∀ v ps, s.readCard d j = .fault v ps → exec .copyJobStart s = .next (if 16 ≤ j.rounds then v.haltJob d j 9 j.card else v.parkJob d j ps false)) ∧
        (∀ v code a, s.readCard d j = .bad v code a → exec .copyJobStart s = .next (v.haltJob d j code a)) ∧
        ∀ v k c, s.readCard d j = .ok v k c →
          (∀ code, lowestCode (v.cardCodes k c) = some code → exec .copyJobStart s = .next (v.haltJob d k code k.card)) ∧
          (lowestCode (v.cardCodes k c) = none → ∀ v', v.mayBegin d k = (v', false) → exec .copyJobStart s = .next v') ∧
          (lowestCode (v.cardCodes k c) = none → ∀ v', v.mayBegin d k = (v', true) → exec .copyJobStart s =
            .next ((v'.beginJob d k.ctx).updJob d k.id fun z => { z with running := true, rounds := 0 })))) ∧
    (s.chanJob d x.item = none → exec .copyRecordDone s = .next s) ∧
    (∀ j, s.chanJob d x.item = some j → exec .copyRecordDone s = .next (if j.parked then s else runJob d j.id 1 s)) ∧
    ((s.job d x.id).all (fun j => !j.slow || j.parked) = true → exec .slowPathJobEnd s = .next s) ∧
    (∀ j, s.job d x.id = some j → j.slow = true → j.parked = false → exec .slowPathJobEnd s = .next (runJob d j.id 65538 s)) ∧
    (∀ k (j : Job), (j.recA = 0 → s.walkRec k j = .ends s) ∧
      ∀ v bs, j.recA ≠ 0 → j.recBytes = [] → s.engRead (jobEng k j) j.recA 64 = .ok v bs →
        let r := recOf (bs.map Prod.fst)
        let v := v.fabForget (.job k j.id)
        (anyBad bs = true → s.walkRec k j = .bad v (badAt j.recA bs) false) ∧
        (anyBad bs = false → r.own = false → s.walkRec k j = .ends v) ∧
        (anyBad bs = false → r.own = true → 65536 ≤ j.count → s.walkRec k j = .halt v 7 j.recA) ∧
        ∀ code, anyBad bs = false → r.own = true → j.count < 65536 → lowestCode (v.recCodes j r) = some code → s.walkRec k j = .halt v code j.recA) ∧
    ((s.job d x.id).all (fun j => !j.task || j.parked || j.answer.isSome) = true → exec .taskArm s = .next s) ∧
    (∀ j, s.job d x.id = some j → j.task = true → j.parked = false → j.answer = none →
      (j.cardBytes = [] → j.card.toNat % 128 ≠ 0 → exec .taskArm s = .next (s.refuseTask d j 3 j.card)) ∧
      ∀ v k c, s.readCard d j = .ok v k c →
        let t := (v.ctx k.ctx).tasks.getD c.tasknum {}
        (∀ code, lowestCode (v.cardCodes k c) = some code → exec .taskArm s = .next (v.refuseTask d k code k.card)) ∧
        (lowestCode (v.cardCodes k c) = none →
          (t.st ≠ .idle → exec .taskArm s = .next (v.refuseTask d k 10 k.card)) ∧
          (t.st = .idle → 65535 < t.count + c.init → exec .taskArm s = .next (v.refuseTask d k 11 k.card)) ∧
          ∀ v' bs, t.st = .idle → t.count + c.init ≤ 65535 → v.engRead { jobEng d k with io := true } c.pkt 64 = .ok v' bs → anyBad bs = false →
            engNat bs % 16 ≠ 6 → comes .taskArm s fun u => (u.ctx k.ctx).tasks.get? c.tasknum =
              some { t with count := t.count + c.init, packet := bs.map Prod.fst, st := .armed, die := d, job := k.id })) ∧
    (let t := (s.ctx d).tasks.getD x.item {}
     (t.st ≠ .armed ∨ t.count ≠ 0 ∨ s.job t.die t.job = none → exec .taskRelease s = .next s) ∧
     ∀ j v go, t.st = .armed → t.count = 0 → s.job t.die t.job = some j → s.mayBegin t.die j = (v, go) →
      (go = false → exec .taskRelease s = .next v) ∧
      (go = true → comes .taskRelease s fun u => (u.ctx d).tasks.get? x.item = some { t with st := .released } ∧
        (u.ctx d).taskQ = (v.ctx d).taskQ ++ [x.item] ∧ u.mem = v.mem)) ∧
    (let port := x.flag
     let e := s.quartet q
     let free := if port then e.port.isNone else e.array.isNone
     (free = false ∨ e.mRetired = true ∨ s.mChoice q port = none → exec .matrixGrant s = .next s) ∧
     (port = false → s.tokenTurn q = false → exec .matrixGrant s = .next s) ∧
     ∀ r, free = true → e.mRetired = false → s.mChoice q port = some r → port = true ∨ s.tokenTurn q = true →
      (r ∈ e.table ∧ r.tokens ≤ s.mgmt.pool ∧ ∀ z ∈ e.table, z.onPort = port → s.mReady q z = true →
        (s.ctx z.ctx).prio.toNat < (s.ctx r.ctx).prio.toNat ∨ (s.ctx z.ctx).prio = (s.ctx r.ctx).prio ∧ r.id ≤ z.id) ∧
      comes .matrixGrant s fun u => (if port then (u.quartet q).port else (u.quartet q).array) = some { r with granted := true } ∧
        (u.quartet q).table = e.table.filter (fun z => z.id != r.id) ∧ u.mgmt.pool = s.mgmt.pool - r.tokens ∧ s.sameWork u) ∧
    (let unit := if x.flag then (s.quartet q).port else (s.quartet q).array
     (unit = none → exec .matrixComplete s = .next s) ∧
     ∀ r, unit = some r →
      (r.op = .mma ∨ r.op = .mmas → s.badMeta r = false →
        exec .matrixComplete s = .next ((s.pass r r.d false fun i j => s.mmaElem r i j).mDone q r)) ∧
      (r.op = .mma ∨ r.op = .mmas → s.badMeta r = true → exec .matrixComplete s = .next (s.mHalt q r 14 0)) ∧
      (r.op = .mlut → exec .matrixComplete s = .next ((s.pass r r.d false fun i j => s.mlutElem r i j).mDone q r)) ∧
      (r.op = .mcvt → exec .matrixComplete s = .next ((s.mcvtPass q r).mDone q r)) ∧
      (r.op = .mzero → exec .matrixComplete s = .next ((s.zeroTile r.team r.d).mDone q r) ∧
        ∀ i < 65536, (s.zeroTile r.team r.d).mem.get (tileLoc r.team r.d i) = 0) ∧
      (r.op = .mld ∨ r.op = .mst → exec .matrixComplete s = .next (s.runMove q r))) ∧
    (∀ z, (s.quartet q).slots.get? x.item = some z → (z.started = true ∨ z.ending = true ∨ z.parked = true → exec .queryStart s = .next s) ∧
      (z.started = false → z.ending = false → z.parked = false →
        exec .queryStart s = .next ((s.openQuery q x.item z).apply q x.item z))) ∧
    ((s.quartet q).slots.get? x.item = none → 8 ≤ x.item ∨ (s.quartet q).iRetired = true ∨ s.nextQuery q = none → exec .queryStart s = .next s) ∧
    (∀ z, (s.quartet q).slots.get? x.item = none → x.item < 8 → (s.quartet q).iRetired = false → s.nextQuery q = some z →
      let c := s.ctx z.ctx
      let z' : Query := { z with spillBase := c.spillBase ++ (0 : BitVec 12), spillPages := c.spillPages.toNat }
      let v := (s.updQuartet q fun e => { e with queue := e.queue.filter fun y => y.id != z.id }).setQuery q x.item z'
      exec .queryStart s = .next ((v.openQuery q x.item z').apply q x.item z') ∧
      (z.recA.toNat % 64 ≠ 0 → comes .queryStart s fun u => ∃ y, (u.quartet q).slots.get? x.item = some y ∧ y.id = z.id ∧ y.ending = true ∧
        y.status = 3 ∧ u.mem = s.mem ∧ ∀ k ∈ (u.quartet q).queue, k.id ≠ z.id)) ∧
    ((s.quartet q).slots.get? x.item = none → exec .queryRecord s = .next s) ∧
    (∀ z, (s.quartet q).slots.get? x.item = some z →
      (z.parked = true → exec .queryRecord s = .next s) ∧
      (z.parked = false → z.ending = true → exec .queryRecord s = .next (s.endQuery q x.item z)) ∧
      (z.parked = false → z.ending = false → z.started = false → exec .queryRecord s = .next s) ∧
      ∀ r, z.parked = false → z.ending = false → z.started = true → qrecOf (leNat z.recBytes) = some r →
        (z.stack = [] → z.blocks = 0 → s.tearing z.ctx = true → exec .queryRecord s = .next (s.closeQuery q z 5)) ∧
        (∀ t rest u y, z.stack = t :: rest → s.tearing z.ctx = true →
          s.runRecord (queryEng q x.item z) r { z with stack := rest } t = .ok u y → exec .queryRecord s = .next (u.closeQuery q y 5)) ∧
        (z.stack = [] → z.blocks = 0 → s.tearing z.ctx = false → comes .queryRecord s fun u => ∃ y, (u.quartet q).slots.get? x.item = some y ∧ y.ending = true ∧ y.status = 0 ∧
          y.hits = z.hits ∧ u.mem = s.mem) ∧
        ∀ t rest, z.stack = t :: rest → s.tearing z.ctx = false → exec .queryRecord s =
          .next ((s.runRecord (queryEng q x.item z) r { z with stack := rest } t).apply q x.item z)) ∧
    (let next := (s.die d).tris.any fun t => t.dst == x.item && !t.sent
     (256 ≤ (s.die d).inFlight x.item ∨ next = false → exec .triangleSend s = .next s) ∧
     ((s.die d).inFlight x.item < 256 → next = true → comes .triangleSend s fun u => (u.die d).inFlight x.item = (s.die d).inFlight x.item + 1 ∧
        (u.die d).tris.length = (s.die d).tris.length ∧ s.sameWork u)) ∧
    ((s.die x.item).tris[x.id]? = none → exec .triangleArrival s = .next s) ∧
    (∀ t, (s.die x.item).tris[x.id]? = some t →
      let key (tx ty : Nat) : Nat := inKey x.item t.launch t.desc.addr tx ty
      let turn := t.dst == d && t.sent && t.regions.all fun r => (s.die d).seqIn.getD (key r.1 r.2.1) 0 == r.2.2
      (turn = false → exec .triangleArrival s = .next s) ∧
      (turn = true →
        let a := (s.updDie x.item fun y => { y with tris := y.tris.eraseIdx x.id }).updDie d fun y =>
          { y with seqIn := t.regions.foldl (fun m r => m.set (key r.1 r.2.1) ((r.2.2 + 1) % 2 ^ 32)) y.seqIn }
        exec .triangleArrival s = .next ((t.regions.foldl (fun u r =>
          if t.soft then u.packTri d t r.1 r.2.1 else u.rasterRegion d (s.launch t.launch).ctx t r.1 r.2.1) a).triDone x.item t.slot 1))) ∧
    ((s.die d).packs[x.item]? = none → exec .swWaveTimeout s = .next s) ∧
    (∀ p, (s.die d).packs[x.item]? = some p → exec .swWaveTimeout s = .next (s.formPack d p)) ∧
    (let waits := (s.meshTickets d).any fun e => !s.fitsOn e.ticket d
     let ts := ((s.slotWaiters d).map fun y => (s.whoAt y.2.2.1 y.2.2.2).team).filter fun t => !(s.team t).preempt
     (waits = false ∨ ts = [] → exec .meshStarvation s = .next s) ∧
     (waits = true → ts ≠ [] → comes .meshStarvation s fun u => s.mem = u.mem ∧ ∃ t ∈ ts, (∀ k ∈ ts, k ≤ t) ∧ ∀ m ∈ s.members t, (u.team m).preempt = true)) ∧
    (comes .cacheLineEviction s fun u => match x.level with
      | .l1 => (u.core d).l1.get? x.item = none ∧ ((s.core d).l1.get? x.item = none → u = s) ∧
        (∀ ln, (s.core d).l1.get? x.item = some ln → ln.dirty = 0 → s.sameWork u)
      | .l2 => (u.die d).l2.get? x.item = none ∧ ((s.die d).l2.get? x.item = none → u = s) ∧
        (∀ ln, (s.die d).l2.get? x.item = some ln → ln.dirty = 0 → s.sameWork u)
      | .llc => (u.die d).llc.get? x.item = none ∧ s.sameWork u
      | .icache => (u.core d).icache.get? x.item = none ∧ s.sameWork u) ∧
    (((s.core d).posts.find? fun p => p.id == x.id) = none → exec .nonReturningOperationPerformed s = .next s) ∧
    ∀ p, ((s.core d).posts.find? fun p => p.id == x.id) = some p →
      (p.rel.isSome = true ∨ ((s.core d).due fun y => y.id == p.id).length ≠ 1 → exec .nonReturningOperationPerformed s = .next s) ∧
      (p.rel = none → ((s.core d).due fun y => y.id == p.id).length = 1 → exec .nonReturningOperationPerformed s = .next (s.performOne d p)) ∧
      ∀ data : List (Nat × Byte), p.op = .store data → p.place = .home → (data.map Prod.fst).Nodup → (data.all fun y => !isDev y.1) = true →
        (∀ y ∈ data, (s.performOp p).mem.get y.1 = y.2) ∧ ∀ l, l ∉ data.map Prod.fst → (s.performOp p).mem.get l = s.mem.get l

/-- What zasm's lines come to (R371, R373). An assembled instruction carries no word that R355 to R361 refuse for every wave, so the
words of the manual's worked lines and no others come of them; a branch to a label within R352's reach goes to the label's address
and one beyond it, or not a whole number of words away, is an error; and a kernel's descriptor template, laid out as Table 5.1 gives
it, reads back as its fields. That such a line is an error is the model's choice (log entry 39). -/
def Obligations.AssembledLines : Prop :=
  (∀ ns g name quals ops i, assembleLine ns g name quals ops = .ok (.ins i) → i.illegal .largest = none) ∧
  (∀ (m : Nat) (mk : BForm → Instr) (f : BForm) (addr target : Nat), branchOf m = some mk →
    let off : Int := (target : Int) - addr
    ((off % 4 ≠ 0 ∨ off < -1048576 ∨ 1048572 < off) → brTo m f addr target = none) ∧
    (off % 4 = 0 → -1048576 ≤ off → off ≤ 1048572 →
      ∃ b : BForm, brTo m f addr target = some (mk b) ∧ b.sw = f.sw ∧ b.sense = f.sense ∧ b.pred = f.pred ∧
        branchTarget b (BitVec.ofNat 64 addr) = BitVec.ofNat 64 target)) ∧
  (∀ d : Desc, d.ranges = true → d.fuseTo < 2 ^ 16 → descOf d.image.toNat = d) ∧
  lineWords "?p2 FADD.rtz v8, v5, v6" = some (0x28080A18, some 0x200B2000) ∧
  lineWords "MOVI v9, 0x8000_0000" = some (0x24090002, some 0x80000000) ∧
  lineWords "GLD g1, [g0 + 4]" = some (0xA3820001, some 4) ∧
  lineWords "GSHR g0, g1, g2" = some (0x82000842, none)
end

