-- ==== Sys2Proof/Laws/Tbl.lean ====
section
/-! SUPPORT. The laws of finite tables: what a table reads as after each of its operations. -/

namespace Sys2Proof

variable {α : Type}

@[simp] theorem Tbl.get?_nil (k : Nat) : Tbl.get? ([] : Tbl α) k = none := rfl
@[simp] theorem Tbl.getD_nil (k : Nat) (d : α) : Tbl.getD ([] : Tbl α) k d = d := rfl
@[simp] theorem Tbl.erase_nil (k : Nat) : Tbl.erase ([] : Tbl α) k = [] := rfl

@[simp] theorem Tbl.get?_set_self (t : Tbl α) (k : Nat) (v : α) : Tbl.get? (Tbl.set t k v) k = some v := by
  induction t with
  | nil => simp [Tbl.set, Tbl.get?]
  | cons x t ih =>
    obtain ⟨j, w⟩ := x
    simp only [Tbl.set]
    split
    · simp [Tbl.get?]
    · split
      · simp [Tbl.get?]
      · simp_all [Tbl.get?]

theorem Tbl.get?_set_ne (t : Tbl α) (k j : Nat) (v : α) (h : j ≠ k) : Tbl.get? (Tbl.set t k v) j = Tbl.get? t j := by
  induction t with
  | nil => simp [Tbl.set, Tbl.get?]; omega
  | cons x t ih =>
    obtain ⟨i, w⟩ := x
    simp only [Tbl.set]
    split
    · subst_vars; simp [Tbl.get?, Ne.symm h]
    · split
      · simp [Tbl.get?, Ne.symm h]
      · simp [Tbl.get?, ih]

theorem Tbl.get?_set (t : Tbl α) (k j : Nat) (v : α) : Tbl.get? (Tbl.set t k v) j = if j = k then some v else Tbl.get? t j := by
  split
  · subst_vars; simp
  · exact Tbl.get?_set_ne _ _ _ _ ‹_›

@[simp] theorem Tbl.getD_set_self (t : Tbl α) (k : Nat) (v d : α) : Tbl.getD (Tbl.set t k v) k d = v := by
  simp [Tbl.getD]

theorem Tbl.getD_set_ne (t : Tbl α) (k j : Nat) (v d : α) (h : j ≠ k) : Tbl.getD (Tbl.set t k v) j d = Tbl.getD t j d := by
  simp [Tbl.getD, Tbl.get?_set_ne _ _ _ _ h]

theorem Tbl.getD_set (t : Tbl α) (k j : Nat) (v d : α) : Tbl.getD (Tbl.set t k v) j d = if j = k then v else Tbl.getD t j d := by
  split
  · subst_vars; simp
  · exact Tbl.getD_set_ne _ _ _ _ _ ‹_›

@[simp] theorem Tbl.get?_erase_self (t : Tbl α) (k : Nat) : Tbl.get? (Tbl.erase t k) k = none := by
  induction t with
  | nil => rfl
  | cons x t ih =>
    obtain ⟨j, w⟩ := x
    simp only [Tbl.erase]
    split <;> simp_all [Tbl.get?]

theorem Tbl.get?_erase_ne (t : Tbl α) (k j : Nat) (h : j ≠ k) : Tbl.get? (Tbl.erase t k) j = Tbl.get? t j := by
  induction t with
  | nil => rfl
  | cons x t ih =>
    obtain ⟨i, w⟩ := x
    simp only [Tbl.erase]
    split
    · subst_vars; simp [Tbl.get?, Ne.symm h, ih]
    · simp [Tbl.get?, ih]

@[simp] theorem Tbl.getD_erase_self (t : Tbl α) (k : Nat) (d : α) : Tbl.getD (Tbl.erase t k) k d = d := by simp [Tbl.getD]
theorem Tbl.getD_erase_ne (t : Tbl α) (k j : Nat) (d : α) (h : j ≠ k) : Tbl.getD (Tbl.erase t k) j d = Tbl.getD t j d := by
  simp [Tbl.getD, Tbl.get?_erase_ne _ _ _ h]

@[simp] theorem Tbl.getD_put_self [DecidableEq α] (t : Tbl α) (k : Nat) (v d : α) : Tbl.getD (Tbl.put t k v d) k d = v := by
  unfold Tbl.put; split <;> simp_all
theorem Tbl.getD_put_ne [DecidableEq α] (t : Tbl α) (k j : Nat) (v d e : α) (h : j ≠ k) :
    Tbl.getD (Tbl.put t k v d) j e = Tbl.getD t j e := by
  unfold Tbl.put; split
  · exact Tbl.getD_erase_ne _ _ _ _ h
  · exact Tbl.getD_set_ne _ _ _ _ _ h
theorem Tbl.getD_put [DecidableEq α] (t : Tbl α) (k j : Nat) (v d : α) :
    Tbl.getD (Tbl.put t k v d) j d = if j = k then v else Tbl.getD t j d := by
  split
  · subst_vars; simp
  · exact Tbl.getD_put_ne _ _ _ _ _ _ ‹_›

/-- What a read of a mapped table gives. -/
theorem Tbl.get?_map {β : Type} (f : α → β) (t : Tbl α) (k : Nat) :
    Tbl.get? (t.map fun (n, x) => (n, f x)) k = (Tbl.get? t k).map f := by
  induction t with
  | nil => rfl
  | cons x t ih =>
    obtain ⟨j, w⟩ := x
    simp only [List.map_cons, Tbl.get?]
    split <;> simp_all

end Sys2Proof
end

