-- ==== Sys2Proof/Laws/State.lean ====
section
/-! SUPPORT. The state's updates: what each leaves as it was, field by field, and what the unit it changes reads as. -/

namespace Sys2Proof
namespace Machine

variable (s : State)

/-! ### setCore -/
@[simp] theorem State.setCore_mgmt (n : Nat) (c : Core) : (s.setCore n c).mgmt = s.mgmt := rfl
@[simp] theorem State.setCore_link (n : Nat) (c : Core) : (s.setCore n c).link = s.link := rfl
@[simp] theorem State.setCore_fab (n : Nat) (c : Core) : (s.setCore n c).fab = s.fab := rfl
@[simp] theorem State.setCore_mem (n : Nat) (c : Core) : (s.setCore n c).mem = s.mem := rfl
@[simp] theorem State.setCore_dies (n : Nat) (c : Core) : (s.setCore n c).dies = s.dies := rfl
@[simp] theorem State.setCore_board (n : Nat) (c : Core) : (s.setCore n c).board = s.board := rfl
@[simp] theorem State.setCore_quartets (n : Nat) (c : Core) : (s.setCore n c).quartets = s.quartets := rfl
@[simp] theorem State.setCore_ctxs (n : Nat) (c : Core) : (s.setCore n c).ctxs = s.ctxs := rfl
@[simp] theorem State.setCore_woad (n : Nat) (c : Core) : (s.setCore n c).woad = s.woad := rfl
@[simp] theorem State.setCore_teams (n : Nat) (c : Core) : (s.setCore n c).teams = s.teams := rfl
@[simp] theorem State.setCore_launches (n : Nat) (c : Core) : (s.setCore n c).launches = s.launches := rfl
@[simp] theorem State.setCore_nextTeam (n : Nat) (c : Core) : (s.setCore n c).nextTeam = s.nextTeam := rfl
@[simp] theorem State.setCore_nextId (n : Nat) (c : Core) : (s.setCore n c).nextId = s.nextId := rfl
@[simp] theorem State.setCore_agenda (n : Nat) (c : Core) : (s.setCore n c).agenda = s.agenda := rfl
@[simp] theorem State.setCore_inp (n : Nat) (c : Core) : (s.setCore n c).inp = s.inp := rfl
@[simp] theorem State.setCore_cur (n : Nat) (c : Core) : (s.setCore n c).cur = s.cur := rfl
@[simp] theorem State.setCore_free (n : Nat) (c : Core) : (s.setCore n c).free = s.free := rfl
@[simp] theorem State.setCore_choice (n : Nat) (c : Core) : (s.setCore n c).choice = s.choice := rfl
@[simp] theorem State.setCore_rels (n : Nat) (c : Core) : (s.setCore n c).rels = s.rels := rfl
@[simp] theorem State.setCore_moves (n : Nat) (c : Core) : (s.setCore n c).moves = s.moves := rfl
@[simp] theorem State.setCore_skips (n : Nat) (c : Core) : (s.setCore n c).skips = s.skips := rfl

/-! ### updCore -/
@[simp] theorem State.updCore_mgmt (n : Nat) (f : Core → Core) : (s.updCore n f).mgmt = s.mgmt := rfl
@[simp] theorem State.updCore_link (n : Nat) (f : Core → Core) : (s.updCore n f).link = s.link := rfl
@[simp] theorem State.updCore_fab (n : Nat) (f : Core → Core) : (s.updCore n f).fab = s.fab := rfl
@[simp] theorem State.updCore_mem (n : Nat) (f : Core → Core) : (s.updCore n f).mem = s.mem := rfl
@[simp] theorem State.updCore_dies (n : Nat) (f : Core → Core) : (s.updCore n f).dies = s.dies := rfl
@[simp] theorem State.updCore_board (n : Nat) (f : Core → Core) : (s.updCore n f).board = s.board := rfl
@[simp] theorem State.updCore_quartets (n : Nat) (f : Core → Core) : (s.updCore n f).quartets = s.quartets := rfl
@[simp] theorem State.updCore_ctxs (n : Nat) (f : Core → Core) : (s.updCore n f).ctxs = s.ctxs := rfl
@[simp] theorem State.updCore_woad (n : Nat) (f : Core → Core) : (s.updCore n f).woad = s.woad := rfl
@[simp] theorem State.updCore_teams (n : Nat) (f : Core → Core) : (s.updCore n f).teams = s.teams := rfl
@[simp] theorem State.updCore_launches (n : Nat) (f : Core → Core) : (s.updCore n f).launches = s.launches := rfl
@[simp] theorem State.updCore_nextTeam (n : Nat) (f : Core → Core) : (s.updCore n f).nextTeam = s.nextTeam := rfl
@[simp] theorem State.updCore_nextId (n : Nat) (f : Core → Core) : (s.updCore n f).nextId = s.nextId := rfl
@[simp] theorem State.updCore_agenda (n : Nat) (f : Core → Core) : (s.updCore n f).agenda = s.agenda := rfl
@[simp] theorem State.updCore_inp (n : Nat) (f : Core → Core) : (s.updCore n f).inp = s.inp := rfl
@[simp] theorem State.updCore_cur (n : Nat) (f : Core → Core) : (s.updCore n f).cur = s.cur := rfl
@[simp] theorem State.updCore_free (n : Nat) (f : Core → Core) : (s.updCore n f).free = s.free := rfl
@[simp] theorem State.updCore_choice (n : Nat) (f : Core → Core) : (s.updCore n f).choice = s.choice := rfl
@[simp] theorem State.updCore_rels (n : Nat) (f : Core → Core) : (s.updCore n f).rels = s.rels := rfl
@[simp] theorem State.updCore_moves (n : Nat) (f : Core → Core) : (s.updCore n f).moves = s.moves := rfl
@[simp] theorem State.updCore_skips (n : Nat) (f : Core → Core) : (s.updCore n f).skips = s.skips := rfl

/-! ### setDie -/
@[simp] theorem State.setDie_mgmt (d : Nat) (x : Die) : (s.setDie d x).mgmt = s.mgmt := rfl
@[simp] theorem State.setDie_link (d : Nat) (x : Die) : (s.setDie d x).link = s.link := rfl
@[simp] theorem State.setDie_fab (d : Nat) (x : Die) : (s.setDie d x).fab = s.fab := rfl
@[simp] theorem State.setDie_mem (d : Nat) (x : Die) : (s.setDie d x).mem = s.mem := rfl
@[simp] theorem State.setDie_board (d : Nat) (x : Die) : (s.setDie d x).board = s.board := rfl
@[simp] theorem State.setDie_cores (d : Nat) (x : Die) : (s.setDie d x).cores = s.cores := rfl
@[simp] theorem State.setDie_quartets (d : Nat) (x : Die) : (s.setDie d x).quartets = s.quartets := rfl
@[simp] theorem State.setDie_ctxs (d : Nat) (x : Die) : (s.setDie d x).ctxs = s.ctxs := rfl
@[simp] theorem State.setDie_woad (d : Nat) (x : Die) : (s.setDie d x).woad = s.woad := rfl
@[simp] theorem State.setDie_teams (d : Nat) (x : Die) : (s.setDie d x).teams = s.teams := rfl
@[simp] theorem State.setDie_launches (d : Nat) (x : Die) : (s.setDie d x).launches = s.launches := rfl
@[simp] theorem State.setDie_nextTeam (d : Nat) (x : Die) : (s.setDie d x).nextTeam = s.nextTeam := rfl
@[simp] theorem State.setDie_nextId (d : Nat) (x : Die) : (s.setDie d x).nextId = s.nextId := rfl
@[simp] theorem State.setDie_agenda (d : Nat) (x : Die) : (s.setDie d x).agenda = s.agenda := rfl
@[simp] theorem State.setDie_inp (d : Nat) (x : Die) : (s.setDie d x).inp = s.inp := rfl
@[simp] theorem State.setDie_cur (d : Nat) (x : Die) : (s.setDie d x).cur = s.cur := rfl
@[simp] theorem State.setDie_free (d : Nat) (x : Die) : (s.setDie d x).free = s.free := rfl
@[simp] theorem State.setDie_choice (d : Nat) (x : Die) : (s.setDie d x).choice = s.choice := rfl
@[simp] theorem State.setDie_rels (d : Nat) (x : Die) : (s.setDie d x).rels = s.rels := rfl
@[simp] theorem State.setDie_moves (d : Nat) (x : Die) : (s.setDie d x).moves = s.moves := rfl
@[simp] theorem State.setDie_skips (d : Nat) (x : Die) : (s.setDie d x).skips = s.skips := rfl

/-! ### updDie -/
@[simp] theorem State.updDie_mgmt (d : Nat) (f : Die → Die) : (s.updDie d f).mgmt = s.mgmt := rfl
@[simp] theorem State.updDie_link (d : Nat) (f : Die → Die) : (s.updDie d f).link = s.link := rfl
@[simp] theorem State.updDie_fab (d : Nat) (f : Die → Die) : (s.updDie d f).fab = s.fab := rfl
@[simp] theorem State.updDie_mem (d : Nat) (f : Die → Die) : (s.updDie d f).mem = s.mem := rfl
@[simp] theorem State.updDie_board (d : Nat) (f : Die → Die) : (s.updDie d f).board = s.board := rfl
@[simp] theorem State.updDie_cores (d : Nat) (f : Die → Die) : (s.updDie d f).cores = s.cores := rfl
@[simp] theorem State.updDie_quartets (d : Nat) (f : Die → Die) : (s.updDie d f).quartets = s.quartets := rfl
@[simp] theorem State.updDie_ctxs (d : Nat) (f : Die → Die) : (s.updDie d f).ctxs = s.ctxs := rfl
@[simp] theorem State.updDie_woad (d : Nat) (f : Die → Die) : (s.updDie d f).woad = s.woad := rfl
@[simp] theorem State.updDie_teams (d : Nat) (f : Die → Die) : (s.updDie d f).teams = s.teams := rfl
@[simp] theorem State.updDie_launches (d : Nat) (f : Die → Die) : (s.updDie d f).launches = s.launches := rfl
@[simp] theorem State.updDie_nextTeam (d : Nat) (f : Die → Die) : (s.updDie d f).nextTeam = s.nextTeam := rfl
@[simp] theorem State.updDie_nextId (d : Nat) (f : Die → Die) : (s.updDie d f).nextId = s.nextId := rfl
@[simp] theorem State.updDie_agenda (d : Nat) (f : Die → Die) : (s.updDie d f).agenda = s.agenda := rfl
@[simp] theorem State.updDie_inp (d : Nat) (f : Die → Die) : (s.updDie d f).inp = s.inp := rfl
@[simp] theorem State.updDie_cur (d : Nat) (f : Die → Die) : (s.updDie d f).cur = s.cur := rfl
@[simp] theorem State.updDie_free (d : Nat) (f : Die → Die) : (s.updDie d f).free = s.free := rfl
@[simp] theorem State.updDie_choice (d : Nat) (f : Die → Die) : (s.updDie d f).choice = s.choice := rfl
@[simp] theorem State.updDie_rels (d : Nat) (f : Die → Die) : (s.updDie d f).rels = s.rels := rfl
@[simp] theorem State.updDie_moves (d : Nat) (f : Die → Die) : (s.updDie d f).moves = s.moves := rfl
@[simp] theorem State.updDie_skips (d : Nat) (f : Die → Die) : (s.updDie d f).skips = s.skips := rfl

/-! ### updQuartet -/
@[simp] theorem State.updQuartet_mgmt (q : Nat) (f : Quartet → Quartet) : (s.updQuartet q f).mgmt = s.mgmt := rfl
@[simp] theorem State.updQuartet_link (q : Nat) (f : Quartet → Quartet) : (s.updQuartet q f).link = s.link := rfl
@[simp] theorem State.updQuartet_fab (q : Nat) (f : Quartet → Quartet) : (s.updQuartet q f).fab = s.fab := rfl
@[simp] theorem State.updQuartet_mem (q : Nat) (f : Quartet → Quartet) : (s.updQuartet q f).mem = s.mem := rfl
@[simp] theorem State.updQuartet_dies (q : Nat) (f : Quartet → Quartet) : (s.updQuartet q f).dies = s.dies := rfl
@[simp] theorem State.updQuartet_board (q : Nat) (f : Quartet → Quartet) : (s.updQuartet q f).board = s.board := rfl
@[simp] theorem State.updQuartet_cores (q : Nat) (f : Quartet → Quartet) : (s.updQuartet q f).cores = s.cores := rfl
@[simp] theorem State.updQuartet_ctxs (q : Nat) (f : Quartet → Quartet) : (s.updQuartet q f).ctxs = s.ctxs := rfl
@[simp] theorem State.updQuartet_woad (q : Nat) (f : Quartet → Quartet) : (s.updQuartet q f).woad = s.woad := rfl
@[simp] theorem State.updQuartet_teams (q : Nat) (f : Quartet → Quartet) : (s.updQuartet q f).teams = s.teams := rfl
@[simp] theorem State.updQuartet_launches (q : Nat) (f : Quartet → Quartet) : (s.updQuartet q f).launches = s.launches := rfl
@[simp] theorem State.updQuartet_nextTeam (q : Nat) (f : Quartet → Quartet) : (s.updQuartet q f).nextTeam = s.nextTeam := rfl
@[simp] theorem State.updQuartet_nextId (q : Nat) (f : Quartet → Quartet) : (s.updQuartet q f).nextId = s.nextId := rfl
@[simp] theorem State.updQuartet_agenda (q : Nat) (f : Quartet → Quartet) : (s.updQuartet q f).agenda = s.agenda := rfl
@[simp] theorem State.updQuartet_inp (q : Nat) (f : Quartet → Quartet) : (s.updQuartet q f).inp = s.inp := rfl
@[simp] theorem State.updQuartet_cur (q : Nat) (f : Quartet → Quartet) : (s.updQuartet q f).cur = s.cur := rfl
@[simp] theorem State.updQuartet_free (q : Nat) (f : Quartet → Quartet) : (s.updQuartet q f).free = s.free := rfl
@[simp] theorem State.updQuartet_choice (q : Nat) (f : Quartet → Quartet) : (s.updQuartet q f).choice = s.choice := rfl
@[simp] theorem State.updQuartet_rels (q : Nat) (f : Quartet → Quartet) : (s.updQuartet q f).rels = s.rels := rfl
@[simp] theorem State.updQuartet_moves (q : Nat) (f : Quartet → Quartet) : (s.updQuartet q f).moves = s.moves := rfl
@[simp] theorem State.updQuartet_skips (q : Nat) (f : Quartet → Quartet) : (s.updQuartet q f).skips = s.skips := rfl

/-! ### updCtx -/
@[simp] theorem State.updCtx_mgmt (c : Nat) (f : Ctx → Ctx) : (s.updCtx c f).mgmt = s.mgmt := rfl
@[simp] theorem State.updCtx_link (c : Nat) (f : Ctx → Ctx) : (s.updCtx c f).link = s.link := rfl
@[simp] theorem State.updCtx_fab (c : Nat) (f : Ctx → Ctx) : (s.updCtx c f).fab = s.fab := rfl
@[simp] theorem State.updCtx_mem (c : Nat) (f : Ctx → Ctx) : (s.updCtx c f).mem = s.mem := rfl
@[simp] theorem State.updCtx_dies (c : Nat) (f : Ctx → Ctx) : (s.updCtx c f).dies = s.dies := rfl
@[simp] theorem State.updCtx_board (c : Nat) (f : Ctx → Ctx) : (s.updCtx c f).board = s.board := rfl
@[simp] theorem State.updCtx_cores (c : Nat) (f : Ctx → Ctx) : (s.updCtx c f).cores = s.cores := rfl
@[simp] theorem State.updCtx_quartets (c : Nat) (f : Ctx → Ctx) : (s.updCtx c f).quartets = s.quartets := rfl
@[simp] theorem State.updCtx_woad (c : Nat) (f : Ctx → Ctx) : (s.updCtx c f).woad = s.woad := rfl
@[simp] theorem State.updCtx_teams (c : Nat) (f : Ctx → Ctx) : (s.updCtx c f).teams = s.teams := rfl
@[simp] theorem State.updCtx_launches (c : Nat) (f : Ctx → Ctx) : (s.updCtx c f).launches = s.launches := rfl
@[simp] theorem State.updCtx_nextTeam (c : Nat) (f : Ctx → Ctx) : (s.updCtx c f).nextTeam = s.nextTeam := rfl
@[simp] theorem State.updCtx_nextId (c : Nat) (f : Ctx → Ctx) : (s.updCtx c f).nextId = s.nextId := rfl
@[simp] theorem State.updCtx_agenda (c : Nat) (f : Ctx → Ctx) : (s.updCtx c f).agenda = s.agenda := rfl
@[simp] theorem State.updCtx_inp (c : Nat) (f : Ctx → Ctx) : (s.updCtx c f).inp = s.inp := rfl
@[simp] theorem State.updCtx_cur (c : Nat) (f : Ctx → Ctx) : (s.updCtx c f).cur = s.cur := rfl
@[simp] theorem State.updCtx_free (c : Nat) (f : Ctx → Ctx) : (s.updCtx c f).free = s.free := rfl
@[simp] theorem State.updCtx_choice (c : Nat) (f : Ctx → Ctx) : (s.updCtx c f).choice = s.choice := rfl
@[simp] theorem State.updCtx_rels (c : Nat) (f : Ctx → Ctx) : (s.updCtx c f).rels = s.rels := rfl
@[simp] theorem State.updCtx_moves (c : Nat) (f : Ctx → Ctx) : (s.updCtx c f).moves = s.moves := rfl
@[simp] theorem State.updCtx_skips (c : Nat) (f : Ctx → Ctx) : (s.updCtx c f).skips = s.skips := rfl

/-! ### updTeam -/
@[simp] theorem State.updTeam_mgmt (t : Nat) (f : Team → Team) : (s.updTeam t f).mgmt = s.mgmt := rfl
@[simp] theorem State.updTeam_link (t : Nat) (f : Team → Team) : (s.updTeam t f).link = s.link := rfl
@[simp] theorem State.updTeam_fab (t : Nat) (f : Team → Team) : (s.updTeam t f).fab = s.fab := rfl
@[simp] theorem State.updTeam_mem (t : Nat) (f : Team → Team) : (s.updTeam t f).mem = s.mem := rfl
@[simp] theorem State.updTeam_dies (t : Nat) (f : Team → Team) : (s.updTeam t f).dies = s.dies := rfl
@[simp] theorem State.updTeam_board (t : Nat) (f : Team → Team) : (s.updTeam t f).board = s.board := rfl
@[simp] theorem State.updTeam_cores (t : Nat) (f : Team → Team) : (s.updTeam t f).cores = s.cores := rfl
@[simp] theorem State.updTeam_quartets (t : Nat) (f : Team → Team) : (s.updTeam t f).quartets = s.quartets := rfl
@[simp] theorem State.updTeam_ctxs (t : Nat) (f : Team → Team) : (s.updTeam t f).ctxs = s.ctxs := rfl
@[simp] theorem State.updTeam_woad (t : Nat) (f : Team → Team) : (s.updTeam t f).woad = s.woad := rfl
@[simp] theorem State.updTeam_launches (t : Nat) (f : Team → Team) : (s.updTeam t f).launches = s.launches := rfl
@[simp] theorem State.updTeam_nextTeam (t : Nat) (f : Team → Team) : (s.updTeam t f).nextTeam = s.nextTeam := rfl
@[simp] theorem State.updTeam_nextId (t : Nat) (f : Team → Team) : (s.updTeam t f).nextId = s.nextId := rfl
@[simp] theorem State.updTeam_agenda (t : Nat) (f : Team → Team) : (s.updTeam t f).agenda = s.agenda := rfl
@[simp] theorem State.updTeam_inp (t : Nat) (f : Team → Team) : (s.updTeam t f).inp = s.inp := rfl
@[simp] theorem State.updTeam_cur (t : Nat) (f : Team → Team) : (s.updTeam t f).cur = s.cur := rfl
@[simp] theorem State.updTeam_free (t : Nat) (f : Team → Team) : (s.updTeam t f).free = s.free := rfl
@[simp] theorem State.updTeam_choice (t : Nat) (f : Team → Team) : (s.updTeam t f).choice = s.choice := rfl
@[simp] theorem State.updTeam_rels (t : Nat) (f : Team → Team) : (s.updTeam t f).rels = s.rels := rfl
@[simp] theorem State.updTeam_moves (t : Nat) (f : Team → Team) : (s.updTeam t f).moves = s.moves := rfl
@[simp] theorem State.updTeam_skips (t : Nat) (f : Team → Team) : (s.updTeam t f).skips = s.skips := rfl

/-! ### updLaunch -/
@[simp] theorem State.updLaunch_mgmt (l : Nat) (f : Launch → Launch) : (s.updLaunch l f).mgmt = s.mgmt := rfl
@[simp] theorem State.updLaunch_link (l : Nat) (f : Launch → Launch) : (s.updLaunch l f).link = s.link := rfl
@[simp] theorem State.updLaunch_fab (l : Nat) (f : Launch → Launch) : (s.updLaunch l f).fab = s.fab := rfl
@[simp] theorem State.updLaunch_mem (l : Nat) (f : Launch → Launch) : (s.updLaunch l f).mem = s.mem := rfl
@[simp] theorem State.updLaunch_dies (l : Nat) (f : Launch → Launch) : (s.updLaunch l f).dies = s.dies := rfl
@[simp] theorem State.updLaunch_board (l : Nat) (f : Launch → Launch) : (s.updLaunch l f).board = s.board := rfl
@[simp] theorem State.updLaunch_cores (l : Nat) (f : Launch → Launch) : (s.updLaunch l f).cores = s.cores := rfl
@[simp] theorem State.updLaunch_quartets (l : Nat) (f : Launch → Launch) : (s.updLaunch l f).quartets = s.quartets := rfl
@[simp] theorem State.updLaunch_ctxs (l : Nat) (f : Launch → Launch) : (s.updLaunch l f).ctxs = s.ctxs := rfl
@[simp] theorem State.updLaunch_woad (l : Nat) (f : Launch → Launch) : (s.updLaunch l f).woad = s.woad := rfl
@[simp] theorem State.updLaunch_teams (l : Nat) (f : Launch → Launch) : (s.updLaunch l f).teams = s.teams := rfl
@[simp] theorem State.updLaunch_nextTeam (l : Nat) (f : Launch → Launch) : (s.updLaunch l f).nextTeam = s.nextTeam := rfl
@[simp] theorem State.updLaunch_nextId (l : Nat) (f : Launch → Launch) : (s.updLaunch l f).nextId = s.nextId := rfl
@[simp] theorem State.updLaunch_agenda (l : Nat) (f : Launch → Launch) : (s.updLaunch l f).agenda = s.agenda := rfl
@[simp] theorem State.updLaunch_inp (l : Nat) (f : Launch → Launch) : (s.updLaunch l f).inp = s.inp := rfl
@[simp] theorem State.updLaunch_cur (l : Nat) (f : Launch → Launch) : (s.updLaunch l f).cur = s.cur := rfl
@[simp] theorem State.updLaunch_free (l : Nat) (f : Launch → Launch) : (s.updLaunch l f).free = s.free := rfl
@[simp] theorem State.updLaunch_choice (l : Nat) (f : Launch → Launch) : (s.updLaunch l f).choice = s.choice := rfl
@[simp] theorem State.updLaunch_rels (l : Nat) (f : Launch → Launch) : (s.updLaunch l f).rels = s.rels := rfl
@[simp] theorem State.updLaunch_moves (l : Nat) (f : Launch → Launch) : (s.updLaunch l f).moves = s.moves := rfl
@[simp] theorem State.updLaunch_skips (l : Nat) (f : Launch → Launch) : (s.updLaunch l f).skips = s.skips := rfl

/-! ### updBoard -/
@[simp] theorem State.updBoard_mgmt (n : Nat) (f : Board → Board) : (s.updBoard n f).mgmt = s.mgmt := rfl
@[simp] theorem State.updBoard_link (n : Nat) (f : Board → Board) : (s.updBoard n f).link = s.link := rfl
@[simp] theorem State.updBoard_fab (n : Nat) (f : Board → Board) : (s.updBoard n f).fab = s.fab := rfl
@[simp] theorem State.updBoard_mem (n : Nat) (f : Board → Board) : (s.updBoard n f).mem = s.mem := rfl
@[simp] theorem State.updBoard_dies (n : Nat) (f : Board → Board) : (s.updBoard n f).dies = s.dies := rfl
@[simp] theorem State.updBoard_cores (n : Nat) (f : Board → Board) : (s.updBoard n f).cores = s.cores := rfl
@[simp] theorem State.updBoard_quartets (n : Nat) (f : Board → Board) : (s.updBoard n f).quartets = s.quartets := rfl
@[simp] theorem State.updBoard_ctxs (n : Nat) (f : Board → Board) : (s.updBoard n f).ctxs = s.ctxs := rfl
@[simp] theorem State.updBoard_woad (n : Nat) (f : Board → Board) : (s.updBoard n f).woad = s.woad := rfl
@[simp] theorem State.updBoard_teams (n : Nat) (f : Board → Board) : (s.updBoard n f).teams = s.teams := rfl
@[simp] theorem State.updBoard_launches (n : Nat) (f : Board → Board) : (s.updBoard n f).launches = s.launches := rfl
@[simp] theorem State.updBoard_nextTeam (n : Nat) (f : Board → Board) : (s.updBoard n f).nextTeam = s.nextTeam := rfl
@[simp] theorem State.updBoard_nextId (n : Nat) (f : Board → Board) : (s.updBoard n f).nextId = s.nextId := rfl
@[simp] theorem State.updBoard_agenda (n : Nat) (f : Board → Board) : (s.updBoard n f).agenda = s.agenda := rfl
@[simp] theorem State.updBoard_inp (n : Nat) (f : Board → Board) : (s.updBoard n f).inp = s.inp := rfl
@[simp] theorem State.updBoard_cur (n : Nat) (f : Board → Board) : (s.updBoard n f).cur = s.cur := rfl
@[simp] theorem State.updBoard_free (n : Nat) (f : Board → Board) : (s.updBoard n f).free = s.free := rfl
@[simp] theorem State.updBoard_choice (n : Nat) (f : Board → Board) : (s.updBoard n f).choice = s.choice := rfl
@[simp] theorem State.updBoard_rels (n : Nat) (f : Board → Board) : (s.updBoard n f).rels = s.rels := rfl
@[simp] theorem State.updBoard_moves (n : Nat) (f : Board → Board) : (s.updBoard n f).moves = s.moves := rfl
@[simp] theorem State.updBoard_skips (n : Nat) (f : Board → Board) : (s.updBoard n f).skips = s.skips := rfl

/-! ### mapCores -/
@[simp] theorem State.mapCores_mgmt (f : Core → Core) : (s.mapCores f).mgmt = s.mgmt := rfl
@[simp] theorem State.mapCores_link (f : Core → Core) : (s.mapCores f).link = s.link := rfl
@[simp] theorem State.mapCores_fab (f : Core → Core) : (s.mapCores f).fab = s.fab := rfl
@[simp] theorem State.mapCores_mem (f : Core → Core) : (s.mapCores f).mem = s.mem := rfl
@[simp] theorem State.mapCores_dies (f : Core → Core) : (s.mapCores f).dies = s.dies := rfl
@[simp] theorem State.mapCores_board (f : Core → Core) : (s.mapCores f).board = s.board := rfl
@[simp] theorem State.mapCores_quartets (f : Core → Core) : (s.mapCores f).quartets = s.quartets := rfl
@[simp] theorem State.mapCores_ctxs (f : Core → Core) : (s.mapCores f).ctxs = s.ctxs := rfl
@[simp] theorem State.mapCores_woad (f : Core → Core) : (s.mapCores f).woad = s.woad := rfl
@[simp] theorem State.mapCores_teams (f : Core → Core) : (s.mapCores f).teams = s.teams := rfl
@[simp] theorem State.mapCores_launches (f : Core → Core) : (s.mapCores f).launches = s.launches := rfl
@[simp] theorem State.mapCores_nextTeam (f : Core → Core) : (s.mapCores f).nextTeam = s.nextTeam := rfl
@[simp] theorem State.mapCores_nextId (f : Core → Core) : (s.mapCores f).nextId = s.nextId := rfl
@[simp] theorem State.mapCores_agenda (f : Core → Core) : (s.mapCores f).agenda = s.agenda := rfl
@[simp] theorem State.mapCores_inp (f : Core → Core) : (s.mapCores f).inp = s.inp := rfl
@[simp] theorem State.mapCores_cur (f : Core → Core) : (s.mapCores f).cur = s.cur := rfl
@[simp] theorem State.mapCores_free (f : Core → Core) : (s.mapCores f).free = s.free := rfl
@[simp] theorem State.mapCores_choice (f : Core → Core) : (s.mapCores f).choice = s.choice := rfl
@[simp] theorem State.mapCores_rels (f : Core → Core) : (s.mapCores f).rels = s.rels := rfl
@[simp] theorem State.mapCores_moves (f : Core → Core) : (s.mapCores f).moves = s.moves := rfl
@[simp] theorem State.mapCores_skips (f : Core → Core) : (s.mapCores f).skips = s.skips := rfl

/-! ### mapDies -/
@[simp] theorem State.mapDies_mgmt (f : Die → Die) : (s.mapDies f).mgmt = s.mgmt := rfl
@[simp] theorem State.mapDies_link (f : Die → Die) : (s.mapDies f).link = s.link := rfl
@[simp] theorem State.mapDies_fab (f : Die → Die) : (s.mapDies f).fab = s.fab := rfl
@[simp] theorem State.mapDies_mem (f : Die → Die) : (s.mapDies f).mem = s.mem := rfl
@[simp] theorem State.mapDies_board (f : Die → Die) : (s.mapDies f).board = s.board := rfl
@[simp] theorem State.mapDies_cores (f : Die → Die) : (s.mapDies f).cores = s.cores := rfl
@[simp] theorem State.mapDies_quartets (f : Die → Die) : (s.mapDies f).quartets = s.quartets := rfl
@[simp] theorem State.mapDies_ctxs (f : Die → Die) : (s.mapDies f).ctxs = s.ctxs := rfl
@[simp] theorem State.mapDies_woad (f : Die → Die) : (s.mapDies f).woad = s.woad := rfl
@[simp] theorem State.mapDies_teams (f : Die → Die) : (s.mapDies f).teams = s.teams := rfl
@[simp] theorem State.mapDies_launches (f : Die → Die) : (s.mapDies f).launches = s.launches := rfl
@[simp] theorem State.mapDies_nextTeam (f : Die → Die) : (s.mapDies f).nextTeam = s.nextTeam := rfl
@[simp] theorem State.mapDies_nextId (f : Die → Die) : (s.mapDies f).nextId = s.nextId := rfl
@[simp] theorem State.mapDies_agenda (f : Die → Die) : (s.mapDies f).agenda = s.agenda := rfl
@[simp] theorem State.mapDies_inp (f : Die → Die) : (s.mapDies f).inp = s.inp := rfl
@[simp] theorem State.mapDies_cur (f : Die → Die) : (s.mapDies f).cur = s.cur := rfl
@[simp] theorem State.mapDies_free (f : Die → Die) : (s.mapDies f).free = s.free := rfl
@[simp] theorem State.mapDies_choice (f : Die → Die) : (s.mapDies f).choice = s.choice := rfl
@[simp] theorem State.mapDies_rels (f : Die → Die) : (s.mapDies f).rels = s.rels := rfl
@[simp] theorem State.mapDies_moves (f : Die → Die) : (s.mapDies f).moves = s.moves := rfl
@[simp] theorem State.mapDies_skips (f : Die → Die) : (s.mapDies f).skips = s.skips := rfl

/-! ### mapQuartets -/
@[simp] theorem State.mapQuartets_mgmt (f : Quartet → Quartet) : (s.mapQuartets f).mgmt = s.mgmt := rfl
@[simp] theorem State.mapQuartets_link (f : Quartet → Quartet) : (s.mapQuartets f).link = s.link := rfl
@[simp] theorem State.mapQuartets_fab (f : Quartet → Quartet) : (s.mapQuartets f).fab = s.fab := rfl
@[simp] theorem State.mapQuartets_mem (f : Quartet → Quartet) : (s.mapQuartets f).mem = s.mem := rfl
@[simp] theorem State.mapQuartets_dies (f : Quartet → Quartet) : (s.mapQuartets f).dies = s.dies := rfl
@[simp] theorem State.mapQuartets_board (f : Quartet → Quartet) : (s.mapQuartets f).board = s.board := rfl
@[simp] theorem State.mapQuartets_cores (f : Quartet → Quartet) : (s.mapQuartets f).cores = s.cores := rfl
@[simp] theorem State.mapQuartets_ctxs (f : Quartet → Quartet) : (s.mapQuartets f).ctxs = s.ctxs := rfl
@[simp] theorem State.mapQuartets_woad (f : Quartet → Quartet) : (s.mapQuartets f).woad = s.woad := rfl
@[simp] theorem State.mapQuartets_teams (f : Quartet → Quartet) : (s.mapQuartets f).teams = s.teams := rfl
@[simp] theorem State.mapQuartets_launches (f : Quartet → Quartet) : (s.mapQuartets f).launches = s.launches := rfl
@[simp] theorem State.mapQuartets_nextTeam (f : Quartet → Quartet) : (s.mapQuartets f).nextTeam = s.nextTeam := rfl
@[simp] theorem State.mapQuartets_nextId (f : Quartet → Quartet) : (s.mapQuartets f).nextId = s.nextId := rfl
@[simp] theorem State.mapQuartets_agenda (f : Quartet → Quartet) : (s.mapQuartets f).agenda = s.agenda := rfl
@[simp] theorem State.mapQuartets_inp (f : Quartet → Quartet) : (s.mapQuartets f).inp = s.inp := rfl
@[simp] theorem State.mapQuartets_cur (f : Quartet → Quartet) : (s.mapQuartets f).cur = s.cur := rfl
@[simp] theorem State.mapQuartets_free (f : Quartet → Quartet) : (s.mapQuartets f).free = s.free := rfl
@[simp] theorem State.mapQuartets_choice (f : Quartet → Quartet) : (s.mapQuartets f).choice = s.choice := rfl
@[simp] theorem State.mapQuartets_rels (f : Quartet → Quartet) : (s.mapQuartets f).rels = s.rels := rfl
@[simp] theorem State.mapQuartets_moves (f : Quartet → Quartet) : (s.mapQuartets f).moves = s.moves := rfl
@[simp] theorem State.mapQuartets_skips (f : Quartet → Quartet) : (s.mapQuartets f).skips = s.skips := rfl

/-! ### updMgmt -/
@[simp] theorem State.updMgmt_link (f : Mgmt → Mgmt) : (s.updMgmt f).link = s.link := rfl
@[simp] theorem State.updMgmt_fab (f : Mgmt → Mgmt) : (s.updMgmt f).fab = s.fab := rfl
@[simp] theorem State.updMgmt_mem (f : Mgmt → Mgmt) : (s.updMgmt f).mem = s.mem := rfl
@[simp] theorem State.updMgmt_dies (f : Mgmt → Mgmt) : (s.updMgmt f).dies = s.dies := rfl
@[simp] theorem State.updMgmt_board (f : Mgmt → Mgmt) : (s.updMgmt f).board = s.board := rfl
@[simp] theorem State.updMgmt_cores (f : Mgmt → Mgmt) : (s.updMgmt f).cores = s.cores := rfl
@[simp] theorem State.updMgmt_quartets (f : Mgmt → Mgmt) : (s.updMgmt f).quartets = s.quartets := rfl
@[simp] theorem State.updMgmt_ctxs (f : Mgmt → Mgmt) : (s.updMgmt f).ctxs = s.ctxs := rfl
@[simp] theorem State.updMgmt_woad (f : Mgmt → Mgmt) : (s.updMgmt f).woad = s.woad := rfl
@[simp] theorem State.updMgmt_teams (f : Mgmt → Mgmt) : (s.updMgmt f).teams = s.teams := rfl
@[simp] theorem State.updMgmt_launches (f : Mgmt → Mgmt) : (s.updMgmt f).launches = s.launches := rfl
@[simp] theorem State.updMgmt_nextTeam (f : Mgmt → Mgmt) : (s.updMgmt f).nextTeam = s.nextTeam := rfl
@[simp] theorem State.updMgmt_nextId (f : Mgmt → Mgmt) : (s.updMgmt f).nextId = s.nextId := rfl
@[simp] theorem State.updMgmt_agenda (f : Mgmt → Mgmt) : (s.updMgmt f).agenda = s.agenda := rfl
@[simp] theorem State.updMgmt_inp (f : Mgmt → Mgmt) : (s.updMgmt f).inp = s.inp := rfl
@[simp] theorem State.updMgmt_cur (f : Mgmt → Mgmt) : (s.updMgmt f).cur = s.cur := rfl
@[simp] theorem State.updMgmt_free (f : Mgmt → Mgmt) : (s.updMgmt f).free = s.free := rfl
@[simp] theorem State.updMgmt_choice (f : Mgmt → Mgmt) : (s.updMgmt f).choice = s.choice := rfl
@[simp] theorem State.updMgmt_rels (f : Mgmt → Mgmt) : (s.updMgmt f).rels = s.rels := rfl
@[simp] theorem State.updMgmt_moves (f : Mgmt → Mgmt) : (s.updMgmt f).moves = s.moves := rfl
@[simp] theorem State.updMgmt_skips (f : Mgmt → Mgmt) : (s.updMgmt f).skips = s.skips := rfl

/-! ### updLink -/
@[simp] theorem State.updLink_mgmt (f : Link → Link) : (s.updLink f).mgmt = s.mgmt := rfl
@[simp] theorem State.updLink_fab (f : Link → Link) : (s.updLink f).fab = s.fab := rfl
@[simp] theorem State.updLink_mem (f : Link → Link) : (s.updLink f).mem = s.mem := rfl
@[simp] theorem State.updLink_dies (f : Link → Link) : (s.updLink f).dies = s.dies := rfl
@[simp] theorem State.updLink_board (f : Link → Link) : (s.updLink f).board = s.board := rfl
@[simp] theorem State.updLink_cores (f : Link → Link) : (s.updLink f).cores = s.cores := rfl
@[simp] theorem State.updLink_quartets (f : Link → Link) : (s.updLink f).quartets = s.quartets := rfl
@[simp] theorem State.updLink_ctxs (f : Link → Link) : (s.updLink f).ctxs = s.ctxs := rfl
@[simp] theorem State.updLink_woad (f : Link → Link) : (s.updLink f).woad = s.woad := rfl
@[simp] theorem State.updLink_teams (f : Link → Link) : (s.updLink f).teams = s.teams := rfl
@[simp] theorem State.updLink_launches (f : Link → Link) : (s.updLink f).launches = s.launches := rfl
@[simp] theorem State.updLink_nextTeam (f : Link → Link) : (s.updLink f).nextTeam = s.nextTeam := rfl
@[simp] theorem State.updLink_nextId (f : Link → Link) : (s.updLink f).nextId = s.nextId := rfl
@[simp] theorem State.updLink_agenda (f : Link → Link) : (s.updLink f).agenda = s.agenda := rfl
@[simp] theorem State.updLink_inp (f : Link → Link) : (s.updLink f).inp = s.inp := rfl
@[simp] theorem State.updLink_cur (f : Link → Link) : (s.updLink f).cur = s.cur := rfl
@[simp] theorem State.updLink_free (f : Link → Link) : (s.updLink f).free = s.free := rfl
@[simp] theorem State.updLink_choice (f : Link → Link) : (s.updLink f).choice = s.choice := rfl
@[simp] theorem State.updLink_rels (f : Link → Link) : (s.updLink f).rels = s.rels := rfl
@[simp] theorem State.updLink_moves (f : Link → Link) : (s.updLink f).moves = s.moves := rfl
@[simp] theorem State.updLink_skips (f : Link → Link) : (s.updLink f).skips = s.skips := rfl

/-! ### updWoad -/
@[simp] theorem State.updWoad_mgmt (f : Woad → Woad) : (s.updWoad f).mgmt = s.mgmt := rfl
@[simp] theorem State.updWoad_link (f : Woad → Woad) : (s.updWoad f).link = s.link := rfl
@[simp] theorem State.updWoad_fab (f : Woad → Woad) : (s.updWoad f).fab = s.fab := rfl
@[simp] theorem State.updWoad_mem (f : Woad → Woad) : (s.updWoad f).mem = s.mem := rfl
@[simp] theorem State.updWoad_dies (f : Woad → Woad) : (s.updWoad f).dies = s.dies := rfl
@[simp] theorem State.updWoad_board (f : Woad → Woad) : (s.updWoad f).board = s.board := rfl
@[simp] theorem State.updWoad_cores (f : Woad → Woad) : (s.updWoad f).cores = s.cores := rfl
@[simp] theorem State.updWoad_quartets (f : Woad → Woad) : (s.updWoad f).quartets = s.quartets := rfl
@[simp] theorem State.updWoad_ctxs (f : Woad → Woad) : (s.updWoad f).ctxs = s.ctxs := rfl
@[simp] theorem State.updWoad_teams (f : Woad → Woad) : (s.updWoad f).teams = s.teams := rfl
@[simp] theorem State.updWoad_launches (f : Woad → Woad) : (s.updWoad f).launches = s.launches := rfl
@[simp] theorem State.updWoad_nextTeam (f : Woad → Woad) : (s.updWoad f).nextTeam = s.nextTeam := rfl
@[simp] theorem State.updWoad_nextId (f : Woad → Woad) : (s.updWoad f).nextId = s.nextId := rfl
@[simp] theorem State.updWoad_agenda (f : Woad → Woad) : (s.updWoad f).agenda = s.agenda := rfl
@[simp] theorem State.updWoad_inp (f : Woad → Woad) : (s.updWoad f).inp = s.inp := rfl
@[simp] theorem State.updWoad_cur (f : Woad → Woad) : (s.updWoad f).cur = s.cur := rfl
@[simp] theorem State.updWoad_free (f : Woad → Woad) : (s.updWoad f).free = s.free := rfl
@[simp] theorem State.updWoad_choice (f : Woad → Woad) : (s.updWoad f).choice = s.choice := rfl
@[simp] theorem State.updWoad_rels (f : Woad → Woad) : (s.updWoad f).rels = s.rels := rfl
@[simp] theorem State.updWoad_moves (f : Woad → Woad) : (s.updWoad f).moves = s.moves := rfl
@[simp] theorem State.updWoad_skips (f : Woad → Woad) : (s.updWoad f).skips = s.skips := rfl

/-! ### push -/
@[simp] theorem State.push_mgmt (ts : List Turn) : (s.push ts).mgmt = s.mgmt := rfl
@[simp] theorem State.push_link (ts : List Turn) : (s.push ts).link = s.link := rfl
@[simp] theorem State.push_fab (ts : List Turn) : (s.push ts).fab = s.fab := rfl
@[simp] theorem State.push_mem (ts : List Turn) : (s.push ts).mem = s.mem := rfl
@[simp] theorem State.push_dies (ts : List Turn) : (s.push ts).dies = s.dies := rfl
@[simp] theorem State.push_board (ts : List Turn) : (s.push ts).board = s.board := rfl
@[simp] theorem State.push_cores (ts : List Turn) : (s.push ts).cores = s.cores := rfl
@[simp] theorem State.push_quartets (ts : List Turn) : (s.push ts).quartets = s.quartets := rfl
@[simp] theorem State.push_ctxs (ts : List Turn) : (s.push ts).ctxs = s.ctxs := rfl
@[simp] theorem State.push_woad (ts : List Turn) : (s.push ts).woad = s.woad := rfl
@[simp] theorem State.push_teams (ts : List Turn) : (s.push ts).teams = s.teams := rfl
@[simp] theorem State.push_launches (ts : List Turn) : (s.push ts).launches = s.launches := rfl
@[simp] theorem State.push_nextTeam (ts : List Turn) : (s.push ts).nextTeam = s.nextTeam := rfl
@[simp] theorem State.push_nextId (ts : List Turn) : (s.push ts).nextId = s.nextId := rfl
@[simp] theorem State.push_inp (ts : List Turn) : (s.push ts).inp = s.inp := rfl
@[simp] theorem State.push_cur (ts : List Turn) : (s.push ts).cur = s.cur := rfl
@[simp] theorem State.push_free (ts : List Turn) : (s.push ts).free = s.free := rfl
@[simp] theorem State.push_choice (ts : List Turn) : (s.push ts).choice = s.choice := rfl
@[simp] theorem State.push_rels (ts : List Turn) : (s.push ts).rels = s.rels := rfl
@[simp] theorem State.push_moves (ts : List Turn) : (s.push ts).moves = s.moves := rfl
@[simp] theorem State.push_skips (ts : List Turn) : (s.push ts).skips = s.skips := rfl

/-! ### send -/
@[simp] theorem State.send_mgmt (m : Msg) : (s.send m).mgmt = s.mgmt := rfl
@[simp] theorem State.send_fab (m : Msg) : (s.send m).fab = s.fab := rfl
@[simp] theorem State.send_mem (m : Msg) : (s.send m).mem = s.mem := rfl
@[simp] theorem State.send_dies (m : Msg) : (s.send m).dies = s.dies := rfl
@[simp] theorem State.send_board (m : Msg) : (s.send m).board = s.board := rfl
@[simp] theorem State.send_cores (m : Msg) : (s.send m).cores = s.cores := rfl
@[simp] theorem State.send_quartets (m : Msg) : (s.send m).quartets = s.quartets := rfl
@[simp] theorem State.send_ctxs (m : Msg) : (s.send m).ctxs = s.ctxs := rfl
@[simp] theorem State.send_woad (m : Msg) : (s.send m).woad = s.woad := rfl
@[simp] theorem State.send_teams (m : Msg) : (s.send m).teams = s.teams := rfl
@[simp] theorem State.send_launches (m : Msg) : (s.send m).launches = s.launches := rfl
@[simp] theorem State.send_nextTeam (m : Msg) : (s.send m).nextTeam = s.nextTeam := rfl
@[simp] theorem State.send_nextId (m : Msg) : (s.send m).nextId = s.nextId := rfl
@[simp] theorem State.send_agenda (m : Msg) : (s.send m).agenda = s.agenda := rfl
@[simp] theorem State.send_inp (m : Msg) : (s.send m).inp = s.inp := rfl
@[simp] theorem State.send_cur (m : Msg) : (s.send m).cur = s.cur := rfl
@[simp] theorem State.send_free (m : Msg) : (s.send m).free = s.free := rfl
@[simp] theorem State.send_choice (m : Msg) : (s.send m).choice = s.choice := rfl
@[simp] theorem State.send_rels (m : Msg) : (s.send m).rels = s.rels := rfl
@[simp] theorem State.send_moves (m : Msg) : (s.send m).moves = s.moves := rfl
@[simp] theorem State.send_skips (m : Msg) : (s.send m).skips = s.skips := rfl

/-! ### updFrag -/
@[simp] theorem State.updFrag_mgmt (w : Who) (f : Frag → Frag) : (s.updFrag w f).mgmt = s.mgmt := rfl
@[simp] theorem State.updFrag_link (w : Who) (f : Frag → Frag) : (s.updFrag w f).link = s.link := rfl
@[simp] theorem State.updFrag_fab (w : Who) (f : Frag → Frag) : (s.updFrag w f).fab = s.fab := rfl
@[simp] theorem State.updFrag_mem (w : Who) (f : Frag → Frag) : (s.updFrag w f).mem = s.mem := rfl
@[simp] theorem State.updFrag_dies (w : Who) (f : Frag → Frag) : (s.updFrag w f).dies = s.dies := rfl
@[simp] theorem State.updFrag_board (w : Who) (f : Frag → Frag) : (s.updFrag w f).board = s.board := rfl
@[simp] theorem State.updFrag_quartets (w : Who) (f : Frag → Frag) : (s.updFrag w f).quartets = s.quartets := rfl
@[simp] theorem State.updFrag_ctxs (w : Who) (f : Frag → Frag) : (s.updFrag w f).ctxs = s.ctxs := rfl
@[simp] theorem State.updFrag_woad (w : Who) (f : Frag → Frag) : (s.updFrag w f).woad = s.woad := rfl
@[simp] theorem State.updFrag_teams (w : Who) (f : Frag → Frag) : (s.updFrag w f).teams = s.teams := rfl
@[simp] theorem State.updFrag_launches (w : Who) (f : Frag → Frag) : (s.updFrag w f).launches = s.launches := rfl
@[simp] theorem State.updFrag_nextTeam (w : Who) (f : Frag → Frag) : (s.updFrag w f).nextTeam = s.nextTeam := rfl
@[simp] theorem State.updFrag_nextId (w : Who) (f : Frag → Frag) : (s.updFrag w f).nextId = s.nextId := rfl
@[simp] theorem State.updFrag_agenda (w : Who) (f : Frag → Frag) : (s.updFrag w f).agenda = s.agenda := rfl
@[simp] theorem State.updFrag_inp (w : Who) (f : Frag → Frag) : (s.updFrag w f).inp = s.inp := rfl
@[simp] theorem State.updFrag_cur (w : Who) (f : Frag → Frag) : (s.updFrag w f).cur = s.cur := rfl
@[simp] theorem State.updFrag_free (w : Who) (f : Frag → Frag) : (s.updFrag w f).free = s.free := rfl
@[simp] theorem State.updFrag_choice (w : Who) (f : Frag → Frag) : (s.updFrag w f).choice = s.choice := rfl
@[simp] theorem State.updFrag_rels (w : Who) (f : Frag → Frag) : (s.updFrag w f).rels = s.rels := rfl
@[simp] theorem State.updFrag_moves (w : Who) (f : Frag → Frag) : (s.updFrag w f).moves = s.moves := rfl
@[simp] theorem State.updFrag_skips (w : Who) (f : Frag → Frag) : (s.updFrag w f).skips = s.skips := rfl

/-! ### updWave -/
@[simp] theorem State.updWave_mgmt (w : Who) (f : Wave → Wave) : (s.updWave w f).mgmt = s.mgmt := rfl
@[simp] theorem State.updWave_link (w : Who) (f : Wave → Wave) : (s.updWave w f).link = s.link := rfl
@[simp] theorem State.updWave_fab (w : Who) (f : Wave → Wave) : (s.updWave w f).fab = s.fab := rfl
@[simp] theorem State.updWave_mem (w : Who) (f : Wave → Wave) : (s.updWave w f).mem = s.mem := rfl
@[simp] theorem State.updWave_dies (w : Who) (f : Wave → Wave) : (s.updWave w f).dies = s.dies := rfl
@[simp] theorem State.updWave_board (w : Who) (f : Wave → Wave) : (s.updWave w f).board = s.board := rfl
@[simp] theorem State.updWave_quartets (w : Who) (f : Wave → Wave) : (s.updWave w f).quartets = s.quartets := rfl
@[simp] theorem State.updWave_ctxs (w : Who) (f : Wave → Wave) : (s.updWave w f).ctxs = s.ctxs := rfl
@[simp] theorem State.updWave_woad (w : Who) (f : Wave → Wave) : (s.updWave w f).woad = s.woad := rfl
@[simp] theorem State.updWave_teams (w : Who) (f : Wave → Wave) : (s.updWave w f).teams = s.teams := rfl
@[simp] theorem State.updWave_launches (w : Who) (f : Wave → Wave) : (s.updWave w f).launches = s.launches := rfl
@[simp] theorem State.updWave_nextTeam (w : Who) (f : Wave → Wave) : (s.updWave w f).nextTeam = s.nextTeam := rfl
@[simp] theorem State.updWave_nextId (w : Who) (f : Wave → Wave) : (s.updWave w f).nextId = s.nextId := rfl
@[simp] theorem State.updWave_agenda (w : Who) (f : Wave → Wave) : (s.updWave w f).agenda = s.agenda := rfl
@[simp] theorem State.updWave_inp (w : Who) (f : Wave → Wave) : (s.updWave w f).inp = s.inp := rfl
@[simp] theorem State.updWave_cur (w : Who) (f : Wave → Wave) : (s.updWave w f).cur = s.cur := rfl
@[simp] theorem State.updWave_free (w : Who) (f : Wave → Wave) : (s.updWave w f).free = s.free := rfl
@[simp] theorem State.updWave_choice (w : Who) (f : Wave → Wave) : (s.updWave w f).choice = s.choice := rfl
@[simp] theorem State.updWave_rels (w : Who) (f : Wave → Wave) : (s.updWave w f).rels = s.rels := rfl
@[simp] theorem State.updWave_moves (w : Who) (f : Wave → Wave) : (s.updWave w f).moves = s.moves := rfl
@[simp] theorem State.updWave_skips (w : Who) (f : Wave → Wave) : (s.updWave w f).skips = s.skips := rfl

/-! ### fresh -/
@[simp] theorem State.fresh_fst : s.fresh.1 = s.nextId := rfl
@[simp] theorem State.fresh_nextId : s.fresh.2.nextId = s.nextId + 1 := rfl
@[simp] theorem State.fresh_mgmt : s.fresh.2.mgmt = s.mgmt := rfl
@[simp] theorem State.fresh_link : s.fresh.2.link = s.link := rfl
@[simp] theorem State.fresh_fab : s.fresh.2.fab = s.fab := rfl
@[simp] theorem State.fresh_mem : s.fresh.2.mem = s.mem := rfl
@[simp] theorem State.fresh_dies : s.fresh.2.dies = s.dies := rfl
@[simp] theorem State.fresh_board : s.fresh.2.board = s.board := rfl
@[simp] theorem State.fresh_cores : s.fresh.2.cores = s.cores := rfl
@[simp] theorem State.fresh_quartets : s.fresh.2.quartets = s.quartets := rfl
@[simp] theorem State.fresh_ctxs : s.fresh.2.ctxs = s.ctxs := rfl
@[simp] theorem State.fresh_woad : s.fresh.2.woad = s.woad := rfl
@[simp] theorem State.fresh_teams : s.fresh.2.teams = s.teams := rfl
@[simp] theorem State.fresh_launches : s.fresh.2.launches = s.launches := rfl
@[simp] theorem State.fresh_nextTeam : s.fresh.2.nextTeam = s.nextTeam := rfl
@[simp] theorem State.fresh_agenda : s.fresh.2.agenda = s.agenda := rfl
@[simp] theorem State.fresh_inp : s.fresh.2.inp = s.inp := rfl
@[simp] theorem State.fresh_cur : s.fresh.2.cur = s.cur := rfl
@[simp] theorem State.fresh_free : s.fresh.2.free = s.free := rfl
@[simp] theorem State.fresh_choice : s.fresh.2.choice = s.choice := rfl
@[simp] theorem State.fresh_rels : s.fresh.2.rels = s.rels := rfl
@[simp] theorem State.fresh_moves : s.fresh.2.moves = s.moves := rfl
@[simp] theorem State.fresh_skips : s.fresh.2.skips = s.skips := rfl

/-! ### The units, through updates of other units -/
@[simp] theorem State.setCore_die (n : Nat) (c : Core) (k : Nat) : (s.setCore n c).die k = s.die k := rfl
@[simp] theorem State.setCore_quartet (n : Nat) (c : Core) (k : Nat) : (s.setCore n c).quartet k = s.quartet k := rfl
@[simp] theorem State.setCore_ctx (n : Nat) (c : Core) (k : Nat) : (s.setCore n c).ctx k = s.ctx k := rfl
@[simp] theorem State.setCore_team (n : Nat) (c : Core) (k : Nat) : (s.setCore n c).team k = s.team k := rfl
@[simp] theorem State.setCore_launch (n : Nat) (c : Core) (k : Nat) : (s.setCore n c).launch k = s.launch k := rfl
@[simp] theorem State.setCore_boardOf (n : Nat) (c : Core) (k : Nat) : (s.setCore n c).boardOf k = s.boardOf k := rfl
@[simp] theorem State.updCore_die (n : Nat) (f : Core → Core) (k : Nat) : (s.updCore n f).die k = s.die k := rfl
@[simp] theorem State.updCore_quartet (n : Nat) (f : Core → Core) (k : Nat) : (s.updCore n f).quartet k = s.quartet k := rfl
@[simp] theorem State.updCore_ctx (n : Nat) (f : Core → Core) (k : Nat) : (s.updCore n f).ctx k = s.ctx k := rfl
@[simp] theorem State.updCore_team (n : Nat) (f : Core → Core) (k : Nat) : (s.updCore n f).team k = s.team k := rfl
@[simp] theorem State.updCore_launch (n : Nat) (f : Core → Core) (k : Nat) : (s.updCore n f).launch k = s.launch k := rfl
@[simp] theorem State.updCore_boardOf (n : Nat) (f : Core → Core) (k : Nat) : (s.updCore n f).boardOf k = s.boardOf k := rfl
@[simp] theorem State.setDie_core (d : Nat) (x : Die) (k : Nat) : (s.setDie d x).core k = s.core k := rfl
@[simp] theorem State.setDie_quartet (d : Nat) (x : Die) (k : Nat) : (s.setDie d x).quartet k = s.quartet k := rfl
@[simp] theorem State.setDie_ctx (d : Nat) (x : Die) (k : Nat) : (s.setDie d x).ctx k = s.ctx k := rfl
@[simp] theorem State.setDie_team (d : Nat) (x : Die) (k : Nat) : (s.setDie d x).team k = s.team k := rfl
@[simp] theorem State.setDie_launch (d : Nat) (x : Die) (k : Nat) : (s.setDie d x).launch k = s.launch k := rfl
@[simp] theorem State.setDie_boardOf (d : Nat) (x : Die) (k : Nat) : (s.setDie d x).boardOf k = s.boardOf k := rfl
@[simp] theorem State.updDie_core (d : Nat) (f : Die → Die) (k : Nat) : (s.updDie d f).core k = s.core k := rfl
@[simp] theorem State.updDie_quartet (d : Nat) (f : Die → Die) (k : Nat) : (s.updDie d f).quartet k = s.quartet k := rfl
@[simp] theorem State.updDie_ctx (d : Nat) (f : Die → Die) (k : Nat) : (s.updDie d f).ctx k = s.ctx k := rfl
@[simp] theorem State.updDie_team (d : Nat) (f : Die → Die) (k : Nat) : (s.updDie d f).team k = s.team k := rfl
@[simp] theorem State.updDie_launch (d : Nat) (f : Die → Die) (k : Nat) : (s.updDie d f).launch k = s.launch k := rfl
@[simp] theorem State.updDie_boardOf (d : Nat) (f : Die → Die) (k : Nat) : (s.updDie d f).boardOf k = s.boardOf k := rfl
@[simp] theorem State.updQuartet_core (q : Nat) (f : Quartet → Quartet) (k : Nat) : (s.updQuartet q f).core k = s.core k := rfl
@[simp] theorem State.updQuartet_die (q : Nat) (f : Quartet → Quartet) (k : Nat) : (s.updQuartet q f).die k = s.die k := rfl
@[simp] theorem State.updQuartet_ctx (q : Nat) (f : Quartet → Quartet) (k : Nat) : (s.updQuartet q f).ctx k = s.ctx k := rfl
@[simp] theorem State.updQuartet_team (q : Nat) (f : Quartet → Quartet) (k : Nat) : (s.updQuartet q f).team k = s.team k := rfl
@[simp] theorem State.updQuartet_launch (q : Nat) (f : Quartet → Quartet) (k : Nat) : (s.updQuartet q f).launch k = s.launch k := rfl
@[simp] theorem State.updQuartet_boardOf (q : Nat) (f : Quartet → Quartet) (k : Nat) : (s.updQuartet q f).boardOf k = s.boardOf k := rfl
@[simp] theorem State.updCtx_core (c : Nat) (f : Ctx → Ctx) (k : Nat) : (s.updCtx c f).core k = s.core k := rfl
@[simp] theorem State.updCtx_die (c : Nat) (f : Ctx → Ctx) (k : Nat) : (s.updCtx c f).die k = s.die k := rfl
@[simp] theorem State.updCtx_quartet (c : Nat) (f : Ctx → Ctx) (k : Nat) : (s.updCtx c f).quartet k = s.quartet k := rfl
@[simp] theorem State.updCtx_team (c : Nat) (f : Ctx → Ctx) (k : Nat) : (s.updCtx c f).team k = s.team k := rfl
@[simp] theorem State.updCtx_launch (c : Nat) (f : Ctx → Ctx) (k : Nat) : (s.updCtx c f).launch k = s.launch k := rfl
@[simp] theorem State.updCtx_boardOf (c : Nat) (f : Ctx → Ctx) (k : Nat) : (s.updCtx c f).boardOf k = s.boardOf k := rfl
@[simp] theorem State.updTeam_core (t : Nat) (f : Team → Team) (k : Nat) : (s.updTeam t f).core k = s.core k := rfl
@[simp] theorem State.updTeam_die (t : Nat) (f : Team → Team) (k : Nat) : (s.updTeam t f).die k = s.die k := rfl
@[simp] theorem State.updTeam_quartet (t : Nat) (f : Team → Team) (k : Nat) : (s.updTeam t f).quartet k = s.quartet k := rfl
@[simp] theorem State.updTeam_ctx (t : Nat) (f : Team → Team) (k : Nat) : (s.updTeam t f).ctx k = s.ctx k := rfl
@[simp] theorem State.updTeam_launch (t : Nat) (f : Team → Team) (k : Nat) : (s.updTeam t f).launch k = s.launch k := rfl
@[simp] theorem State.updTeam_boardOf (t : Nat) (f : Team → Team) (k : Nat) : (s.updTeam t f).boardOf k = s.boardOf k := rfl
@[simp] theorem State.updLaunch_core (l : Nat) (f : Launch → Launch) (k : Nat) : (s.updLaunch l f).core k = s.core k := rfl
@[simp] theorem State.updLaunch_die (l : Nat) (f : Launch → Launch) (k : Nat) : (s.updLaunch l f).die k = s.die k := rfl
@[simp] theorem State.updLaunch_quartet (l : Nat) (f : Launch → Launch) (k : Nat) : (s.updLaunch l f).quartet k = s.quartet k := rfl
@[simp] theorem State.updLaunch_ctx (l : Nat) (f : Launch → Launch) (k : Nat) : (s.updLaunch l f).ctx k = s.ctx k := rfl
@[simp] theorem State.updLaunch_team (l : Nat) (f : Launch → Launch) (k : Nat) : (s.updLaunch l f).team k = s.team k := rfl
@[simp] theorem State.updLaunch_boardOf (l : Nat) (f : Launch → Launch) (k : Nat) : (s.updLaunch l f).boardOf k = s.boardOf k := rfl
@[simp] theorem State.updBoard_core (n : Nat) (f : Board → Board) (k : Nat) : (s.updBoard n f).core k = s.core k := rfl
@[simp] theorem State.updBoard_die (n : Nat) (f : Board → Board) (k : Nat) : (s.updBoard n f).die k = s.die k := rfl
@[simp] theorem State.updBoard_quartet (n : Nat) (f : Board → Board) (k : Nat) : (s.updBoard n f).quartet k = s.quartet k := rfl
@[simp] theorem State.updBoard_ctx (n : Nat) (f : Board → Board) (k : Nat) : (s.updBoard n f).ctx k = s.ctx k := rfl
@[simp] theorem State.updBoard_team (n : Nat) (f : Board → Board) (k : Nat) : (s.updBoard n f).team k = s.team k := rfl
@[simp] theorem State.updBoard_launch (n : Nat) (f : Board → Board) (k : Nat) : (s.updBoard n f).launch k = s.launch k := rfl
@[simp] theorem State.mapCores_die (f : Core → Core) (k : Nat) : (s.mapCores f).die k = s.die k := rfl
@[simp] theorem State.mapCores_quartet (f : Core → Core) (k : Nat) : (s.mapCores f).quartet k = s.quartet k := rfl
@[simp] theorem State.mapCores_ctx (f : Core → Core) (k : Nat) : (s.mapCores f).ctx k = s.ctx k := rfl
@[simp] theorem State.mapCores_team (f : Core → Core) (k : Nat) : (s.mapCores f).team k = s.team k := rfl
@[simp] theorem State.mapCores_launch (f : Core → Core) (k : Nat) : (s.mapCores f).launch k = s.launch k := rfl
@[simp] theorem State.mapCores_boardOf (f : Core → Core) (k : Nat) : (s.mapCores f).boardOf k = s.boardOf k := rfl
@[simp] theorem State.mapDies_core (f : Die → Die) (k : Nat) : (s.mapDies f).core k = s.core k := rfl
@[simp] theorem State.mapDies_quartet (f : Die → Die) (k : Nat) : (s.mapDies f).quartet k = s.quartet k := rfl
@[simp] theorem State.mapDies_ctx (f : Die → Die) (k : Nat) : (s.mapDies f).ctx k = s.ctx k := rfl
@[simp] theorem State.mapDies_team (f : Die → Die) (k : Nat) : (s.mapDies f).team k = s.team k := rfl
@[simp] theorem State.mapDies_launch (f : Die → Die) (k : Nat) : (s.mapDies f).launch k = s.launch k := rfl
@[simp] theorem State.mapDies_boardOf (f : Die → Die) (k : Nat) : (s.mapDies f).boardOf k = s.boardOf k := rfl
@[simp] theorem State.mapQuartets_core (f : Quartet → Quartet) (k : Nat) : (s.mapQuartets f).core k = s.core k := rfl
@[simp] theorem State.mapQuartets_die (f : Quartet → Quartet) (k : Nat) : (s.mapQuartets f).die k = s.die k := rfl
@[simp] theorem State.mapQuartets_ctx (f : Quartet → Quartet) (k : Nat) : (s.mapQuartets f).ctx k = s.ctx k := rfl
@[simp] theorem State.mapQuartets_team (f : Quartet → Quartet) (k : Nat) : (s.mapQuartets f).team k = s.team k := rfl
@[simp] theorem State.mapQuartets_launch (f : Quartet → Quartet) (k : Nat) : (s.mapQuartets f).launch k = s.launch k := rfl
@[simp] theorem State.mapQuartets_boardOf (f : Quartet → Quartet) (k : Nat) : (s.mapQuartets f).boardOf k = s.boardOf k := rfl
@[simp] theorem State.updMgmt_core (f : Mgmt → Mgmt) (k : Nat) : (s.updMgmt f).core k = s.core k := rfl
@[simp] theorem State.updMgmt_die (f : Mgmt → Mgmt) (k : Nat) : (s.updMgmt f).die k = s.die k := rfl
@[simp] theorem State.updMgmt_quartet (f : Mgmt → Mgmt) (k : Nat) : (s.updMgmt f).quartet k = s.quartet k := rfl
@[simp] theorem State.updMgmt_ctx (f : Mgmt → Mgmt) (k : Nat) : (s.updMgmt f).ctx k = s.ctx k := rfl
@[simp] theorem State.updMgmt_team (f : Mgmt → Mgmt) (k : Nat) : (s.updMgmt f).team k = s.team k := rfl
@[simp] theorem State.updMgmt_launch (f : Mgmt → Mgmt) (k : Nat) : (s.updMgmt f).launch k = s.launch k := rfl
@[simp] theorem State.updMgmt_boardOf (f : Mgmt → Mgmt) (k : Nat) : (s.updMgmt f).boardOf k = s.boardOf k := rfl
@[simp] theorem State.updLink_core (f : Link → Link) (k : Nat) : (s.updLink f).core k = s.core k := rfl
@[simp] theorem State.updLink_die (f : Link → Link) (k : Nat) : (s.updLink f).die k = s.die k := rfl
@[simp] theorem State.updLink_quartet (f : Link → Link) (k : Nat) : (s.updLink f).quartet k = s.quartet k := rfl
@[simp] theorem State.updLink_ctx (f : Link → Link) (k : Nat) : (s.updLink f).ctx k = s.ctx k := rfl
@[simp] theorem State.updLink_team (f : Link → Link) (k : Nat) : (s.updLink f).team k = s.team k := rfl
@[simp] theorem State.updLink_launch (f : Link → Link) (k : Nat) : (s.updLink f).launch k = s.launch k := rfl
@[simp] theorem State.updLink_boardOf (f : Link → Link) (k : Nat) : (s.updLink f).boardOf k = s.boardOf k := rfl
@[simp] theorem State.updWoad_core (f : Woad → Woad) (k : Nat) : (s.updWoad f).core k = s.core k := rfl
@[simp] theorem State.updWoad_die (f : Woad → Woad) (k : Nat) : (s.updWoad f).die k = s.die k := rfl
@[simp] theorem State.updWoad_quartet (f : Woad → Woad) (k : Nat) : (s.updWoad f).quartet k = s.quartet k := rfl
@[simp] theorem State.updWoad_ctx (f : Woad → Woad) (k : Nat) : (s.updWoad f).ctx k = s.ctx k := rfl
@[simp] theorem State.updWoad_team (f : Woad → Woad) (k : Nat) : (s.updWoad f).team k = s.team k := rfl
@[simp] theorem State.updWoad_launch (f : Woad → Woad) (k : Nat) : (s.updWoad f).launch k = s.launch k := rfl
@[simp] theorem State.updWoad_boardOf (f : Woad → Woad) (k : Nat) : (s.updWoad f).boardOf k = s.boardOf k := rfl
@[simp] theorem State.push_core (ts : List Turn) (k : Nat) : (s.push ts).core k = s.core k := rfl
@[simp] theorem State.push_die (ts : List Turn) (k : Nat) : (s.push ts).die k = s.die k := rfl
@[simp] theorem State.push_quartet (ts : List Turn) (k : Nat) : (s.push ts).quartet k = s.quartet k := rfl
@[simp] theorem State.push_ctx (ts : List Turn) (k : Nat) : (s.push ts).ctx k = s.ctx k := rfl
@[simp] theorem State.push_team (ts : List Turn) (k : Nat) : (s.push ts).team k = s.team k := rfl
@[simp] theorem State.push_launch (ts : List Turn) (k : Nat) : (s.push ts).launch k = s.launch k := rfl
@[simp] theorem State.push_boardOf (ts : List Turn) (k : Nat) : (s.push ts).boardOf k = s.boardOf k := rfl
@[simp] theorem State.send_core (m : Msg) (k : Nat) : (s.send m).core k = s.core k := rfl
@[simp] theorem State.send_die (m : Msg) (k : Nat) : (s.send m).die k = s.die k := rfl
@[simp] theorem State.send_quartet (m : Msg) (k : Nat) : (s.send m).quartet k = s.quartet k := rfl
@[simp] theorem State.send_ctx (m : Msg) (k : Nat) : (s.send m).ctx k = s.ctx k := rfl
@[simp] theorem State.send_team (m : Msg) (k : Nat) : (s.send m).team k = s.team k := rfl
@[simp] theorem State.send_launch (m : Msg) (k : Nat) : (s.send m).launch k = s.launch k := rfl
@[simp] theorem State.send_boardOf (m : Msg) (k : Nat) : (s.send m).boardOf k = s.boardOf k := rfl
@[simp] theorem State.updFrag_die (w : Who) (f : Frag → Frag) (k : Nat) : (s.updFrag w f).die k = s.die k := rfl
@[simp] theorem State.updFrag_quartet (w : Who) (f : Frag → Frag) (k : Nat) : (s.updFrag w f).quartet k = s.quartet k := rfl
@[simp] theorem State.updFrag_ctx (w : Who) (f : Frag → Frag) (k : Nat) : (s.updFrag w f).ctx k = s.ctx k := rfl
@[simp] theorem State.updFrag_team (w : Who) (f : Frag → Frag) (k : Nat) : (s.updFrag w f).team k = s.team k := rfl
@[simp] theorem State.updFrag_launch (w : Who) (f : Frag → Frag) (k : Nat) : (s.updFrag w f).launch k = s.launch k := rfl
@[simp] theorem State.updFrag_boardOf (w : Who) (f : Frag → Frag) (k : Nat) : (s.updFrag w f).boardOf k = s.boardOf k := rfl
@[simp] theorem State.updWave_die (w : Who) (f : Wave → Wave) (k : Nat) : (s.updWave w f).die k = s.die k := rfl
@[simp] theorem State.updWave_quartet (w : Who) (f : Wave → Wave) (k : Nat) : (s.updWave w f).quartet k = s.quartet k := rfl
@[simp] theorem State.updWave_ctx (w : Who) (f : Wave → Wave) (k : Nat) : (s.updWave w f).ctx k = s.ctx k := rfl
@[simp] theorem State.updWave_team (w : Who) (f : Wave → Wave) (k : Nat) : (s.updWave w f).team k = s.team k := rfl
@[simp] theorem State.updWave_launch (w : Who) (f : Wave → Wave) (k : Nat) : (s.updWave w f).launch k = s.launch k := rfl
@[simp] theorem State.updWave_boardOf (w : Who) (f : Wave → Wave) (k : Nat) : (s.updWave w f).boardOf k = s.boardOf k := rfl
@[simp] theorem State.fresh_core (k : Nat) : s.fresh.2.core k = s.core k := rfl
@[simp] theorem State.fresh_die (k : Nat) : s.fresh.2.die k = s.die k := rfl
@[simp] theorem State.fresh_quartet (k : Nat) : s.fresh.2.quartet k = s.quartet k := rfl
@[simp] theorem State.fresh_ctx (k : Nat) : s.fresh.2.ctx k = s.ctx k := rfl
@[simp] theorem State.fresh_team (k : Nat) : s.fresh.2.team k = s.team k := rfl
@[simp] theorem State.fresh_launch (k : Nat) : s.fresh.2.launch k = s.launch k := rfl
@[simp] theorem State.fresh_boardOf (k : Nat) : s.fresh.2.boardOf k = s.boardOf k := rfl

/-! ### The unit that an update changes -/
theorem State.setCore_core (n k : Nat) (c : Core) : (s.setCore n c).core k = if k = n then c else s.core k := Tbl.getD_set _ _ _ _ _
@[simp] theorem State.setCore_core_self (n : Nat) (c : Core) : (s.setCore n c).core n = c := by simp [State.setCore_core]
theorem State.setCore_core_ne (n k : Nat) (c : Core) (h : k ≠ n) : (s.setCore n c).core k = s.core k := by simp [State.setCore_core, h]
theorem State.updCore_core (n k : Nat) (f : Core → Core) : (s.updCore n f).core k = if k = n then f (s.core n) else s.core k := Tbl.getD_set _ _ _ _ _
@[simp] theorem State.updCore_core_self (n : Nat) (f : Core → Core) : (s.updCore n f).core n = f (s.core n) := by simp [State.updCore_core]
theorem State.updCore_core_ne (n k : Nat) (f : Core → Core) (h : k ≠ n) : (s.updCore n f).core k = s.core k := by simp [State.updCore_core, h]
theorem State.setDie_die (n k : Nat) (x : Die) : (s.setDie n x).die k = if k = n then x else s.die k := Tbl.getD_set _ _ _ _ _
@[simp] theorem State.setDie_die_self (n : Nat) (x : Die) : (s.setDie n x).die n = x := by simp [State.setDie_die]
theorem State.setDie_die_ne (n k : Nat) (x : Die) (h : k ≠ n) : (s.setDie n x).die k = s.die k := by simp [State.setDie_die, h]
theorem State.updDie_die (n k : Nat) (f : Die → Die) : (s.updDie n f).die k = if k = n then f (s.die n) else s.die k := Tbl.getD_set _ _ _ _ _
@[simp] theorem State.updDie_die_self (n : Nat) (f : Die → Die) : (s.updDie n f).die n = f (s.die n) := by simp [State.updDie_die]
theorem State.updDie_die_ne (n k : Nat) (f : Die → Die) (h : k ≠ n) : (s.updDie n f).die k = s.die k := by simp [State.updDie_die, h]
theorem State.updQuartet_quartet (n k : Nat) (f : Quartet → Quartet) : (s.updQuartet n f).quartet k = if k = n then f (s.quartet n) else s.quartet k := Tbl.getD_set _ _ _ _ _
@[simp] theorem State.updQuartet_quartet_self (n : Nat) (f : Quartet → Quartet) : (s.updQuartet n f).quartet n = f (s.quartet n) := by simp [State.updQuartet_quartet]
theorem State.updQuartet_quartet_ne (n k : Nat) (f : Quartet → Quartet) (h : k ≠ n) : (s.updQuartet n f).quartet k = s.quartet k := by simp [State.updQuartet_quartet, h]
theorem State.updCtx_ctx (n k : Nat) (f : Ctx → Ctx) : (s.updCtx n f).ctx k = if k = n then f (s.ctx n) else s.ctx k := Tbl.getD_set _ _ _ _ _
@[simp] theorem State.updCtx_ctx_self (n : Nat) (f : Ctx → Ctx) : (s.updCtx n f).ctx n = f (s.ctx n) := by simp [State.updCtx_ctx]
theorem State.updCtx_ctx_ne (n k : Nat) (f : Ctx → Ctx) (h : k ≠ n) : (s.updCtx n f).ctx k = s.ctx k := by simp [State.updCtx_ctx, h]
theorem State.updTeam_team (n k : Nat) (f : Team → Team) : (s.updTeam n f).team k = if k = n then f (s.team n) else s.team k := Tbl.getD_set _ _ _ _ _
@[simp] theorem State.updTeam_team_self (n : Nat) (f : Team → Team) : (s.updTeam n f).team n = f (s.team n) := by simp [State.updTeam_team]
theorem State.updTeam_team_ne (n k : Nat) (f : Team → Team) (h : k ≠ n) : (s.updTeam n f).team k = s.team k := by simp [State.updTeam_team, h]
theorem State.updLaunch_launch (n k : Nat) (f : Launch → Launch) : (s.updLaunch n f).launch k = if k = n then f (s.launch n) else s.launch k := Tbl.getD_set _ _ _ _ _
@[simp] theorem State.updLaunch_launch_self (n : Nat) (f : Launch → Launch) : (s.updLaunch n f).launch n = f (s.launch n) := by simp [State.updLaunch_launch]
theorem State.updLaunch_launch_ne (n k : Nat) (f : Launch → Launch) (h : k ≠ n) : (s.updLaunch n f).launch k = s.launch k := by simp [State.updLaunch_launch, h]
theorem State.updBoard_boardOf (n k : Nat) (f : Board → Board) : (s.updBoard n f).boardOf k = if k = n then f (s.boardOf n) else s.boardOf k := Tbl.getD_set _ _ _ _ _
@[simp] theorem State.updBoard_boardOf_self (n : Nat) (f : Board → Board) : (s.updBoard n f).boardOf n = f (s.boardOf n) := by simp [State.updBoard_boardOf]
theorem State.updBoard_boardOf_ne (n k : Nat) (f : Board → Board) (h : k ≠ n) : (s.updBoard n f).boardOf k = s.boardOf k := by simp [State.updBoard_boardOf, h]

/-! ### Waves and fragments of a core -/

variable (c : Core)

theorem Core.updWave_wave (n k : Nat) (f : Wave → Wave) : (c.updWave n f).wave k = if k = n then f (c.wave n) else c.wave k :=
  Tbl.getD_set _ _ _ _ _
@[simp] theorem Core.updWave_wave_self (n : Nat) (f : Wave → Wave) : (c.updWave n f).wave n = f (c.wave n) := by simp [Core.updWave_wave]
theorem Core.updWave_wave_ne (n k : Nat) (f : Wave → Wave) (h : k ≠ n) : (c.updWave n f).wave k = c.wave k := by simp [Core.updWave_wave, h]
@[simp] theorem Core.updWave_frag (n k : Nat) (f : Wave → Wave) : (c.updWave n f).frag k = c.frag k := rfl
@[simp] theorem Core.updWave_frags (n : Nat) (f : Wave → Wave) : (c.updWave n f).frags = c.frags := rfl
theorem Core.updFrag_frag (n k : Nat) (f : Frag → Frag) : (c.updFrag n f).frag k = if k = n then f (c.frag n) else c.frag k :=
  Tbl.getD_set _ _ _ _ _
@[simp] theorem Core.updFrag_frag_self (n : Nat) (f : Frag → Frag) : (c.updFrag n f).frag n = f (c.frag n) := by simp [Core.updFrag_frag]
theorem Core.updFrag_frag_ne (n k : Nat) (f : Frag → Frag) (h : k ≠ n) : (c.updFrag n f).frag k = c.frag k := by simp [Core.updFrag_frag, h]
@[simp] theorem Core.updFrag_wave (n k : Nat) (f : Frag → Frag) : (c.updFrag n f).wave k = c.wave k := rfl
@[simp] theorem Core.updFrag_waves (n : Nat) (f : Frag → Frag) : (c.updFrag n f).waves = c.waves := rfl

/-! ### The issuer -/

variable (w : Who)

@[simp] theorem State.updFrag_frag (f : Frag → Frag) : (s.updFrag w f).frag w = f (s.frag w) := by simp [State.frag, State.updFrag]
@[simp] theorem State.updFrag_wave (f : Frag → Frag) : (s.updFrag w f).wave w = s.wave w := by simp [State.wave, State.updFrag]
@[simp] theorem State.updWave_wave (f : Wave → Wave) : (s.updWave w f).wave w = f (s.wave w) := by simp [State.wave, State.updWave]
@[simp] theorem State.updWave_frag (f : Wave → Wave) : (s.updWave w f).frag w = s.frag w := by simp [State.frag, State.updWave]
@[simp] theorem Core.updWave_mode (n : Nat) (f : Wave → Wave) : (c.updWave n f).mode = c.mode := rfl
@[simp] theorem Core.updWave_missThresh (n : Nat) (f : Wave → Wave) : (c.updWave n f).missThresh = c.missThresh := rfl
@[simp] theorem Core.updWave_cycle (n : Nat) (f : Wave → Wave) : (c.updWave n f).cycle = c.cycle := rfl
@[simp] theorem Core.updWave_entryWaiters (n : Nat) (f : Wave → Wave) : (c.updWave n f).entryWaiters = c.entryWaiters := rfl
@[simp] theorem Core.updWave_pipes (n : Nat) (f : Wave → Wave) : (c.updWave n f).pipes = c.pipes := rfl
@[simp] theorem Core.updWave_l1 (n : Nat) (f : Wave → Wave) : (c.updWave n f).l1 = c.l1 := rfl
@[simp] theorem Core.updWave_icache (n : Nat) (f : Wave → Wave) : (c.updWave n f).icache = c.icache := rfl
@[simp] theorem Core.updWave_tc (n : Nat) (f : Wave → Wave) : (c.updWave n f).tc = c.tc := rfl
@[simp] theorem Core.updWave_posts (n : Nat) (f : Wave → Wave) : (c.updWave n f).posts = c.posts := rfl
@[simp] theorem Core.updWave_scopes (n : Nat) (f : Wave → Wave) : (c.updWave n f).scopes = c.scopes := rfl
@[simp] theorem Core.updWave_binds (n : Nat) (f : Wave → Wave) : (c.updWave n f).binds = c.binds := rfl
@[simp] theorem Core.updWave_retired (n : Nat) (f : Wave → Wave) : (c.updWave n f).retired = c.retired := rfl
@[simp] theorem Core.updWave_draining (n : Nat) (f : Wave → Wave) : (c.updWave n f).draining = c.draining := rfl
@[simp] theorem Core.updWave_nextAge (n : Nat) (f : Wave → Wave) : (c.updWave n f).nextAge = c.nextAge := rfl
@[simp] theorem Core.updFrag_mode (n : Nat) (f : Frag → Frag) : (c.updFrag n f).mode = c.mode := rfl
@[simp] theorem Core.updFrag_missThresh (n : Nat) (f : Frag → Frag) : (c.updFrag n f).missThresh = c.missThresh := rfl
@[simp] theorem Core.updFrag_cycle (n : Nat) (f : Frag → Frag) : (c.updFrag n f).cycle = c.cycle := rfl
@[simp] theorem Core.updFrag_entryWaiters (n : Nat) (f : Frag → Frag) : (c.updFrag n f).entryWaiters = c.entryWaiters := rfl
@[simp] theorem Core.updFrag_pipes (n : Nat) (f : Frag → Frag) : (c.updFrag n f).pipes = c.pipes := rfl
@[simp] theorem Core.updFrag_l1 (n : Nat) (f : Frag → Frag) : (c.updFrag n f).l1 = c.l1 := rfl
@[simp] theorem Core.updFrag_icache (n : Nat) (f : Frag → Frag) : (c.updFrag n f).icache = c.icache := rfl
@[simp] theorem Core.updFrag_tc (n : Nat) (f : Frag → Frag) : (c.updFrag n f).tc = c.tc := rfl
@[simp] theorem Core.updFrag_posts (n : Nat) (f : Frag → Frag) : (c.updFrag n f).posts = c.posts := rfl
@[simp] theorem Core.updFrag_scopes (n : Nat) (f : Frag → Frag) : (c.updFrag n f).scopes = c.scopes := rfl
@[simp] theorem Core.updFrag_binds (n : Nat) (f : Frag → Frag) : (c.updFrag n f).binds = c.binds := rfl
@[simp] theorem Core.updFrag_retired (n : Nat) (f : Frag → Frag) : (c.updFrag n f).retired = c.retired := rfl
@[simp] theorem Core.updFrag_draining (n : Nat) (f : Frag → Frag) : (c.updFrag n f).draining = c.draining := rfl
@[simp] theorem Core.updFrag_nextAge (n : Nat) (f : Frag → Frag) : (c.updFrag n f).nextAge = c.nextAge := rfl

/-! ### Registers of a wave -/

variable (wv : Wave)

theorem Wave.setV_vreg (l i : Nat) (x : Word) (m j : Nat) :
    (wv.setV l i x).vreg m j = if j * 64 + m = i * 64 + l then x else wv.vreg m j := by
  simp [Wave.setV, Wave.vreg, Tbl.getD_put]
@[simp] theorem Wave.setV_vreg_self (l i : Nat) (x : Word) : (wv.setV l i x).vreg l i = x := by simp [Wave.setV_vreg]
theorem Wave.setG_greg (i j : Nat) (x : Word) : (wv.setG i x).greg j = if j = i then x else wv.greg j := by
  simp [Wave.setG, Wave.greg, Tbl.getD_put]
@[simp] theorem Wave.setG_greg_self (i : Nat) (x : Word) : (wv.setG i x).greg i = x := by simp [Wave.setG_greg]
/-- p0 reads as 1 in every lane, whatever is written to it (R360). -/
@[simp] theorem Wave.preds_zero : wv.preds 0 = BitVec.allOnes 64 := rfl
/-- A write to p0 is ignored. -/
@[simp] theorem Wave.setPreds_zero (m v : Mask) : wv.setPreds 0 m v = wv := rfl
/-- q0 reads as 1. -/
@[simp] theorem Wave.qpred_zero : wv.qpred 0 = true := rfl
/-- A write to q0 is ignored. -/
@[simp] theorem Wave.setQ_zero (b : Bool) : wv.setQ 0 b = wv := rfl
@[simp] theorem Wave.setV_team (l i : Nat) (x : Word) : (wv.setV l i x).team = wv.team := rfl
@[simp] theorem Wave.setV_idx (l i : Nat) (x : Word) : (wv.setV l i x).idx = wv.idx := rfl
@[simp] theorem Wave.setV_lanes (l i : Nat) (x : Word) : (wv.setV l i x).lanes = wv.lanes := rfl
@[simp] theorem Wave.setV_vregs (l i : Nat) (x : Word) : (wv.setV l i x).vregs = wv.vregs := rfl
@[simp] theorem Wave.setV_pipe (l i : Nat) (x : Word) : (wv.setV l i x).pipe = wv.pipe := rfl
@[simp] theorem Wave.setV_age (l i : Nat) (x : Word) : (wv.setV l i x).age = wv.age := rfl
@[simp] theorem Wave.setV_priv (l i : Nat) (x : Word) : (wv.setV l i x).priv = wv.priv := rfl
@[simp] theorem Wave.setV_p (l i : Nat) (x : Word) : (wv.setV l i x).p = wv.p := rfl
@[simp] theorem Wave.setV_g (l i : Nat) (x : Word) : (wv.setV l i x).g = wv.g := rfl
@[simp] theorem Wave.setV_q (l i : Nat) (x : Word) : (wv.setV l i x).q = wv.q := rfl
@[simp] theorem Wave.setV_som (l i : Nat) (x : Word) : (wv.setV l i x).som = wv.som := rfl
@[simp] theorem Wave.setV_fuseTo (l i : Nat) (x : Word) : (wv.setV l i x).fuseTo = wv.fuseTo := rfl
@[simp] theorem Wave.setV_fpmode (l i : Nat) (x : Word) : (wv.setV l i x).fpmode = wv.fpmode := rfl
@[simp] theorem Wave.setV_fpflags (l i : Nat) (x : Word) : (wv.setV l i x).fpflags = wv.fpflags := rfl
@[simp] theorem Wave.setV_cyclehi (l i : Nat) (x : Word) : (wv.setV l i x).cyclehi = wv.cyclehi := rfl
@[simp] theorem Wave.setV_exited (l i : Nat) (x : Word) : (wv.setV l i x).exited = wv.exited := rfl
@[simp] theorem Wave.setV_acq (l i : Nat) (x : Word) : (wv.setV l i x).acq = wv.acq := rfl
@[simp] theorem Wave.setV_streams (l i : Nat) (x : Word) : (wv.setV l i x).streams = wv.streams := rfl
@[simp] theorem Wave.setV_pend (l i : Nat) (x : Word) : (wv.setV l i x).pend = wv.pend := rfl
@[simp] theorem Wave.setV_region (l i : Nat) (x : Word) : (wv.setV l i x).region = wv.region := rfl
@[simp] theorem Wave.setV_haltReq (l i : Nat) (x : Word) : (wv.setV l i x).haltReq = wv.haltReq := rfl
@[simp] theorem Wave.setV_retired (l i : Nat) (x : Word) : (wv.setV l i x).retired = wv.retired := rfl
@[simp] theorem Wave.setV_idle (l i : Nat) (x : Word) : (wv.setV l i x).idle = wv.idle := rfl
@[simp] theorem Wave.setV_order (l i : Nat) (x : Word) : (wv.setV l i x).order = wv.order := rfl
@[simp] theorem Wave.setV_owed (l i : Nat) (x : Word) : (wv.setV l i x).owed = wv.owed := rfl
@[simp] theorem Wave.setV_badG (l i : Nat) (x : Word) : (wv.setV l i x).badG = wv.badG := rfl
@[simp] theorem Wave.setG_team (i : Nat) (x : Word) : (wv.setG i x).team = wv.team := rfl
@[simp] theorem Wave.setG_idx (i : Nat) (x : Word) : (wv.setG i x).idx = wv.idx := rfl
@[simp] theorem Wave.setG_lanes (i : Nat) (x : Word) : (wv.setG i x).lanes = wv.lanes := rfl
@[simp] theorem Wave.setG_vregs (i : Nat) (x : Word) : (wv.setG i x).vregs = wv.vregs := rfl
@[simp] theorem Wave.setG_pipe (i : Nat) (x : Word) : (wv.setG i x).pipe = wv.pipe := rfl
@[simp] theorem Wave.setG_age (i : Nat) (x : Word) : (wv.setG i x).age = wv.age := rfl
@[simp] theorem Wave.setG_priv (i : Nat) (x : Word) : (wv.setG i x).priv = wv.priv := rfl
@[simp] theorem Wave.setG_v (i : Nat) (x : Word) : (wv.setG i x).v = wv.v := rfl
@[simp] theorem Wave.setG_p (i : Nat) (x : Word) : (wv.setG i x).p = wv.p := rfl
@[simp] theorem Wave.setG_q (i : Nat) (x : Word) : (wv.setG i x).q = wv.q := rfl
@[simp] theorem Wave.setG_som (i : Nat) (x : Word) : (wv.setG i x).som = wv.som := rfl
@[simp] theorem Wave.setG_fuseTo (i : Nat) (x : Word) : (wv.setG i x).fuseTo = wv.fuseTo := rfl
@[simp] theorem Wave.setG_fpmode (i : Nat) (x : Word) : (wv.setG i x).fpmode = wv.fpmode := rfl
@[simp] theorem Wave.setG_fpflags (i : Nat) (x : Word) : (wv.setG i x).fpflags = wv.fpflags := rfl
@[simp] theorem Wave.setG_cyclehi (i : Nat) (x : Word) : (wv.setG i x).cyclehi = wv.cyclehi := rfl
@[simp] theorem Wave.setG_exited (i : Nat) (x : Word) : (wv.setG i x).exited = wv.exited := rfl
@[simp] theorem Wave.setG_acq (i : Nat) (x : Word) : (wv.setG i x).acq = wv.acq := rfl
@[simp] theorem Wave.setG_streams (i : Nat) (x : Word) : (wv.setG i x).streams = wv.streams := rfl
@[simp] theorem Wave.setG_pend (i : Nat) (x : Word) : (wv.setG i x).pend = wv.pend := rfl
@[simp] theorem Wave.setG_region (i : Nat) (x : Word) : (wv.setG i x).region = wv.region := rfl
@[simp] theorem Wave.setG_haltReq (i : Nat) (x : Word) : (wv.setG i x).haltReq = wv.haltReq := rfl
@[simp] theorem Wave.setG_retired (i : Nat) (x : Word) : (wv.setG i x).retired = wv.retired := rfl
@[simp] theorem Wave.setG_idle (i : Nat) (x : Word) : (wv.setG i x).idle = wv.idle := rfl
@[simp] theorem Wave.setG_order (i : Nat) (x : Word) : (wv.setG i x).order = wv.order := rfl
@[simp] theorem Wave.setG_owed (i : Nat) (x : Word) : (wv.setG i x).owed = wv.owed := rfl
@[simp] theorem Wave.setG_badV (i : Nat) (x : Word) : (wv.setG i x).badV = wv.badV := rfl
@[simp] theorem Wave.setPreds_team (i : Nat) (m v : Mask) : (wv.setPreds i m v).team = wv.team := by unfold Wave.setPreds; split <;> rfl
@[simp] theorem Wave.setPreds_idx (i : Nat) (m v : Mask) : (wv.setPreds i m v).idx = wv.idx := by unfold Wave.setPreds; split <;> rfl
@[simp] theorem Wave.setPreds_lanes (i : Nat) (m v : Mask) : (wv.setPreds i m v).lanes = wv.lanes := by unfold Wave.setPreds; split <;> rfl
@[simp] theorem Wave.setPreds_vregs (i : Nat) (m v : Mask) : (wv.setPreds i m v).vregs = wv.vregs := by unfold Wave.setPreds; split <;> rfl
@[simp] theorem Wave.setPreds_pipe (i : Nat) (m v : Mask) : (wv.setPreds i m v).pipe = wv.pipe := by unfold Wave.setPreds; split <;> rfl
@[simp] theorem Wave.setPreds_age (i : Nat) (m v : Mask) : (wv.setPreds i m v).age = wv.age := by unfold Wave.setPreds; split <;> rfl
@[simp] theorem Wave.setPreds_priv (i : Nat) (m v : Mask) : (wv.setPreds i m v).priv = wv.priv := by unfold Wave.setPreds; split <;> rfl
@[simp] theorem Wave.setPreds_v (i : Nat) (m v : Mask) : (wv.setPreds i m v).v = wv.v := by unfold Wave.setPreds; split <;> rfl
@[simp] theorem Wave.setPreds_g (i : Nat) (m v : Mask) : (wv.setPreds i m v).g = wv.g := by unfold Wave.setPreds; split <;> rfl
@[simp] theorem Wave.setPreds_q (i : Nat) (m v : Mask) : (wv.setPreds i m v).q = wv.q := by unfold Wave.setPreds; split <;> rfl
@[simp] theorem Wave.setPreds_som (i : Nat) (m v : Mask) : (wv.setPreds i m v).som = wv.som := by unfold Wave.setPreds; split <;> rfl
@[simp] theorem Wave.setPreds_fuseTo (i : Nat) (m v : Mask) : (wv.setPreds i m v).fuseTo = wv.fuseTo := by unfold Wave.setPreds; split <;> rfl
@[simp] theorem Wave.setPreds_fpmode (i : Nat) (m v : Mask) : (wv.setPreds i m v).fpmode = wv.fpmode := by unfold Wave.setPreds; split <;> rfl
@[simp] theorem Wave.setPreds_fpflags (i : Nat) (m v : Mask) : (wv.setPreds i m v).fpflags = wv.fpflags := by unfold Wave.setPreds; split <;> rfl
@[simp] theorem Wave.setPreds_cyclehi (i : Nat) (m v : Mask) : (wv.setPreds i m v).cyclehi = wv.cyclehi := by unfold Wave.setPreds; split <;> rfl
@[simp] theorem Wave.setPreds_exited (i : Nat) (m v : Mask) : (wv.setPreds i m v).exited = wv.exited := by unfold Wave.setPreds; split <;> rfl
@[simp] theorem Wave.setPreds_acq (i : Nat) (m v : Mask) : (wv.setPreds i m v).acq = wv.acq := by unfold Wave.setPreds; split <;> rfl
@[simp] theorem Wave.setPreds_streams (i : Nat) (m v : Mask) : (wv.setPreds i m v).streams = wv.streams := by unfold Wave.setPreds; split <;> rfl
@[simp] theorem Wave.setPreds_pend (i : Nat) (m v : Mask) : (wv.setPreds i m v).pend = wv.pend := by unfold Wave.setPreds; split <;> rfl
@[simp] theorem Wave.setPreds_region (i : Nat) (m v : Mask) : (wv.setPreds i m v).region = wv.region := by unfold Wave.setPreds; split <;> rfl
@[simp] theorem Wave.setPreds_haltReq (i : Nat) (m v : Mask) : (wv.setPreds i m v).haltReq = wv.haltReq := by unfold Wave.setPreds; split <;> rfl
@[simp] theorem Wave.setPreds_retired (i : Nat) (m v : Mask) : (wv.setPreds i m v).retired = wv.retired := by unfold Wave.setPreds; split <;> rfl
@[simp] theorem Wave.setPreds_idle (i : Nat) (m v : Mask) : (wv.setPreds i m v).idle = wv.idle := by unfold Wave.setPreds; split <;> rfl
@[simp] theorem Wave.setPreds_order (i : Nat) (m v : Mask) : (wv.setPreds i m v).order = wv.order := by unfold Wave.setPreds; split <;> rfl
@[simp] theorem Wave.setPreds_owed (i : Nat) (m v : Mask) : (wv.setPreds i m v).owed = wv.owed := by unfold Wave.setPreds; split <;> rfl
@[simp] theorem Wave.setPreds_badV (i : Nat) (m v : Mask) : (wv.setPreds i m v).badV = wv.badV := by unfold Wave.setPreds; split <;> rfl
@[simp] theorem Wave.setPreds_badG (i : Nat) (m v : Mask) : (wv.setPreds i m v).badG = wv.badG := by unfold Wave.setPreds; split <;> rfl
@[simp] theorem Wave.setQ_team (i : Nat) (b : Bool) : (wv.setQ i b).team = wv.team := by unfold Wave.setQ; split <;> rfl
@[simp] theorem Wave.setQ_idx (i : Nat) (b : Bool) : (wv.setQ i b).idx = wv.idx := by unfold Wave.setQ; split <;> rfl
@[simp] theorem Wave.setQ_lanes (i : Nat) (b : Bool) : (wv.setQ i b).lanes = wv.lanes := by unfold Wave.setQ; split <;> rfl
@[simp] theorem Wave.setQ_vregs (i : Nat) (b : Bool) : (wv.setQ i b).vregs = wv.vregs := by unfold Wave.setQ; split <;> rfl
@[simp] theorem Wave.setQ_pipe (i : Nat) (b : Bool) : (wv.setQ i b).pipe = wv.pipe := by unfold Wave.setQ; split <;> rfl
@[simp] theorem Wave.setQ_age (i : Nat) (b : Bool) : (wv.setQ i b).age = wv.age := by unfold Wave.setQ; split <;> rfl
@[simp] theorem Wave.setQ_priv (i : Nat) (b : Bool) : (wv.setQ i b).priv = wv.priv := by unfold Wave.setQ; split <;> rfl
@[simp] theorem Wave.setQ_v (i : Nat) (b : Bool) : (wv.setQ i b).v = wv.v := by unfold Wave.setQ; split <;> rfl
@[simp] theorem Wave.setQ_p (i : Nat) (b : Bool) : (wv.setQ i b).p = wv.p := by unfold Wave.setQ; split <;> rfl
@[simp] theorem Wave.setQ_g (i : Nat) (b : Bool) : (wv.setQ i b).g = wv.g := by unfold Wave.setQ; split <;> rfl
@[simp] theorem Wave.setQ_som (i : Nat) (b : Bool) : (wv.setQ i b).som = wv.som := by unfold Wave.setQ; split <;> rfl
@[simp] theorem Wave.setQ_fuseTo (i : Nat) (b : Bool) : (wv.setQ i b).fuseTo = wv.fuseTo := by unfold Wave.setQ; split <;> rfl
@[simp] theorem Wave.setQ_fpmode (i : Nat) (b : Bool) : (wv.setQ i b).fpmode = wv.fpmode := by unfold Wave.setQ; split <;> rfl
@[simp] theorem Wave.setQ_fpflags (i : Nat) (b : Bool) : (wv.setQ i b).fpflags = wv.fpflags := by unfold Wave.setQ; split <;> rfl
@[simp] theorem Wave.setQ_cyclehi (i : Nat) (b : Bool) : (wv.setQ i b).cyclehi = wv.cyclehi := by unfold Wave.setQ; split <;> rfl
@[simp] theorem Wave.setQ_exited (i : Nat) (b : Bool) : (wv.setQ i b).exited = wv.exited := by unfold Wave.setQ; split <;> rfl
@[simp] theorem Wave.setQ_acq (i : Nat) (b : Bool) : (wv.setQ i b).acq = wv.acq := by unfold Wave.setQ; split <;> rfl
@[simp] theorem Wave.setQ_streams (i : Nat) (b : Bool) : (wv.setQ i b).streams = wv.streams := by unfold Wave.setQ; split <;> rfl
@[simp] theorem Wave.setQ_pend (i : Nat) (b : Bool) : (wv.setQ i b).pend = wv.pend := by unfold Wave.setQ; split <;> rfl
@[simp] theorem Wave.setQ_region (i : Nat) (b : Bool) : (wv.setQ i b).region = wv.region := by unfold Wave.setQ; split <;> rfl
@[simp] theorem Wave.setQ_haltReq (i : Nat) (b : Bool) : (wv.setQ i b).haltReq = wv.haltReq := by unfold Wave.setQ; split <;> rfl
@[simp] theorem Wave.setQ_retired (i : Nat) (b : Bool) : (wv.setQ i b).retired = wv.retired := by unfold Wave.setQ; split <;> rfl
@[simp] theorem Wave.setQ_idle (i : Nat) (b : Bool) : (wv.setQ i b).idle = wv.idle := by unfold Wave.setQ; split <;> rfl
@[simp] theorem Wave.setQ_order (i : Nat) (b : Bool) : (wv.setQ i b).order = wv.order := by unfold Wave.setQ; split <;> rfl
@[simp] theorem Wave.setQ_owed (i : Nat) (b : Bool) : (wv.setQ i b).owed = wv.owed := by unfold Wave.setQ; split <;> rfl
@[simp] theorem Wave.setQ_badV (i : Nat) (b : Bool) : (wv.setQ i b).badV = wv.badV := by unfold Wave.setQ; split <;> rfl
@[simp] theorem Wave.setQ_badG (i : Nat) (b : Bool) : (wv.setQ i b).badG = wv.badG := by unfold Wave.setQ; split <;> rfl

end Machine
end Sys2Proof
end

