-- ==== Sys2Proof/Laws/Issue.lean ====
section
/-! SUPPORT. What one issue can do: an issuer that holds the turn comes to the end its instruction's effect gives, and how each end
is named. -/

namespace Sys2Proof
namespace Machine

theorem insOf_word (i : Instr) (ops : Nat → Word × Word × Word) (adr : Nat → Option Addr) : (insOf i ops adr).word = wordOf i := by
  unfold wordOf insOf; cases encode i <;> rfl
theorem insOf_ext (i : Instr) (ops ops' : Nat → Word × Word × Word) (adr adr' : Nat → Option Addr) :
    (insOf i ops adr).ext = (insOf i ops' adr').ext := by
  unfold insOf; cases encode i <;> rfl

@[simp] theorem maskOf_false : (maskOf fun _ => false) = 0 := rfl

theorem any_never {α : Type} (l : List α) : (l.any fun _ => false) = false := by induction l <;> simp_all

/-- What `sound` says. -/
theorem Wave.sound_iff (wv : Wave) :
    wv.sound = true ↔ wv.badV = [] ∧ wv.badG = [] ∧ wv.badP = [] ∧ wv.badQ = false ∧ wv.badS = [] := by
  simp [Wave.sound, and_assoc]

/-- A wave without poisoned registers reads none. -/
theorem Wave.poisoned_none (wv : Wave) (i : Instr) (act : Mask) (h : wv.sound = true) : wv.poisoned i act = 0 := by
  obtain ⟨hv, hg, hp, hq, hs⟩ := wv.sound_iff.1 h
  have hv : ∀ n, Tbl.get? wv.badV n = none := fun n => by rw [hv]; rfl
  have hg : ∀ n, Tbl.get? wv.badG n = none := fun n => by rw [hg]; rfl
  have hp : ∀ n, Tbl.get? wv.badP n = none := fun n => by rw [hp]; rfl
  have hs : ∀ n, Tbl.get? wv.badS n = none := fun n => by rw [hs]; rfl
  simp [Wave.poisoned, hv, hg, hp, hq, hs, any_never]

variable (s : State) (w : Who) (i : Instr)

/-- What `holds` says. -/
theorem State.holds_iff : s.holds w = true ↔
    s.cur = some (w.core, w.entry) ∧ s.whoAt w.core w.entry = w ∧ (s.frag w).budget ≠ 0 ∧ (s.team w.team).segmiss = none ∧
      (s.frag w).bad = false ∧ (s.wave w).sound = true := by
  simp [State.holds, and_assoc]

/-- What `ready` says. -/
theorem State.ready_iff : s.ready w = true ↔ s.holds w = true ∧ (s.frag w).again = false ∧ (s.frag w).issued = none := by
  simp [State.ready, and_assoc]

theorem State.effect_eq (body : State → Who → Flow) (h : s.holds w = true) : s.effect w i body = body s w := by
  obtain ⟨-, -, -, -, hb, hp⟩ := (s.holds_iff w).1 h
  simp only [State.effect, hb, Wave.poisoned_none _ _ _ hp]
  cases i <;> rfl

/-- An issuer that holds the turn comes to the end of its instruction's effect. -/
theorem issue_holds (ops : State → Who → Nat → Word × Word × Word) (body : State → Who → Flow) (h : s.holds w = true) :
    issue i ops body s = .next (s.conclude w (insOf i (ops s w) (instrAddr i (s.regs w))) (body s w)) := by
  obtain ⟨hc, hw, hb, hs, -, -⟩ := (s.holds_iff w).1 h
  simp [issue, hc, hw, hb, hs, State.effect_eq s w i _ h]

theorem State.ready_holds (h : s.ready w = true) : s.holds w = true := ((s.ready_iff w).1 h).1
theorem State.ready_again (h : s.ready w = true) : (s.frag w).again = false := ((s.ready_iff w).1 h).2.1
theorem State.ready_issued (h : s.ready w = true) : (s.frag w).issued = none := ((s.ready_iff w).1 h).2.2
/-- An instruction that has not issued before reads the wave's registers. -/
theorem State.ready_regs (h : s.ready w = true) : s.regs w = s.wave w := by simp [State.regs, State.ready_issued s w h]
/-- It captures its scope now. -/
theorem State.ready_captured (e : Nat) (h : s.ready w = true) : s.captured w e = s.capture w e := by
  simp [State.captured, State.ready_issued s w h]

/-! ## The ends of an issue -/

variable (ops : Nat → Word × Word × Word) (adr : Nat → Option Addr)

theorem conclude_done (t : State) : s.conclude w (insOf i ops adr) (.done t) = s.finished w i t := by
  simp only [State.conclude, State.finished, insOf_word]
theorem conclude_jump (t : State) (pc : Addr) :
    s.conclude w (insOf i ops adr) (.jump t pc) = s.finishedAt w i t pc := by
  simp only [State.conclude, State.finishedAt, insOf_word]
@[simp] theorem conclude_placed (ins : Ins) (t : State) : s.conclude w ins (.placed t) = t := rfl
@[simp] theorem conclude_hold (ins : Ins) (t : State) : s.conclude w ins (.hold t) = t := rfl
theorem conclude_trap (t : State) (x : Trap) :
    s.conclude w (insOf i ops (instrAddr i (s.regs w))) (.trap t x) = s.raised w i ops t x := rfl
theorem conclude_wait (t : State) (k : Wait) : s.conclude w (insOf i ops adr) (.wait t k) = s.awaiting w i t k := by
  simp only [State.conclude, State.awaiting, State.issuedOf, insOf_ext i ops (fun _ => (0, 0, 0)) adr fun _ => none, insOf_word]

omit ops adr

/-- An instruction whose effect is `t` answers the state that `finished` gives. -/
theorem issue_done (ops : State → Who → Nat → Word × Word × Word) (body : State → Who → Flow) (t : State) (h : s.holds w = true)
    (hb : body s w = .done t) : issue i ops body s = .next (s.finished w i t) := by
  rw [issue_holds s w i ops body h, hb, conclude_done]
theorem issue_jump (ops : State → Who → Nat → Word × Word × Word) (body : State → Who → Flow) (t : State) (pc : Addr)
    (h : s.holds w = true) (hb : body s w = .jump t pc) : issue i ops body s = .next (s.finishedAt w i t pc) := by
  rw [issue_holds s w i ops body h, hb, conclude_jump]
theorem issue_placed (ops : State → Who → Nat → Word × Word × Word) (body : State → Who → Flow) (t : State)
    (h : s.holds w = true) (hb : body s w = .placed t) : issue i ops body s = .next t := by
  rw [issue_holds s w i ops body h, hb, conclude_placed]
theorem issue_wait (ops : State → Who → Nat → Word × Word × Word) (body : State → Who → Flow) (t : State) (k : Wait)
    (h : s.holds w = true) (hb : body s w = .wait t k) : issue i ops body s = .next (s.awaiting w i t k) := by
  rw [issue_holds s w i ops body h, hb, conclude_wait]
theorem issue_trap (ops : State → Who → Nat → Word × Word × Word) (body : State → Who → Flow) (t : State) (x : Trap)
    (h : s.holds w = true) (hb : body s w = .trap t x) : issue i ops body s = .next (s.raised w i (ops s w) t x) := by
  rw [issue_holds s w i ops body h, hb, conclude_trap]

end Machine
end Sys2Proof
end

