-- ==== Sys2Proof/Laws/Lanes.lean ====
section
/-! SUPPORT. What the shared forms of lane and uniform instructions come to: one law for each form. -/

namespace Sys2Proof
namespace Machine

variable (s : State) (w : Who) (i : Instr)

theorem lanesWhere_none (outs : List (Nat × LaneOut)) (p : LaneOut → Bool) (h : ∀ x ∈ outs, p x.2 = false) : lanesWhere outs p = 0 := by
  unfold lanesWhere
  suffices ∀ m : Mask, outs.foldl (fun m (l, o) => if p o then m ||| laneBit l else m) m = m from this 0
  induction outs with
  | nil => intro m; rfl
  | cons x t ih =>
    obtain ⟨l, o⟩ := x
    intro m
    have h0 : p o = false := h (l, o) (by simp)
    simp only [List.foldl_cons, h0]
    exact ih (fun y hy => h y (by simp [hy])) m

/-- A computation without a legacy trap or an enabled exception writes its results and its flags. -/
theorem finish_done (sto : Bool) (outs : List (Nat × LaneOut)) (hl : legUnion outs &&& (s.ctx w.ctx).legmask = 0)
    (hx : (s.wave w).excLanes outs = 0) :
    s.finish w sto outs = .done ((if sto then s.takeStep w else s).writeLanes w outs) := by
  simp [State.finish, hl, hx, State.writeLanes]

/-- Where nothing is enabled to trap, every computation completes. -/
theorem finish_untrapped (sto : Bool) (outs : List (Nat × LaneOut)) (h : s.untrapped w = true) :
    s.finish w sto outs = .done ((if sto then s.takeStep w else s).writeLanes w outs) := by
  simp only [State.untrapped, Bool.and_eq_true, beq_iff_eq] at h
  exact finish_done s w sto outs (by simp [h.1]) (lanesWhere_none _ _ (by simp [h.2]))

/-- A result is quiet: it shows no legacy class, and no flag that can trap. -/
def LaneOut.quiet (o : LaneOut) : Prop := o.leg = 0 ∧ (o.fl = 0 ∨ o.fl = Fl.sat)

theorem legUnion_quiet (outs : List (Nat × LaneOut)) (h : ∀ x ∈ outs, x.2.quiet) : legUnion outs = 0 := by
  unfold legUnion
  suffices ∀ m : BitVec 16, outs.foldl (fun f (_, o) => f ||| o.leg) m = m from this 0
  induction outs with
  | nil => intro m; rfl
  | cons x t ih =>
    intro m
    have h0 := (h x (by simp)).1
    simp only [List.foldl_cons, h0]
    rw [show m ||| (0 : BitVec 16) = m from BitVec.or_zero]
    exact ih (fun y hy => h y (by simp [hy])) m

theorem Wave.enables_sat (wv : Wave) : Fl.sat &&& wv.enables = 0 := by
  have h : ∀ x : BitVec 5, (Fl.sat &&& ((0 : BitVec 2) ++ x) : Fl) = 0 := by decide
  exact h _

theorem excLanes_quiet (outs : List (Nat × LaneOut)) (h : ∀ x ∈ outs, x.2.quiet) : (s.wave w).excLanes outs = 0 := by
  apply lanesWhere_none
  intro x hx
  rcases (h x hx).2 with e | e <;> simp [e, Wave.enables_sat]

theorem finish_quiet (sto : Bool) (outs : List (Nat × LaneOut)) (h : ∀ x ∈ outs, x.2.quiet) :
    s.finish w sto outs = .done ((if sto then s.takeStep w else s).writeLanes w outs) :=
  finish_done s w sto outs (by simp [legUnion_quiet outs h]) (excLanes_quiet s w outs h)

/-! ## The forms -/

theorem laneOp_done (f : LForm) (u : SrcUse) (g : EMod → Wave → Nat → LaneOut) (h : s.holds w = true)
    (hq : ∀ l, (g (i.extL f) (s.wave w) l).quiet) :
    laneOp i f u g s = .next (s.finished w i (s.writeLanes w (s.outsOf w (i.extL f) (g (i.extL f) (s.wave w))))) := by
  refine issue_done s w i _ _ _ h ?_
  simp only [State.perLane, State.outsOf]
  rw [finish_quiet]
  · rfl
  · intro x hx
    obtain ⟨l, -, rfl⟩ := List.mem_map.1 hx
    exact hq l

theorem laneImm_done (f : LImm) (a : Bool) (g : Wave → Nat → LaneOut) (h : s.holds w = true) (hq : ∀ l, (g (s.wave w) l).quiet) :
    laneImm i f a g s =
      .next (s.finished w i (s.writeLanes w ((lanesOf (s.active w false 0)).map fun l => (l, g (s.wave w) l)))) := by
  refine issue_done s w i _ _ _ h ?_
  simp only [State.perLane]
  rw [finish_quiet]
  · rfl
  · intro x hx
    obtain ⟨l, -, rfl⟩ := List.mem_map.1 hx
    exact hq l

theorem laneFp_done (f : LForm) (u : SrcUse) (r : Bool) (g : EMod → FEnv → Wave → Nat → LaneOut) (h : s.holds w = true)
    (hu : s.untrapped w = true) :
    laneFp i f u r g s =
      let e := i.extL f
      let n := s.fenv w e.rnd e.sat
      .next (s.finished w i ((if r && n.mode == 5 then s.takeStep w else s).writeLanes w (s.outsOf w e (g e n (s.wave w))))) := by
  refine issue_done s w i _ _ _ h ?_
  simp only [State.perLane, State.outsOf]
  exact finish_untrapped s w _ _ hu

theorem laneFlt_done (f : LFlt) (b : Word) (c r : Bool) (g : FEnv → Wave → Nat → LaneOut) (h : s.holds w = true)
    (hu : s.untrapped w = true) :
    laneFlt i f b c r g s =
      let n := s.fenv w f.f.rnd f.f.sat
      .next (s.finished w i ((if r && n.mode == 5 then s.takeStep w else s).writeLanes w
        ((lanesOf (s.active w f.f.gsense f.f.guard)).map fun l => (l, g n (s.wave w) l)))) := by
  refine issue_done s w i _ _ _ h ?_
  simp only [State.perLane]
  exact finish_untrapped s w _ _ hu

/-- No forced fuse is needed. -/
theorem forced_whole (ins : Ins) (code : Nat) (body : State → Flow) (h : s.whole w code = true) : s.forced w ins code body = body s := by
  simp only [State.whole, Bool.or_eq_true, Bool.and_eq_true, beq_iff_eq] at h
  rcases h with h | ⟨h1, h2⟩
  · simp [State.forced, h]
  · by_cases ht : (s.frag w).trap.isSome = true
    · simp [State.forced, ht]
    · have hf : ((s.core w.core).fuseParts [w.entry]).1.length ≤ 1 := by
        simp only [Core.fuseParts]
        exact Nat.le_trans (List.length_filter_le _ _) (by simp)
      have hn : ¬ 2 ≤ ((s.core w.core).fuseParts [w.entry]).1.length := by omega
      simp only [State.forced, ht, h1, h2]
      simp [hn]

/-- Only the registers, the predicate and the flags of a result are written. -/
theorem writeLanes_congr (as : List Nat) (g h : Nat → LaneOut)
    (e : ∀ l, (g l).v = (h l).v ∧ (g l).p = (h l).p ∧ (g l).fl = (h l).fl) :
    s.writeLanes w (as.map fun l => (l, g l)) = s.writeLanes w (as.map fun l => (l, h l)) := by
  have hp : ∀ (wv : Wave) l, wv.putLane l (g l) = wv.putLane l (h l) := by
    intro wv l; simp [Wave.putLane, (e l).1, (e l).2.1]
  have h1 : ∀ wv : Wave, wv.putLanes (as.map fun l => (l, g l)) = wv.putLanes (as.map fun l => (l, h l)) := by
    unfold Wave.putLanes
    induction as with
    | nil => intro wv; rfl
    | cons x t ih => intro wv; simp only [List.map_cons, List.foldl_cons, hp]; exact ih _
  have h2 : flagUnion (as.map fun l => (l, g l)) = flagUnion (as.map fun l => (l, h l)) := by
    unfold flagUnion
    clear h1
    suffices ∀ m : Fl, (as.map fun l => (l, g l)).foldl (fun f (_, o) => f ||| o.fl) m = (as.map fun l => (l, h l)).foldl (fun f (_, o) => f ||| o.fl) m from this 0
    induction as with
    | nil => intro m; rfl
    | cons x t ih => intro m; simp only [List.map_cons, List.foldl_cons, (e x).2.2]; exact ih _
  simp only [State.writeLanes, h1, h2]

/-- A uniform instruction whose guard holds comes to what its effect gives; under a false guard it only issues (R432). -/
theorem uniOp_holds (f : UForm) (u : SrcUse) (body : EMod → State → Who → Flow) (h : s.holds w = true)
    (hg : (s.wave w).uguard (i.extU f) = true) :
    uniOp i f u body s = .next (s.conclude w (insOf i (opsUni u f (i.extU f) s w) (instrAddr i (s.regs w))) (body (i.extU f) s w)) := by
  simp only [uniOp, issue_holds s w i _ _ h, hg, Bool.or_true, if_true]
theorem uniOp_unguarded (f : UForm) (u : SrcUse) (body : EMod → State → Who → Flow) (h : s.ready w = true)
    (hg : (s.wave w).uguard (i.extU f) = false) : uniOp i f u body s = .next (s.finished w i s) := by
  refine issue_done s w i _ _ _ (s.ready_holds w h) ?_
  simp [hg, s.ready_again w h]
theorem uniOp_done (f : UForm) (u : SrcUse) (body : EMod → State → Who → Flow) (t : State) (h : s.holds w = true)
    (hg : (s.wave w).uguard (i.extU f) = true) (hb : body (i.extU f) s w = .done t) :
    uniOp i f u body s = .next (s.finished w i t) := by
  rw [uniOp_holds s w i f u body h hg, hb, conclude_done]
theorem uniImm_done (f : UImm) (a : Bool) (k : Nat → Nat → Nat) (h : s.holds w = true) :
    uniImm i f a k s = .next (s.finished w i (s.updWave w fun x =>
      x.putG 32 f.gd.toNat (k (x.greg f.ga.toNat).toNat f.imm.toNat % 2 ^ 32))) :=
  issue_done s w i _ _ _ h rfl

end Machine
end Sys2Proof
end

