-- ==== Sys2Proof/Laws/Access.lean ====
section
/-! SUPPORT. The laws of memory accesses: what a reading or a store comes to when nothing keeps a lane from its effect. -/

namespace Sys2Proof
namespace Machine

theorem without_zero (rs : List Placed) : without 0 rs = rs := by simp [without]
theorem mask_or_zero {a b : Mask} (h : a ||| b = 0) : a = 0 ∧ b = 0 := by
  constructor
  · ext i hi; have := congrArg (fun m => m.getLsbD i) h; simp [hi] at this ⊢; exact this.1
  · ext i hi; have := congrArg (fun m => m.getLsbD i) h; simp [hi] at this ⊢; exact this.2

theorem flow_clean {x : Seen} (s wr all adr) (h : x.any = 0) : (x.withMis 0).flow s wr all adr = .done s := by
  obtain ⟨h, h5⟩ := mask_or_zero h
  obtain ⟨h, h4⟩ := mask_or_zero h
  obtain ⟨h, h3⟩ := mask_or_zero h
  obtain ⟨h1, h2⟩ := mask_or_zero h
  simp [Seen.flow, Seen.withMis, h1, h3, h4, h5]

theorem finish_clean {x : Seen} (s wr all adr) (h : x.any = 0) : (x.withMis 0).finish 0 s wr all adr = .done s := by
  exact flow_clean s wr all adr h

theorem gather_all (g : Gather) (t bs) (h : g.all = some (t, bs)) : g.x.any = 0 ∧ g.rest = 0 ∧ g.s = t ∧ g.bytes = bs := by
  unfold Gather.all at h
  split at h
  · rename_i hz
    simp only [Bool.and_eq_true, beq_iff_eq] at hz
    simp only [Option.some.injEq, Prod.mk.injEq] at h
    exact ⟨hz.1, hz.2, h.1, h.2⟩
  · cases h

theorem loadGather_all (s : State) (w h as t bs) (hg : s.loadGather w h as = some (t, bs)) :
    missPages (s.sortAccs w h as) = [] ∧
      ((if h.order == 4 then s.fenceSc w h.cap else s).gatherPlaced w (fun _ => h) h.wr (s.sortAccs w h as)).all = some (t, bs) := by
  simp only [State.loadGather] at hg
  split at hg
  · rename_i hm; exact ⟨List.isEmpty_iff.1 hm, hg⟩
  · cases hg

theorem sortAccs_fst (s : State) (w h as) : (s.sortAccs w h as).map Prod.fst = as := by simp [State.sortAccs, Function.comp_def]

/-- What `orderly` says. -/
theorem State.orderly_iff (s : State) (w h lanes as) : s.orderly w h lanes as = true ↔
    s.staleFlow w h lanes = none ∧ (h.order = 4 → s.mustWait w h.cap = false) ∧ (h.order = 0 ∨ misLanes as = 0) := by
  by_cases h4 : h.order = 4 <;> simp [State.orderly, h4, and_assoc]

theorem loadFlow_done (s : State) (w h all act se as words) (ho : s.orderly w h (all.getD act) as = true) (t bs)
    (hg : s.loadGather w h as = some (t, bs)) :
    s.loadFlow w h all act se as words = .done (s.loaded w h se as t bs words) := by
  obtain ⟨hm, hg⟩ := loadGather_all _ _ _ _ _ _ hg
  obtain ⟨hx, hr, rfl, rfl⟩ := gather_all _ _ _ hg
  obtain ⟨h1, h2, h3⟩ := (s.orderly_iff w h _ as).1 ho
  have hmt : (if h.order == 0 then none else misTrap s (s.sortAccs w h as) all) = none := by
    rcases h3 with h3 | h3 <;> simp [h3, misTrap, sortAccs_fst]
  have hmis : (if h.order == 0 then 0 else misLanes as) = 0 := by rcases h3 with h3 | h3 <;> simp [h3]
  have hw : (h.order == 4 && s.mustWait w h.cap) = false := by
    by_cases h4 : h.order = 4 <;> simp [h4, h2]
  simp only [State.loadFlow, h1, hm, hw, hmt, hmis, without_zero, hr, finish_clean _ _ _ _ hx]
  simp [State.loaded, State.gives]

theorem resolve_seen (rs : List Placed) (h : resolve rs = true) : missPages rs = [] ∧ seenOf rs = {} ∧ anyPeer rs = false := by
  have key : ∀ r ∈ rs, ∃ l, r.2 = .ok l := by
    intro r hr; have := List.all_eq_true.1 h r hr
    revert this; cases r.2 <;> simp
  refine ⟨?_, ?_, ?_⟩
  · unfold missPages
    rw [List.flatMap_eq_nil_iff.2]
    · rfl
    · intro r hr; obtain ⟨l, hl⟩ := key r hr; simp [hl]
  · have h1 : ∀ p : Placed → Bool, (∀ r ∈ rs, p r = false) → lanesThat rs p = 0 := by
      intro p hp; unfold lanesThat
      clear h
      induction rs with
      | nil => rfl
      | cons a t ih => simp only [List.foldl_cons, hp a (by simp)]; exact ih (fun r hr => key r (by simp [hr])) (fun r hr => hp r (by simp [hr]))
    unfold seenOf
    rw [h1 (fun r => r.2 == .access)]
    dsimp only
    rw [h1]
    · rw [List.flatMap_eq_nil_iff.2]
      · rfl
      · intro r hr; obtain ⟨l, hl⟩ := key r hr; simp [hl]
    · intro r hr; obtain ⟨l, hl⟩ := key r hr; simp [hl]
    · intro r hr; obtain ⟨l, hl⟩ := key r hr; simp [hl]
  · simp only [anyPeer, List.any_eq_false]; intro r hr; obtain ⟨l, hl⟩ := key r hr; simp [hl]

theorem resolve_miss (rs : List Placed) (h : resolve rs = true) : missLanes rs = 0 := by
  unfold missLanes lanesThat
  have key : ∀ r ∈ rs, ∃ l, r.2 = .ok l := by
    intro r hr; have := List.all_eq_true.1 h r hr
    revert this; cases r.2 <;> simp
  clear h
  induction rs with
  | nil => rfl
  | cons a t ih =>
    obtain ⟨l, hl⟩ := key a (by simp)
    simp only [List.foldl_cons, hl]
    exact ih fun r hr => key r (by simp [hr])

theorem askFor_none (s : State) (w : Who) (rs : List Placed) (wr : Bool) (h : missPages rs = []) : s.askFor w rs wr = s := by
  simp [State.askFor, h]

theorem storeFlow_done (s : State) (w : Who) (h all act as data) (hr : s.ready w = true) (ho : s.orderly w h (all.getD act) as = true)
    (hres : resolve (s.sortAccs w h as) = true) :
    s.storeFlow w h false all act as data = .done (s.stored w h false as data) := by
  obtain ⟨hm, hseen, hp⟩ := resolve_seen _ hres
  have hml := resolve_miss _ hres
  have hag := State.ready_again s w hr
  simp only [Frag.again, Bool.or_eq_false_iff] at hag
  obtain ⟨h1, h2, h3⟩ := (s.orderly_iff w h _ as).1 ho
  have hmt : (if (h.order != 0 || false) then misTrap s (s.sortAccs w h as) all else none) = none := by
    rcases h3 with h3 | h3 <;> simp [h3, misTrap, sortAccs_fst]
  have hmis : (if (h.order != 0 || false) then misLanes as else 0) = 0 := by rcases h3 with h3 | h3 <;> simp [h3]
  have hw : ((h.order == 4 || false) && s.mustWait w h.cap) = false := by
    by_cases h4 : h.order = 4 <;> simp [h4, h2]
  have he : (s.sortAccs w h as).isEmpty = as.isEmpty := by simp [State.sortAccs]
  have hz : (({} : Seen).acc ||| ({} : Seen).flt ||| (0 : Mask) ||| (0 : Mask)) = 0 := by decide
  have hmap : ((s.sortAccs w h as).map fun r => r.1.addr) = as.map fun a => a.addr := by simp [State.sortAccs, Function.comp_def]
  have hany : (({} : Seen).any ||| (0 : Mask) == 0) = true := by decide
  have hzz : (0 : Mask) &&& ~~~ ({} : Seen).acc = 0 := by decide
  simp only [State.storeFlow, hag.1, h1, hm, hw, hmt, hmis, hseen, hml, hp, askFor_none _ _ _ _ hm, hzz, hz, without_zero, he, hmap, hany,
    Bool.false_and, List.isEmpty_nil, Bool.not_true, Bool.false_eq_true, if_false, Bool.and_false, Bool.and_true]
  simp only [State.stored, State.storeFrom]
  by_cases h4 : (h.order == 4 && !as.isEmpty) = true
  · simp only [h4, if_true]
  · simp only [h4]
    rfl

end Machine
end Sys2Proof
end

