-- ==== Sys2Proof/Laws/Exec.lean ====
section
/-! SUPPORT. Each constructor's meaning, by name. -/

namespace Sys2Proof
namespace Machine

variable (s : State)

theorem exec_iadd (f) : exec (.iadd f) s = execIadd f s := rfl
theorem exec_iaddI (f) : exec (.iaddI f) s = execIaddI f s := rfl
theorem exec_iaddc (f) : exec (.iaddc f) s = execIaddc f s := rfl
theorem exec_isub (f) : exec (.isub f) s = execIsub f s := rfl
theorem exec_imul (f) : exec (.imul f) s = execImul f s := rfl
theorem exec_imulh (f) : exec (.imulh f) s = execImulh f s := rfl
theorem exec_imad (f) : exec (.imad f) s = execImad f s := rfl
theorem exec_imin (f) : exec (.imin f) s = execImin f s := rfl
theorem exec_imax (f) : exec (.imax f) s = execImax f s := rfl
theorem exec_iabs (f) : exec (.iabs f) s = execIabs f s := rfl
theorem exec_and (f) : exec (.and f) s = execAnd f s := rfl
theorem exec_or (f) : exec (.or f) s = execOr f s := rfl
theorem exec_xor (f) : exec (.xor f) s = execXor f s := rfl
theorem exec_lop3 (f) : exec (.lop3 f) s = execLop3 f s := rfl
theorem exec_shl (f) : exec (.shl f) s = execShl f s := rfl
theorem exec_shr (f) : exec (.shr f) s = execShr f s := rfl
theorem exec_sar (f) : exec (.sar f) s = execSar f s := rfl
theorem exec_rot (f) : exec (.rot f) s = execRot f s := rfl
theorem exec_bfx (f) : exec (.bfx f) s = execBfx f s := rfl
theorem exec_bfi (f) : exec (.bfi f) s = execBfi f s := rfl
theorem exec_popc (f) : exec (.popc f) s = execPopc f s := rfl
theorem exec_clz (f) : exec (.clz f) s = execClz f s := rfl
theorem exec_brev (f) : exec (.brev f) s = execBrev f s := rfl
theorem exec_prmt (f) : exec (.prmt f) s = execPrmt f s := rfl
theorem exec_icmp (f) : exec (.icmp f) s = execIcmp f s := rfl
theorem exec_sel (f) : exec (.sel f) s = execSel f s := rfl
theorem exec_mov (f) : exec (.mov f) s = execMov f s := rfl
theorem exec_movSpecial (f) : exec (.movSpecial f) s = execMovSpecial f s := rfl
theorem exec_movi (f) : exec (.movi f) s = execMovi f s := rfl
theorem exec_imulI (f) : exec (.imulI f) s = execImulI f s := rfl
theorem exec_andI (f) : exec (.andI f) s = execAndI f s := rfl
theorem exec_orI (f) : exec (.orI f) s = execOrI f s := rfl
theorem exec_xorI (f) : exec (.xorI f) s = execXorI f s := rfl
theorem exec_icmpI (f) : exec (.icmpI f) s = execIcmpI f s := rfl
theorem exec_iminI (f) : exec (.iminI f) s = execIminI f s := rfl
theorem exec_imaxI (f) : exec (.imaxI f) s = execImaxI f s := rfl
theorem exec_fadd (f) : exec (.fadd f) s = execFadd f s := rfl
theorem exec_faddF (f) : exec (.faddF f) s = execFaddF f s := rfl
theorem exec_fmul (f) : exec (.fmul f) s = execFmul f s := rfl
theorem exec_fmulF (f) : exec (.fmulF f) s = execFmulF f s := rfl
theorem exec_ffma (f) : exec (.ffma f) s = execFfma f s := rfl
theorem exec_ffmaF (f) : exec (.ffmaF f) s = execFfmaF f s := rfl
theorem exec_fmin (f) : exec (.fmin f) s = execFmin f s := rfl
theorem exec_fmax (f) : exec (.fmax f) s = execFmax f s := rfl
theorem exec_fcmp (f) : exec (.fcmp f) s = execFcmp f s := rfl
theorem exec_fcmpF (f) : exec (.fcmpF f) s = execFcmpF f s := rfl
theorem exec_frnd (f) : exec (.frnd f) s = execFrnd f s := rfl
theorem exec_frcp (f) : exec (.frcp f) s = execFrcp f s := rfl
theorem exec_frsq (f) : exec (.frsq f) s = execFrsq f s := rfl
theorem exec_fsqrt (f) : exec (.fsqrt f) s = execFsqrt f s := rfl
theorem exec_fexp2 (f) : exec (.fexp2 f) s = execFexp2 f s := rfl
theorem exec_flog2 (f) : exec (.flog2 f) s = execFlog2 f s := rfl
theorem exec_fsin (f) : exec (.fsin f) s = execFsin f s := rfl
theorem exec_fcos (f) : exec (.fcos f) s = execFcos f s := rfl
theorem exec_ftanh (f) : exec (.ftanh f) s = execFtanh f s := rfl
theorem exec_dadd (f) : exec (.dadd f) s = execDadd f s := rfl
theorem exec_dmul (f) : exec (.dmul f) s = execDmul f s := rfl
theorem exec_dfma (f) : exec (.dfma f) s = execDfma f s := rfl
theorem exec_daddF (f) : exec (.daddF f) s = execDaddF f s := rfl
theorem exec_hfma2 (f) : exec (.hfma2 f) s = execHfma2 f s := rfl
theorem exec_hfma2F (f) : exec (.hfma2F f) s = execHfma2F f s := rfl
theorem exec_vdot4 (f) : exec (.vdot4 f) s = execVdot4 f s := rfl
theorem exec_vdot8 (f) : exec (.vdot8 f) s = execVdot8 f s := rfl
theorem exec_mxdot (f) : exec (.mxdot f) s = execMxdot f s := rfl
theorem exec_cvt (f) : exec (.cvt f) s = execCvt f s := rfl
theorem exec_cvtsr (f) : exec (.cvtsr f) s = execCvtsr f s := rfl
theorem exec_pack (f) : exec (.pack f) s = execPack f s := rfl
theorem exec_unpk (f) : exec (.unpk f) s = execUnpk f s := rfl
theorem exec_qnt (f) : exec (.qnt f) s = execQnt f s := rfl
theorem exec_shfl (f) : exec (.shfl f) s = execShfl f s := rfl
theorem exec_vote (f) : exec (.vote f) s = execVote f s := rfl
theorem exec_ballot (f) : exec (.ballot f) s = execBallot f s := rfl
theorem exec_redux (f) : exec (.redux f) s = execRedux f s := rfl
theorem exec_scan (f) : exec (.scan f) s = execScan f s := rfl
theorem exec_qswz (f) : exec (.qswz f) s = execQswz f s := rfl
theorem exec_deriv (f) : exec (.deriv f) s = execDeriv f s := rfl
theorem exec_ld (f) : exec (.ld f) s = execLd f s := rfl
theorem exec_st (f) : exec (.st f) s = execSt f s := rfl
theorem exec_lds (f) : exec (.lds f) s = execLds f s := rfl
theorem exec_sts (f) : exec (.sts f) s = execSts f s := rfl
theorem exec_ldf (f) : exec (.ldf f) s = execLdf f s := rfl
theorem exec_stf (f) : exec (.stf f) s = execStf f s := rfl
theorem exec_sfill (f) : exec (.sfill f) s = execSfill f s := rfl
theorem exec_atom (f) : exec (.atom f) s = execAtom f s := rfl
theorem exec_atcas (f) : exec (.atcas f) s = execAtcas f s := rfl
theorem exec_red (f) : exec (.red f) s = execRed f s := rfl
theorem exec_waitc (f) : exec (.waitc f) s = execWaitc f s := rfl
theorem exec_pref (f) : exec (.pref f) s = execPref f s := rfl
theorem exec_tex (f) : exec (.tex f) s = execTex f s := rfl
theorem exec_tld (f) : exec (.tld f) s = execTld f s := rfl
theorem exec_imgst (f) : exec (.imgst f) s = execImgst f s := rfl
theorem exec_sopen (f) : exec (.sopen f) s = execSopen f s := rfl
theorem exec_isopen (f) : exec (.isopen f) s = execIsopen f s := rfl
theorem exec_sclose (f) : exec (.sclose f) s = execSclose f s := rfl
theorem exec_sadv (f) : exec (.sadv f) s = execSadv f s := rfl
theorem exec_stend (f) : exec (.stend f) s = execStend f s := rfl
theorem exec_srd (f) : exec (.srd f) s = execSrd f s := rfl
theorem exec_swr (f) : exec (.swr f) s = execSwr f s := rfl
theorem exec_tfeed (f) : exec (.tfeed f) s = execTfeed f s := rfl
theorem exec_tdrain (f) : exec (.tdrain f) s = execTdrain f s := rfl
theorem exec_gadd (f) : exec (.gadd f) s = execGadd f s := rfl
theorem exec_gaddI (f) : exec (.gaddI f) s = execGaddI f s := rfl
theorem exec_gsub (f) : exec (.gsub f) s = execGsub f s := rfl
theorem exec_gsubI (f) : exec (.gsubI f) s = execGsubI f s := rfl
theorem exec_gmul (f) : exec (.gmul f) s = execGmul f s := rfl
theorem exec_gmulI (f) : exec (.gmulI f) s = execGmulI f s := rfl
theorem exec_gand (f) : exec (.gand f) s = execGand f s := rfl
theorem exec_gandI (f) : exec (.gandI f) s = execGandI f s := rfl
theorem exec_gor (f) : exec (.gor f) s = execGor f s := rfl
theorem exec_gorI (f) : exec (.gorI f) s = execGorI f s := rfl
theorem exec_gxor (f) : exec (.gxor f) s = execGxor f s := rfl
theorem exec_gxorI (f) : exec (.gxorI f) s = execGxorI f s := rfl
theorem exec_gshl (f) : exec (.gshl f) s = execGshl f s := rfl
theorem exec_gshlI (f) : exec (.gshlI f) s = execGshlI f s := rfl
theorem exec_gshr (f) : exec (.gshr f) s = execGshr f s := rfl
theorem exec_gshrI (f) : exec (.gshrI f) s = execGshrI f s := rfl
theorem exec_gcmp (f) : exec (.gcmp f) s = execGcmp f s := rfl
theorem exec_gcmpI (f) : exec (.gcmpI f) s = execGcmpI f s := rfl
theorem exec_gsel (f) : exec (.gsel f) s = execGsel f s := rfl
theorem exec_gmov (f) : exec (.gmov f) s = execGmov f s := rfl
theorem exec_gmovi (f) : exec (.gmovi f) s = execGmovi f s := rfl
theorem exec_gld (f) : exec (.gld f) s = execGld f s := rfl
theorem exec_gldI (f) : exec (.gldI f) s = execGldI f s := rfl
theorem exec_gst (f) : exec (.gst f) s = execGst f s := rfl
theorem exec_gstI (f) : exec (.gstI f) s = execGstI f s := rfl
theorem exec_bra (f) : exec (.bra f) s = execBra f s := rfl
theorem exec_brc (f) : exec (.brc f) s = execBrc f s := rfl
theorem exec_bru (f) : exec (.bru f) s = execBru f s := rfl
theorem exec_call (f) : exec (.call f) s = execCall f s := rfl
theorem exec_ret (f) : exec (.ret f) s = execRet f s := rfl
theorem exec_jmpi (f) : exec (.jmpi f) s = execJmpi f s := rfl
theorem exec_exit (f) : exec (.exit f) s = execExit f s := rfl
theorem exec_nop (f) : exec (.nop f) s = execNop f s := rfl
theorem exec_rcv (f) : exec (.rcv f) s = execRcv f s := rfl
theorem exec_yld (f) : exec (.yld f) s = execYld f s := rfl
theorem exec_idr (f) : exec (.idr f) s = execIdr f s := rfl
theorem exec_trap (f) : exec (.trap f) s = execTrap f s := rfl
theorem exec_brk (f) : exec (.brk f) s = execBrk f s := rfl
theorem exec_bar (f) : exec (.bar f) s = execBar f s := rfl
theorem exec_cbar (f) : exec (.cbar f) s = execCbar f s := rfl
theorem exec_fence (f) : exec (.fence f) s = execFence f s := rfl
theorem exec_bind (f) : exec (.bind f) s = execBind f s := rfl
theorem exec_unbind (f) : exec (.unbind f) s = execUnbind f s := rfl
theorem exec_scopeset (f) : exec (.scopeset f) s = execScopeset f s := rfl
theorem exec_scopesync (f) : exec (.scopesync f) s = execScopesync f s := rfl
theorem exec_expect (f) : exec (.expect f) s = execExpect f s := rfl
theorem exec_mfs (f) : exec (.mfs f) s = execMfs f s := rfl
theorem exec_mts (f) : exec (.mts f) s = execMts f s := rfl
theorem exec_role (f) : exec (.role f) s = execRole f s := rfl
theorem exec_enq (f) : exec (.enq f) s = execEnq f s := rfl
theorem exec_enqg (f) : exec (.enqg f) s = execEnqg f s := rfl
theorem exec_segattLd (f) : exec (.segattLd f) s = execSegattLd f s := rfl
theorem exec_segattNf (f) : exec (.segattNf f) s = execSegattNf f s := rfl
theorem exec_segdet (f) : exec (.segdet f) s = execSegdet f s := rfl
theorem exec_segpin (f) : exec (.segpin f) s = execSegpin f s := rfl
theorem exec_cpygo (f) : exec (.cpygo f) s = execCpygo f s := rfl
theorem exec_cpywt (f) : exec (.cpywt f) s = execCpywt f s := rfl
theorem exec_taskpost (f) : exec (.taskpost f) s = execTaskpost f s := rfl
theorem exec_taskwt (f) : exec (.taskwt f) s = execTaskwt f s := rfl
theorem exec_mma (f) : exec (.mma f) s = execMma f s := rfl
theorem exec_mmas (f) : exec (.mmas f) s = execMmas f s := rfl
theorem exec_mlut (f) : exec (.mlut f) s = execMlut f s := rfl
theorem exec_mzero (f) : exec (.mzero f) s = execMzero f s := rfl
theorem exec_mld (f) : exec (.mld f) s = execMld f s := rfl
theorem exec_mst (f) : exec (.mst f) s = execMst f s := rfl
theorem exec_mcvt (f) : exec (.mcvt f) s = execMcvt f s := rfl
theorem exec_mwait (f) : exec (.mwait f) s = execMwait f s := rfl
theorem exec_rayq (f) : exec (.rayq f) s = execRayq f s := rfl
theorem exec_raywt (f) : exec (.raywt f) s = execRaywt f s := rfl
theorem exec_emit (f) : exec (.emit f) s = execEmit f s := rfl
theorem exec_payw (f) : exec (.payw f) s = execPayw f s := rfl
theorem exec_payr (f) : exec (.payr f) s = execPayr f s := rfl
theorem exec_atlreq (f) : exec (.atlreq f) s = execAtlreq f s := rfl
theorem exec_unassignedEncoding (w e) : exec (.unassignedEncoding w e) s = execUnassignedEncoding w e s := rfl
theorem exec_coldStart : exec .coldStart s = execColdStart s := rfl
theorem exec_warmStart : exec .warmStart s = execWarmStart s := rfl
theorem exec_powerRemoval : exec .powerRemoval s = execPowerRemoval s := rfl
theorem exec_pwrCapWrite : exec .pwrCapWrite s = execPwrCapWrite s := rfl
theorem exec_tokenRefill : exec .tokenRefill s = execTokenRefill s := rfl
theorem exec_clockStep : exec .clockStep s = execClockStep s := rfl
theorem exec_getVersion : exec .getVersion s = execGetVersion s := rfl
theorem exec_getCapabilities : exec .getCapabilities s = execGetCapabilities s := rfl
theorem exec_negotiateAlgorithms : exec .negotiateAlgorithms s = execNegotiateAlgorithms s := rfl
theorem exec_getDigests : exec .getDigests s = execGetDigests s := rfl
theorem exec_getCertificate : exec .getCertificate s = execGetCertificate s := rfl
theorem exec_challenge : exec .challenge s = execChallenge s := rfl
theorem exec_getMeasurements : exec .getMeasurements s = execGetMeasurements s := rfl
theorem exec_unsupportedSpdmRequest : exec .unsupportedSpdmRequest s = execUnsupportedSpdmRequest s := rfl
theorem exec_eccError : exec .eccError s = execEccError s := rfl
theorem exec_rowTestResult : exec .rowTestResult s = execRowTestResult s := rfl
theorem exec_retirementSave : exec .retirementSave s = execRetirementSave s := rfl
theorem exec_configRequest : exec .configRequest s = execConfigRequest s := rfl
theorem exec_registerWrite : exec .registerWrite s = execRegisterWrite s := rfl
theorem exec_resetCtlWarm : exec .resetCtlWarm s = execResetCtlWarm s := rfl
theorem exec_devNumWrite : exec .devNumWrite s = execDevNumWrite s := rfl
theorem exec_fabPortStatRead : exec .fabPortStatRead s = execFabPortStatRead s := rfl
theorem exec_entryLowWordWrite : exec .entryLowWordWrite s = execEntryLowWordWrite s := rfl
theorem exec_fabRouteWrite : exec .fabRouteWrite s = execFabRouteWrite s := rfl
theorem exec_fabWinWrite : exec .fabWinWrite s = execFabWinWrite s := rfl
theorem exec_flitReceive : exec .flitReceive s = execFlitReceive s := rfl
theorem exec_portDown : exec .portDown s = execPortDown s := rfl
theorem exec_retrainTimeout : exec .retrainTimeout s = execRetrainTimeout s := rfl
theorem exec_ackTimeout : exec .ackTimeout s = execAckTimeout s := rfl
theorem exec_streamBreak : exec .streamBreak s = execStreamBreak s := rfl
theorem exec_fabricOperationArrival : exec .fabricOperationArrival s = execFabricOperationArrival s := rfl
theorem exec_fabricAck : exec .fabricAck s = execFabricAck s := rfl
theorem exec_closeReceive : exec .closeReceive s = execCloseReceive s := rfl
theorem exec_closeAnswerReceive : exec .closeAnswerReceive s = execCloseAnswerReceive s := rfl
theorem exec_retryResponse : exec .retryResponse s = execRetryResponse s := rfl
theorem exec_retryResend : exec .retryResend s = execRetryResend s := rfl
theorem exec_fabricReleaseSend : exec .fabricReleaseSend s = execFabricReleaseSend s := rfl
theorem exec_cxlPortDown : exec .cxlPortDown s = execCxlPortDown s := rfl
theorem exec_cxlPoison : exec .cxlPoison s = execCxlPoison s := rfl
theorem exec_atsRequest : exec .atsRequest s = execAtsRequest s := rfl
theorem exec_translationCompletion : exec .translationCompletion s = execTranslationCompletion s := rfl
theorem exec_pageRequestEnqueue : exec .pageRequestEnqueue s = execPageRequestEnqueue s := rfl
theorem exec_pageRequestSend : exec .pageRequestSend s = execPageRequestSend s := rfl
theorem exec_pageResponse : exec .pageResponse s = execPageResponse s := rfl
theorem exec_atsInvalidation : exec .atsInvalidation s = execAtsInvalidation s := rfl
theorem exec_invalidationAck : exec .invalidationAck s = execInvalidationAck s := rfl
theorem exec_invalidationTimeout : exec .invalidationTimeout s = execInvalidationTimeout s := rfl
theorem exec_contextEnable : exec .contextEnable s = execContextEnable s := rfl
theorem exec_ctxTeardownWrite : exec .ctxTeardownWrite s = execCtxTeardownWrite s := rfl
theorem exec_subTailWrite : exec .subTailWrite s = execSubTailWrite s := rfl
theorem exec_ctxPreemptReq : exec .ctxPreemptReq s = execCtxPreemptReq s := rfl
theorem exec_packetArrival : exec .packetArrival s = execPacketArrival s := rfl
theorem exec_dringWake : exec .dringWake s = execDringWake s := rfl
theorem exec_launch : exec .launch s = execLaunch s := rfl
theorem exec_barrier : exec .barrier s = execBarrier s := rfl
theorem exec_signal : exec .signal s = execSignal s := rfl
theorem exec_signalStoreDone : exec .signalStoreDone s = execSignalStoreDone s := rfl
theorem exec_segmentCreate : exec .segmentCreate s = execSegmentCreate s := rfl
theorem exec_segmentDestroy : exec .segmentDestroy s = execSegmentDestroy s := rfl
theorem exec_segmentPin : exec .segmentPin s = execSegmentPin s := rfl
theorem exec_segmentUnpin : exec .segmentUnpin s = execSegmentUnpin s := rfl
theorem exec_segmentInvalidOp : exec .segmentInvalidOp s = execSegmentInvalidOp s := rfl
theorem exec_scope : exec .scope s = execScope s := rfl
theorem exec_teardown : exec .teardown s = execTeardown s := rfl
theorem exec_teardownQuiescent : exec .teardownQuiescent s = execTeardownQuiescent s := rfl
theorem exec_quantumExpiry : exec .quantumExpiry s = execQuantumExpiry s := rfl
theorem exec_preemptArrival : exec .preemptArrival s = execPreemptArrival s := rfl
theorem exec_ticketClaim : exec .ticketClaim s = execTicketClaim s := rfl
theorem exec_pendingRetry : exec .pendingRetry s = execPendingRetry s := rfl
theorem exec_seedReoffer : exec .seedReoffer s = execSeedReoffer s := rfl
theorem exec_affinityTimeout : exec .affinityTimeout s = execAffinityTimeout s := rfl
theorem exec_waveEntryGrant : exec .waveEntryGrant s = execWaveEntryGrant s := rfl
theorem exec_resultReturn : exec .resultReturn s = execResultReturn s := rfl
theorem exec_missSplit : exec .missSplit s = execMissSplit s := rfl
theorem exec_faultSplit : exec .faultSplit s = execFaultSplit s := rfl
theorem exec_fuseTimeout : exec .fuseTimeout s = execFuseTimeout s := rfl
theorem exec_reconvergenceRelease : exec .reconvergenceRelease s = execReconvergenceRelease s := rfl
theorem exec_fuseto : exec .fuseto s = execFuseto s := rfl
theorem exec_splitwaitRetry : exec .splitwaitRetry s = execSplitwaitRetry s := rfl
theorem exec_poolEvict : exec .poolEvict s = execPoolEvict s := rfl
theorem exec_teamSave : exec .teamSave s = execTeamSave s := rfl
theorem exec_teamSaveDone : exec .teamSaveDone s = execTeamSaveDone s := rfl
theorem exec_idrPreempt : exec .idrPreempt s = execIdrPreempt s := rfl
theorem exec_coremodeChange : exec .coremodeChange s = execCoremodeChange s := rfl
theorem exec_haltWave : exec .haltWave s = execHaltWave s := rfl
theorem exec_resumeWave : exec .resumeWave s = execResumeWave s := rfl
theorem exec_haltContext : exec .haltContext s = execHaltContext s := rfl
theorem exec_resumeContext : exec .resumeContext s = execResumeContext s := rfl
theorem exec_dbgRead : exec .dbgRead s = execDbgRead s := rfl
theorem exec_dbgWrite : exec .dbgWrite s = execDbgWrite s := rfl
theorem exec_segdetDrainDone : exec .segdetDrainDone s = execSegdetDrainDone s := rfl
theorem exec_segmentEvictDone : exec .segmentEvictDone s = execSegmentEvictDone s := rfl
theorem exec_segmentReloadDone : exec .segmentReloadDone s = execSegmentReloadDone s := rfl
theorem exec_scopeUpdateAck : exec .scopeUpdateAck s = execScopeUpdateAck s := rfl
theorem exec_scopeUpdateTimeout : exec .scopeUpdateTimeout s = execScopeUpdateTimeout s := rfl
theorem exec_bindingPropagated : exec .bindingPropagated s = execBindingPropagated s := rfl
theorem exec_releaseDrainDone : exec .releaseDrainDone s = execReleaseDrainDone s := rfl
theorem exec_postAccept : exec .postAccept s = execPostAccept s := rfl
theorem exec_copyJobStart : exec .copyJobStart s = execCopyJobStart s := rfl
theorem exec_copyRecordDone : exec .copyRecordDone s = execCopyRecordDone s := rfl
theorem exec_slowPathJobEnd : exec .slowPathJobEnd s = execSlowPathJobEnd s := rfl
theorem exec_taskArm : exec .taskArm s = execTaskArm s := rfl
theorem exec_taskRelease : exec .taskRelease s = execTaskRelease s := rfl
theorem exec_matrixGrant : exec .matrixGrant s = execMatrixGrant s := rfl
theorem exec_matrixComplete : exec .matrixComplete s = execMatrixComplete s := rfl
theorem exec_queryStart : exec .queryStart s = execQueryStart s := rfl
theorem exec_queryRecord : exec .queryRecord s = execQueryRecord s := rfl
theorem exec_triangleSend : exec .triangleSend s = execTriangleSend s := rfl
theorem exec_triangleArrival : exec .triangleArrival s = execTriangleArrival s := rfl
theorem exec_swWaveTimeout : exec .swWaveTimeout s = execSwWaveTimeout s := rfl
theorem exec_meshStarvation : exec .meshStarvation s = execMeshStarvation s := rfl
theorem exec_monitorWake : exec .monitorWake s = execMonitorWake s := rfl
theorem exec_waitcPoll : exec .waitcPoll s = execWaitcPoll s := rfl
theorem exec_waitcSwapOut : exec .waitcSwapOut s = execWaitcSwapOut s := rfl
theorem exec_portUp : exec .portUp s = execPortUp s := rfl
theorem exec_cacheLineEviction : exec .cacheLineEviction s = execCacheLineEviction s := rfl
theorem exec_nonReturningOperationPerformed : exec .nonReturningOperationPerformed s = execNonReturningOperationPerformed s := rfl
theorem exec_gddr7UncorrectedError : exec .gddr7UncorrectedError s = execGddr7UncorrectedError s := rfl

end Machine
end Sys2Proof
end

