-- ==== Sys2Proof/Laws/Cross.lean ====
section
/-! SUPPORT. What the shared form of the cross-lane instructions comes to when every participating fragment is there. -/

namespace Sys2Proof
namespace Machine

/-- A cross-lane instruction of a whole wave, or over packs that one fragment covers, gives its results at once. -/
theorem cross_done {s : State} {w : Who} (i : Instr) (f : LForm) (u : SrcUse)
    (g : EMod → FEnv → Wave → Mask → Nat → Nat → LaneOut) (hh : s.holds w = true) (hu : s.untrapped w = true)
    (hw : s.whole w ((i.extL f).byte.toNat % 8) = true) :
    crossOp i f u g s =
      (let e := i.extL f
       let n := s.fenv w e.rnd e.sat
       .next (s.finished w i ((if n.mode == 5 then s.takeStep w else s).writeLanes w
         (s.outsOf w e (g e n (s.wave w) (s.active w e.gsense e.guard) (widthOf (e.byte.toNat % 8) (s.wave w).lanes)))))) := by
  refine issue_done s w i _ _ _ hh ?_
  rw [forced_whole _ _ _ _ _ hw]
  simp only [State.outsOf]
  exact finish_untrapped s w _ _ hu

end Machine
end Sys2Proof
end

