-- ==== Sys2Proof/Laws/Integers.lean ====
section
/-! SUPPORT. The laws of the integer lane instructions. -/

namespace Sys2Proof
namespace Machine

/-- An integer format's range is not empty. -/
theorem intRange_le (n : Nat) (sg : Bool) : (intRange n sg).1 ≤ (intRange n sg).2 := by
  have h1 : (0 : Int) < 2 ^ (n - 1) := Int.pow_pos (by decide)
  have h2 : (0 : Int) < 2 ^ n := Int.pow_pos (by decide)
  cases sg <;> simp only [intRange, if_true] <;> simp <;> omega

/-- A clamp is a maximum of a minimum. -/
theorem clampI_eq (lo hi x : Int) (h : lo ≤ hi) : clampI lo hi x = max lo (min hi x) := by
  unfold clampI
  split
  · omega
  · split <;> omega

/-- A clamp changes exactly what lies outside the range. -/
theorem clampI_ne (lo hi x : Int) (h : lo ≤ hi) : (clampI lo hi x == x) = true ↔ ¬ (x < lo ∨ hi < x) := by
  simp only [beq_iff_eq]
  unfold clampI
  split
  · omega
  · split <;> omega

/-- An integer result as R379 states it. -/
theorem intOut_eq (sg : Bool) (n : Nat) (sat : Bool) (vd : Nat) (r : Int) :
    intOut sg n sat vd r =
      if sat then
        { v := regWords n vd (wrapN n (max (intRange n sg).1 (min (intRange n sg).2 r))),
          fl := if r < (intRange n sg).1 ∨ (intRange n sg).2 < r then Fl.sat else 0 }
      else { v := regWords n vd (wrapN n r) } := by
  have h := intRange_le n sg
  unfold intOut
  cases sat
  · rfl
  · have h2 := clampI_ne _ _ r h
    simp only [if_true, clampI_eq _ _ r h] at h2 ⊢
    by_cases hc : r < (intRange n sg).1 ∨ (intRange n sg).2 < r
    · have : (max (intRange n sg).1 (min (intRange n sg).2 r) == r) = false := by
        cases hb : (max (intRange n sg).1 (min (intRange n sg).2 r) == r)
        · rfl
        · exact absurd hc (h2.1 hb)
      simp [this, hc]
    · simp [h2.2 hc, hc]

theorem intOut_quiet (sg : Bool) (n : Nat) (sat : Bool) (vd : Nat) (r : Int) : (intOut sg n sat vd r).quiet := by
  unfold intOut LaneOut.quiet
  cases sat
  · simp
  · by_cases h : (clampI (intRange n sg).1 (intRange n sg).2 r == r) = true <;> simp [h]

theorem intFn_quiet (h : Nat → Int → Int → Int → Int) (f : LForm) (e : EMod) (wv : Wave) (l : Nat) : (intFn h f e wv l).quiet :=
  intOut_quiet _ _ _ _ _
theorem bitFn_quiet (h : EMod → Nat → Nat → Nat → Nat → Nat) (f : LForm) (e : EMod) (wv : Wave) (l : Nat) :
    (bitFn h f e wv l).quiet := by simp [bitFn, LaneOut.quiet]
theorem countFn_quiet (h : Nat → Nat → Nat) (f : LForm) (e : EMod) (wv : Wave) (l : Nat) : (countFn h f e wv l).quiet := by
  simp [countFn, LaneOut.quiet]
theorem immFn_quiet (sg : Bool) (h : Int → Int → Int) (f : LImm) (wv : Wave) (l : Nat) : (immFn sg h f wv l).quiet :=
  intOut_quiet _ _ _ _ _
theorem immBits_quiet (h : Word → Word → Word) (f : LImm) (wv : Wave) (l : Nat) : (immBits h f wv l).quiet := by
  simp [immBits, LaneOut.quiet]

end Machine
end Sys2Proof
end

