-- ==== Sys2Proof/Laws/Memory.lean ====
section
/-! SUPPORT. The laws of memory: a read after a write, and that every memory operation keeps the canonical form. -/

namespace Sys2Proof
namespace Machine

/-! ## Reads after writes -/

theorem cellGet_cellSet (m : List Host.Cell) (a b : Nat) (v : Byte) :
    cellGet (cellSet m a v) b = if b = a then v else cellGet m b := by
  induction m with
  | nil => by_cases h : b = a <;> simp [cellSet, cellGet, h]; omega
  | cons x t ih =>
    obtain ⟨k, w⟩ := x
    by_cases h : b = a
    · subst h
      simp only [cellSet]
      split
      · simp [cellGet]
      · split <;> simp_all [cellGet]
    · simp only [cellSet]
      split
      · subst_vars; simp [cellGet, h, Ne.symm h]
      · split <;> simp_all [cellGet, Ne.symm h]

theorem cellGet_cellErase (m : List Host.Cell) (a b : Nat) :
    cellGet (cellErase m a) b = if b = a then Mem.dflt else cellGet m b := by
  induction m with
  | nil => simp [cellErase, cellGet]
  | cons x t ih =>
    obtain ⟨k, w⟩ := x
    by_cases h : b = a
    · subst h; simp only [cellErase]; split <;> simp_all [cellGet]
    · simp only [cellErase]
      split
      · subst_vars; simp [cellGet, h, Ne.symm h, ih]
      · simp [cellGet, ih, h]

/-- Reading after writing: the byte written at its location, every other byte as before. -/
theorem cellGet_cellPut (m : List Host.Cell) (a b : Nat) (v : Byte) :
    cellGet (cellPut m a v) b = if b = a then v else cellGet m b := by
  unfold cellPut
  split
  · rw [cellGet_cellErase]; split <;> simp_all
  · exact cellGet_cellSet m a b v

theorem Mem.get_put (m : Mem) (a b : Nat) (v : Byte) : (m.put a v).get b = if b = a then v else m.get b :=
  cellGet_cellPut m.cells a b v
@[simp] theorem Mem.get_put_self (m : Mem) (a : Nat) (v : Byte) : (m.put a v).get a = v := by simp [Mem.get_put]
theorem Mem.get_put_ne (m : Mem) (a b : Nat) (v : Byte) (h : b ≠ a) : (m.put a v).get b = m.get b := by simp [Mem.get_put, h]

/-- Memory that is cleared reads as the default, and the rest as before. -/
theorem cellGet_filter (m : List Host.Cell) (p : Nat → Bool) (b : Nat) :
    cellGet (m.filter fun (a, _) => p a) b = if p b then cellGet m b else Mem.dflt := by
  induction m with
  | nil => simp [cellGet]
  | cons x t ih =>
    obtain ⟨k, w⟩ := x
    by_cases hk : p k = true
    · simp only [List.filter_cons, hk, if_true, cellGet]
      by_cases h : k = b
      · subst h; simp [hk]
      · simp [h, ih]
    · simp only [List.filter_cons, hk, cellGet]
      by_cases h : k = b
      · subst h; simp [hk, ih]
      · simp [h, ih]

theorem Mem.get_clear (m : Mem) (lo hi b : Nat) :
    (m.clear lo hi).get b = if b < lo ∨ hi ≤ b then m.get b else Mem.dflt := by
  have h := cellGet_filter m.cells (fun a => a < lo || hi ≤ a) b
  simpa [Mem.clear, Mem.get] using h

/-! ## The canonical form -/

theorem cellsWfFrom_weaken (m : List Host.Cell) (lo : Option Nat) (h : cellsWfFrom lo m = true) : cellsWfFrom none m = true := by
  cases m with
  | nil => rfl
  | cons x t => obtain ⟨b, v⟩ := x; cases lo <;> simp_all [cellsWfFrom]

/-- A list in canonical form above `lo` is so above anything lower. -/
theorem cellsWfFrom_mono (m : List Host.Cell) (l k : Nat) (hk : k ≤ l) (h : cellsWfFrom (some l) m = true) :
    cellsWfFrom (some k) m = true := by
  cases m with
  | nil => rfl
  | cons x t => obtain ⟨b, v⟩ := x; simp_all [cellsWfFrom]; omega

theorem cellSet_wf (m : List Host.Cell) (lo : Option Nat) (a : Nat) (v : Byte) (hv : v ≠ Mem.dflt)
    (hlo : ∀ l, lo = some l → l < a) (h : cellsWfFrom lo m = true) : cellsWfFrom lo (cellSet m a v) = true := by
  induction m generalizing lo with
  | nil => cases lo <;> simp_all [cellSet, cellsWfFrom]
  | cons x t ih =>
    obtain ⟨b, w⟩ := x
    simp only [cellsWfFrom, Bool.and_eq_true] at h
    simp only [cellSet]
    split
    · subst_vars; simp_all [cellsWfFrom]
    · split
      · cases lo <;> simp_all [cellsWfFrom]
      · simp only [cellsWfFrom, Bool.and_eq_true]
        exact ⟨h.1, ih (some b) (fun l hl => by cases hl; omega) h.2⟩

theorem cellErase_wf (m : List Host.Cell) (lo : Option Nat) (a : Nat) (h : cellsWfFrom lo m = true) :
    cellsWfFrom lo (cellErase m a) = true := by
  induction m generalizing lo with
  | nil => rfl
  | cons x t ih =>
    obtain ⟨b, w⟩ := x
    simp only [cellsWfFrom, Bool.and_eq_true] at h
    simp only [cellErase]
    split
    · cases lo with
      | none => exact cellsWfFrom_weaken _ _ (ih (some b) h.2)
      | some l =>
        have hl : l < b := by simpa using h.1.1
        exact ih (some l) (cellsWfFrom_mono _ _ _ (by omega) h.2)
    · simp only [cellsWfFrom, Bool.and_eq_true]; exact ⟨h.1, ih (some b) h.2⟩

theorem cellPut_wf (m : List Host.Cell) (a : Nat) (v : Byte) (h : cellsWfFrom none m = true) :
    cellsWfFrom none (cellPut m a v) = true := by
  unfold cellPut
  split
  · exact cellErase_wf _ _ _ h
  · exact cellSet_wf _ _ _ _ ‹_› (by simp) h

theorem cellFilter_wf (m : List Host.Cell) (lo : Option Nat) (p : Host.Cell → Bool) (h : cellsWfFrom lo m = true) :
    cellsWfFrom lo (m.filter p) = true := by
  induction m generalizing lo with
  | nil => rfl
  | cons x t ih =>
    obtain ⟨b, w⟩ := x
    simp only [cellsWfFrom, Bool.and_eq_true] at h
    by_cases hp : p (b, w) = true
    · simp only [List.filter_cons, hp, if_true, cellsWfFrom, Bool.and_eq_true]; exact ⟨h.1, ih (some b) h.2⟩
    · simp only [List.filter_cons, hp]
      cases lo with
      | none => exact cellsWfFrom_weaken _ _ (ih (some b) h.2)
      | some l =>
        have hl : l < b := by simpa using h.1.1
        exact ih (some l) (cellsWfFrom_mono _ _ _ (by omega) h.2)

/-- Storing a byte keeps the canonical form. -/
theorem Mem.put_wf (m : Mem) (a : Nat) (v : Byte) (h : m.wf = true) : (m.put a v).wf = true := cellPut_wf _ _ _ h
/-- Clearing a range keeps it. -/
theorem Mem.clear_wf (m : Mem) (lo hi : Nat) (h : m.wf = true) : (m.clear lo hi).wf = true := cellFilter_wf _ _ _ h

end Machine
end Sys2Proof
end

