-- ==== Sys2Proof/Laws/MemOps.lean ====
section
/-! SUPPORT. Every operation over memory keeps its canonical form: at the home, through the caches, and where storage is freed. -/

namespace Sys2Proof
namespace Machine

variable (s : State)

/-- An operation that keeps the form keeps it however often it is repeated. -/
theorem memWf_foldl {α : Type} (f : State → α → State) (hf : ∀ s a, s.memWf → (f s a).memWf) (l : List α) :
    ∀ s : State, s.memWf → (l.foldl f s).memWf := by
  induction l with
  | nil => intro s h; exact h
  | cons a t ih => intro s h; exact ih _ (hf s a h)

theorem memWf_of_mem {s t : State} (e : t.mem = s.mem) (h : s.memWf) : t.memWf := by
  unfold State.memWf; rw [e]; exact h

theorem memWf_of_cells {s t : State} (e : t.mem.cells = s.mem.cells) (h : s.memWf) : t.memWf := by
  unfold State.memWf Mem.wf; rw [e]; exact h

/-! ## The home -/

@[simp] theorem fire_mem (d : Nat) (p : Place) (loc : Nat) : (s.fire d p loc).mem = s.mem := by
  unfold State.fire; split <;> rfl
@[simp] theorem victimIn_mem {α : Type} (t : Tbl α) (cap : Nat) : (s.victimIn t cap).2.mem = s.mem := by
  unfold State.victimIn; split <;> rfl
@[simp] theorem llcUse_mem (d tag n : Nat) (wr : Bool) : (s.llcUse d tag n wr).mem = s.mem := by
  unfold State.llcUse
  split
  · dsimp only; split <;> rfl
  · exact victimIn_mem s _ _
/-- A read that reaches its home changes no byte. -/
@[simp] theorem touch_mem (tag loc : Nat) : (s.touch tag loc).mem = s.mem := by
  unfold State.touch
  split
  · split <;> simp
  · dsimp only; split <;> rfl

theorem touch_memWf (tag loc : Nat) (h : s.memWf) : (s.touch tag loc).memWf := memWf_of_mem (touch_mem s tag loc) h

theorem foldl_cellPut_wf (f : Nat → Nat × Byte) (l : List Nat) (m : List Host.Cell) (h : cellsWfFrom none m = true) :
    cellsWfFrom none (l.foldl (fun c i => cellPut c (f i).1 (f i).2) m) = true := by
  induction l generalizing m with
  | nil => exact h
  | cons a t ih => exact ih _ (cellPut_wf _ _ _ h)

/-- A block that comes under another key keeps the form. -/
theorem Mem.rekey_wf (m : Mem) (tag blk : Nat) (h : m.wf = true) : (m.rekey tag blk).wf = true := by
  unfold Mem.rekey
  split
  · exact h
  · split
    · exact h
    · exact foldl_cellPut_wf (fun i => (blk * 16 + i, Config.staleByte (blk * 16 + i) _ tag)) _ _ h

theorem homeWrite_memWf (tag loc : Nat) (b : Byte) (bad : Bool) (h : s.memWf) : (s.homeWrite tag loc b bad).memWf := by
  unfold State.homeWrite
  split
  · exact touch_memWf s tag loc h
  · dsimp only
    have hm : ((if isDev loc = true then s.mem.rekey tag (loc / 16) else s.mem).put loc b).wf = true := by
      apply Mem.put_wf
      split
      · exact Mem.rekey_wf _ _ _ h
      · exact h
    generalize (if isDev loc = true then s.mem.rekey tag (loc / 16) else s.mem).put loc b = m at hm
    have key : ({ s with mem := if bad = true then { m with poison := m.poison.set loc () } else m } : State).memWf := by
      unfold State.memWf; dsimp only; split <;> exact hm
    split
    · exact memWf_of_mem (by simp) key
    · exact key

theorem writeBackHome_memWf (n : Nat) (ln : Line) (h : s.memWf) : (s.writeBackHome n ln).memWf :=
  memWf_foldl _ (fun s _ h => homeWrite_memWf s _ _ _ _ h) _ s h

/-! ## The caches -/

theorem dropL2_memWf (d n : Nat) (h : s.memWf) : (s.dropL2 d n).memWf := by
  unfold State.dropL2
  split
  · exact h
  · exact writeBackHome_memWf s _ _ h

theorem l2Room_memWf (d : Nat) (h : s.memWf) : (s.l2Room d).memWf := by
  have hv := memWf_of_mem (victimIn_mem s (s.die d).l2 (Config.l2Lines - (s.die d).l2Off)) h
  unfold State.l2Room
  split
  · rename_i k t e; rw [e] at hv; exact dropL2_memWf _ _ _ hv
  · rename_i t e; rw [e] at hv; exact hv

theorem l2Fill_memWf (d tag n : Nat) (h : s.memWf) : (s.l2Fill d tag n).2.memWf :=
  touch_memWf _ _ _ (l2Room_memWf s d h)

theorem l2Line_memWf (d tag n : Nat) (h : s.memWf) : (s.l2Line d tag n).2.memWf := by
  unfold State.l2Line
  split
  · split
    · exact h
    · exact l2Fill_memWf _ _ _ _ (dropL2_memWf s _ _ h)
  · exact l2Fill_memWf s _ _ _ h

theorem l2Write_memWf (d tag loc : Nat) (b : Byte) (bad : Bool) (h : s.memWf) : (s.l2Write d tag loc b bad).memWf := by
  unfold State.l2Write
  exact memWf_of_mem (fire_mem _ _ _ _) (l2Line_memWf s d tag _ h)

theorem writeBackL2_memWf (d n : Nat) (ln : Line) (h : s.memWf) : (s.writeBackL2 d n ln).memWf :=
  memWf_foldl _ (fun s _ h => l2Write_memWf s _ _ _ _ _ h) _ s h

theorem dropL1_memWf (c n : Nat) (far : Bool) (h : s.memWf) : (s.dropL1 c n far).memWf := by
  unfold State.dropL1
  split
  · exact h
  · dsimp only
    refine memWf_of_mem rfl ?_
    split
    · exact h
    · split
      · split
        · exact writeBackL2_memWf s _ _ _ h
        · exact writeBackHome_memWf _ _ _ (writeBackL2_memWf s _ _ _ h)
      · exact writeBackL2_memWf s _ _ _ h

theorem l1Room_memWf (c : Nat) (h : s.memWf) : (s.l1Room c).memWf := by
  have hv := memWf_of_mem (victimIn_mem s (s.core c).l1 (Config.l1Lines - (s.core c).l1Off)) h
  unfold State.l1Room
  split
  · rename_i k t e; rw [e] at hv; exact dropL1_memWf _ _ _ _ hv
  · rename_i t e; rw [e] at hv; exact hv

theorem l1Fill_memWf (c tag n : Nat) (h : s.memWf) : (s.l1Fill c tag n).2.memWf :=
  l2Line_memWf _ _ _ _ (l1Room_memWf s c h)

theorem l1Line_memWf (c tag n : Nat) (h : s.memWf) : (s.l1Line c tag n).2.memWf := by
  unfold State.l1Line
  split
  · split
    · exact h
    · exact l1Fill_memWf _ _ _ _ (dropL1_memWf s _ _ _ h)
  · exact l1Fill_memWf s _ _ _ h

theorem iFill_memWf (c tag n : Nat) (h : s.memWf) : (s.iFill c tag n).2.memWf :=
  l2Line_memWf _ _ _ _ (memWf_of_mem (victimIn_mem s _ _) h)

theorem iLine_memWf (c tag n : Nat) (h : s.memWf) : (s.iLine c tag n).2.memWf := by
  unfold State.iLine
  split
  · split
    · exact h
    · exact iFill_memWf s _ _ _ h
  · exact iFill_memWf s _ _ _ h

theorem readByte_memWf (p : Place) (tag loc : Nat) (h : s.memWf) : (s.readByte p tag loc).2.memWf := by
  unfold State.readByte
  cases p with
  | l1 c => exact l1Line_memWf s _ _ _ h
  | l2 d k =>
    cases k
    · dsimp only
      split
      · split
        · exact h
        · exact touch_memWf _ _ _ (dropL2_memWf s _ _ h)
      · exact touch_memWf s _ _ h
    · exact l2Line_memWf s _ _ _ h
  | home => exact touch_memWf s _ _ h
  | scratch => exact touch_memWf s _ _ h

@[simp] theorem cutRels_mem (p : Place) (loc : Nat) : (s.cutRels p loc).mem = s.mem := by
  unfold State.cutRels; split <;> rfl

theorem writeByte_memWf (p : Place) (tag loc : Nat) (b : Byte) (bad : Bool) (h : s.memWf) : (s.writeByte p tag loc b bad).memWf := by
  have h := memWf_of_mem (cutRels_mem s p loc) h
  unfold State.writeByte
  generalize s.cutRels p loc = s at h
  cases p with
  | l1 c => exact l1Line_memWf s _ _ _ h
  | l2 d k =>
    cases k
    · dsimp only
      apply homeWrite_memWf
      split
      · split
        · exact memWf_of_mem (fire_mem _ _ _ _) h
        · exact dropL2_memWf s _ _ h
      · exact h
    · exact l2Write_memWf s _ _ _ _ _ h
  | home => exact homeWrite_memWf s _ _ _ _ h
  | scratch => exact homeWrite_memWf s _ _ _ _ h

/-! ## Several bytes, and the two halves of synchronisation -/

theorem readBytes_memWf (p : Place) (tag : Nat) (l : List Nat) : ∀ s : State, s.memWf → (s.readBytes p tag l).2.memWf := by
  induction l with
  | nil => intro s h; exact h
  | cons a t ih => intro s h; exact ih _ (readByte_memWf s p tag a h)

theorem writeBytes_memWf (p : Place) (tag : Nat) (l : List (Nat × Byte)) (h : s.memWf) : (s.writeBytes p tag l).memWf :=
  memWf_foldl _ (fun s _ h => writeByte_memWf s p tag _ _ _ h) l s h

theorem cleanL1_memWf (c n : Nat) (h : s.memWf) : (s.cleanL1 c n).memWf := by
  unfold State.cleanL1
  split
  · exact h
  · split
    · exact h
    · exact writeBackL2_memWf s _ _ _ h

theorem cleanL2_memWf (d n : Nat) (h : s.memWf) : (s.cleanL2 d n).memWf := by
  unfold State.cleanL2
  split
  · exact h
  · split
    · exact h
    · exact writeBackHome_memWf s _ _ h

theorem cleanCore_memWf (c level : Nat) (p : Nat → Bool) (h : s.memWf) : (s.cleanCore c level p).memWf := by
  unfold State.cleanCore
  dsimp only
  have h1 := memWf_foldl (fun s n => s.cleanL1 c n) (fun s n h => cleanL1_memWf s c n h) ((s.core c).l1.keys.filter p) s h
  split
  · exact memWf_foldl _ (fun s n h => cleanL2_memWf s _ n h) _ _ h1
  · exact h1

theorem acquireDrop_memWf (c level : Nat) (p : Nat → Bool) (h : s.memWf) : (s.acquireDrop c level p).memWf := by
  unfold State.acquireDrop
  dsimp only
  have h1 := memWf_foldl (fun s n => s.dropL1 c n (level ≥ 3)) (fun s n h => dropL1_memWf s c n _ h) ((s.core c).l1.keys.filter p) s h
  split
  · exact memWf_foldl _ (fun s n h => dropL2_memWf s _ n h) _ _ h1
  · exact h1

theorem releaseAll_memWf (h : s.memWf) : s.releaseAll.memWf := by
  unfold State.releaseAll
  refine memWf_foldl _ (fun s x h => memWf_foldl _ (fun s n h => cleanL2_memWf s _ n h) _ s h) _ _ ?_
  exact memWf_foldl _ (fun s n h => cleanCore_memWf s n _ _ h) _ _ h

theorem clearStorage_memWf (t : Nat) (h : s.memWf) : (s.clearStorage t).memWf := Mem.clear_wf _ _ _ h

theorem freeStorage_memWf (t : Nat) (h : s.memWf) : (s.freeStorage t).memWf := by
  unfold State.freeStorage
  dsimp only
  split
  · exact clearStorage_memWf s t h
  · exact h

theorem foldl_updBoard_mem (f : Board → Board) :
    ∀ (l : List Nat) (s : State), (l.foldl (fun s n => s.updBoard n f) s).mem = s.mem
  | [], _ => rfl
  | n :: l, s => foldl_updBoard_mem f l (s.updBoard n f)

/-- Charging a segment's bank share or scratch moves no byte. -/
theorem chargeSeg_mem (g : Seg) (take : Bool) : (s.chargeSeg g take).mem = s.mem := by
  unfold State.chargeSeg
  split
  · rfl
  · exact foldl_updBoard_mem _ _ _

theorem freeSeg_memWf (c h : Nat) (g : Seg) (hw : s.memWf) : (s.freeSeg c h g).memWf := by
  unfold State.freeSeg
  dsimp only
  refine Mem.clear_wf _ _ _ ?_
  split
  · rw [chargeSeg_mem]; exact hw
  · exact hw

theorem fill_memWf (locs : List Nat) (h : s.memWf) : (s.fill locs).memWf := h

theorem reset_memWf : State.reset.mem.wf = true := rfl

end Machine
end Sys2Proof
end

