-- ==== Sys2Proof/Tests/Slice0.lean ====
section
/-! SUPPORT. Tests: words of the manual decode, ill-formed terms are refused, single instructions give the manual's results, and the
hypotheses of every statement are met by a state. Expected values come from the manual's worked examples and tables. -/

namespace Sys2Proof
namespace Tests

open Machine

set_option Elab.async false

/-! ## Decoding: words that the manual writes out (files 14 to 22) -/

/-- An extension word with nothing in it. -/
def e0 : EMod := { gsense := false, guard := 0, src3 := 0, fmt := 0, rnd := 0, sat := false, usrc := false, mod := 0, byte := 0 }
/-- Operand fields of a lane form. -/
def ln (vd va vb : BitVec 7) (ext : Option EMod := none) : LForm := { sw := false, vd := vd, va := va, vb := vb, ext := ext }
/-- Operand fields of a uniform form. -/
def un (gd ga gb : BitVec 6) (ext : Option EMod := none) : UForm := { sw := false, gd := gd, ga := ga, gb := gb, ext := ext }
/-- Operand fields of a lane form with an immediate. -/
def li (vd va vb : BitVec 7) (imm : Word) : LImm := { sw := false, vd := vd, va := va, vb := vb, imm := imm }
/-- Operand fields of a uniform form with an immediate. -/
def ui (gd ga gb : BitVec 6) (imm : Word) : UImm := { sw := false, gd := gd, ga := ga, gb := gb, imm := imm }
/-- Operand fields of a branch. -/
def br (pred : BitVec 3) (off : BitVec 19) (sense : Bool := false) : BForm := { sw := false, sense := sense, pred := pred, off := off }

/-- Two words decode to an instruction. -/
def reads (w e : Word) (i : Instr) : Bool := match decodeWords .largest w e with | .ok j => j == i | .error _ => false
/-- Two words are refused for a cause (R357). -/
def refuses (w e : Word) (c : Nat) : Bool := match decodeWords .largest w e with | .ok _ => false | .error d => d.cause == c

/-- IADD v5, v2, v3 (R350). -/
theorem test_dec_iadd : reads 0x0005040C 0 (.iadd (ln 5 2 3)) := by decide
/-- IMAD.sat.n32 v1, v2, g5, v3 (file 15). -/
theorem test_dec_imad : reads 0x20810416 0x00661800
    (.imad (ln 1 2 5 (some { e0 with src3 := 3, fmt := 6, sat := true, usrc := true }))) := by decide
/-- MOVI v9, 0x80000000 and ICMP.lt p1, v2, 4 (files 14, 15). -/
theorem test_dec_integer_immediates : reads 0x24090002 0x80000000 (.movi (li 9 0 0 0x80000000)) ∧
    reads 0x25010408 4 (.icmpI (li 1 2 2 4)) := by decide
/-- MOV v2, %laneid. -/
theorem test_dec_mov_special : reads 0x04020001 0 (.movSpecial (ln 2 0 0)) := by decide
/-- ?p2 FADD.rtz v8, v5, v6 and ?p3 FFMA.rtz.sat v10, v4, v6, v8. -/
theorem test_dec_float : reads 0x28080A18 0x200B2000 (.fadd (ln 8 5 6 (some { e0 with guard := 2, fmt := 11, rnd := 1 }))) ∧
    reads 0x288A0818 0x310B3000 (.ffma (ln 10 4 6 (some { e0 with guard := 3, src3 := 8, fmt := 11, rnd := 1, sat := true }))) := by
  decide
/-- SHFL.idx v7, v7, quad-wide fill and REDUX.add.fp32.w4 v2, v1. -/
theorem test_dec_cross : reads 0x34070E00 0x00E0062A (.shfl (ln 7 7 0 (some { e0 with src3 := 7, mod := 6, byte := 0x2A }))) ∧
    reads 0x34820200 0x000B0000 (.redux (ln 2 1 0 (some { e0 with fmt := 11 }))) := by decide
/-- LD.n32 v8, [g4 + v6 + 16] and ST.n32.rel.die [g4 + v6], v8. -/
theorem test_dec_load_store : reads 0x36088818 0x04860000 (.ld (ln 8 0x44 6 (some { e0 with src3 := 0x24, fmt := 6 }))) ∧
    reads 0x36088819 0x04060042 (.st (ln 8 0x44 6 (some { e0 with src3 := 0x20, fmt := 6, byte := 0x42 }))) := by decide
/-- ?p1 ATOM.add.n32.mc v3, [v10], v7 and ?p2 ATCAS.n32.mc v4, [v10], v8, v9. -/
theorem test_dec_atomics : reads 0x3783141C 0x10060200 (.atom (ln 3 10 7 (some { e0 with guard := 1, fmt := 6, mod := 2 }))) ∧
    reads 0x37841421 0x21260200 (.atcas (ln 4 10 8 (some { e0 with guard := 2, src3 := 9, fmt := 6, mod := 2 }))) := by decide
/-- GLD g1, [g0 + 4]; GMOVI g2, 8; GSHR g0, g1, g2 (file 14). -/
theorem test_dec_uniform : reads 0xA3820001 4 (.gldI (ui 1 0 0 4)) ∧ reads 0xA3040001 8 (.gmovi (ui 2 0 0 8)) ∧
    reads 0x82000842 0 (.gshr (un 0 1 2)) := by decide
/-- GADD.n64 g4, g4, g6 and GCMP.lt q1, g2, g3. -/
theorem test_dec_uniform_ext : reads 0xA00820C0 0x00070000 (.gadd (un 4 4 6 (some { e0 with fmt := 7 }))) ∧
    reads 0xA2821060 0x00020200 (.gcmp (un 1 2 3 (some { e0 with fmt := 2, mod := 2 }))) := by decide
/-- ?q1 BRA 16 bytes back, ?!p2 BRC 20 bytes on and CALL 16 bytes on. -/
theorem test_dec_branches : reads 0x880FFFFC 0 (.bra (br 1 (-4))) ∧ reads 0x88D00005 0 (.brc (br 2 5 true)) ∧
    reads 0x89800004 0 (.call (br 0 4)) := by decide
/-- RET, EXIT, NOP, RCV 3 and YLD 15. -/
theorem test_dec_control : reads 0x8A000000 0 (.ret (un 0 0 0)) ∧ reads 0x8A000002 0 (.exit (un 0 0 0)) ∧
    reads 0x8A000003 0 (.nop (un 0 0 0)) ∧ reads 0x8A801800 0 (.rcv (un 0 3 0)) ∧
    reads 0xAA800001 15 (.yld (un 0 0 0 (some { e0 with byte := 15 }))) := by decide
/-- MFS g5, %fusetimeout, MTS %md0, g10 and FENCE.rel.e7. -/
theorem test_dec_system : reads 0x900A0320 0 (.mfs (un 5 0 25)) ∧ reads 0x90142001 0 (.mts (un 10 4 0)) ∧
    reads 0xAC800000 0x47 (.fence (un 0 0 0 (some { e0 with byte := 0x47 }))) := by decide
/-- SEGATT.ld g10, g8, ENQ g0 and ENQG g0, g4. -/
theorem test_dec_segments_teams : reads 0x94944000 0 (.segattLd (un 10 8 0)) ∧ reads 0x94000000 0 (.enq (un 0 0 0)) ∧
    reads 0x94000081 0 (.enqg (un 0 0 4)) := by decide
/-- MLD.p1 m0, [g0], g12; MMA.z.p1 m2, m0, m1; MMAS.z.p1 m3, m0, m1, m2. -/
theorem test_dec_matrix : reads 0xB9800181 0x202 (.mld (un 0 0 12 (some { e0 with mod := 2, byte := 2 }))) ∧
    reads 0xB9040020 0x300 (.mma (un 2 0 1 (some { e0 with mod := 3 }))) ∧
    reads 0xB9060021 0x00400300 (.mmas (un 3 0 1 (some { e0 with src3 := 2, mod := 3 }))) := by decide
/-- MST [g14], g13, m2; MCVT m2, m0; MWAIT g20. -/
theorem test_dec_matrix_moves : reads 0x998471A2 0 (.mst (un 2 14 13)) ∧ reads 0x99840003 0 (.mcvt (un 2 0 0)) ∧
    reads 0x9A280000 0 (.mwait (un 20 0 0)) := by decide
/-- CPYGO.c1 g4, g8 at scope 2 and CPYWT.c0 g6, g4. -/
theorem test_dec_copy : reads 0xB8084000 0x102 (.cpygo (un 4 8 0 (some { e0 with mod := 1, byte := 2 }))) ∧
    reads 0x980C2001 0 (.cpywt (un 6 4 0)) := by decide
/-- RAYQ.sp g10, g12, g14, g16 at scope 2 and RAYWT g11, g10. -/
theorem test_dec_query : reads 0xBA9461C0 0x02000102 (.rayq (un 10 12 14 (some { e0 with src3 := 16, mod := 1, byte := 2 }))) ∧
    reads 0x9A965001 0 (.raywt (un 11 10 0)) := by decide
/-- PAYR g5, g9; PAYW g13, g0, g14, g16; EMIT g5, g10, g7; ATLREQ g3, g4, g6. -/
theorem test_dec_mesh : reads 0x9E0A4802 0 (.payr (un 5 9 0)) ∧
    reads 0xBE1A01C1 0x02000000 (.payw (un 13 0 14 (some { e0 with src3 := 16 }))) ∧ reads 0x9E0A50E0 0 (.emit (un 5 10 7)) ∧
    reads 0x9E8620C0 0 (.atlreq (un 3 4 6)) := by decide
/-- The assigned bit pattern goes to an unassigned encoding where no map names it: cause 1, or 2 beside an assigned sub (R357). -/
theorem test_dec_unassigned : reads 0x1F000000 0 (.unassignedEncoding 0x1F000000 0) ∧ reads 0x03000002 0 (.unassignedEncoding 0x03000002 0) ∧
    reads 0x8A000004 0 (.unassignedEncoding 0x8A000004 0) := by decide
/-- A reserved rounding code is cause 4, rounding where none is done and an (I) form without X are cause 3. -/
theorem test_dec_refused_lane : refuses 0x2005040C 0xE000 4 = true ∧ refuses 0x2005040C 0x2000 3 = true ∧
    refuses 0x0001040D 0 3 = true := by decide
/-- Ill-formed memory and cross-lane words of files 15 and 16. -/
theorem test_dec_refused_memory : refuses 0x36088818 0x00060000 3 = true ∧ refuses 0x36088818 0x06860000 3 = true ∧
    refuses 0x36088819 0x04060022 5 = true ∧ refuses 0x34820200 0x000B0300 3 = true ∧ refuses 0x34820200 0x000B0007 5 = true ∧
    refuses 0x23820600 0x00020600 3 = true := by decide
/-- Ill-formed uniform words of files 17 and 18. -/
theorem test_dec_refused_uniform : refuses 0x8B000001 0 3 = true ∧ refuses 0x8A809800 0 3 = true ∧ refuses 0xA8800000 0 3 = true ∧
    refuses 0x99400020 0 3 = true ∧ refuses 0x980A2001 0 3 = true := by decide
/-- A wave of 8 registers has v5 and no v8 (R359). -/
theorem test_dec_registers : (Instr.iadd (ln 5 2 3)).illegal { vregs := 8, lanes := 4 } = none ∧
    (Instr.iadd (ln 8 2 3)).illegal { vregs := 8, lanes := 4 } = some 3 := by decide

/-- Terms that fail one check each of a lane instruction: RND 7; a minimum width, an MX width, an order; each register field, the
format, USRC, RND, SAT, MOD and BYTE (R357). -/
theorem test_wf_lane :
    let f (e : EMod) : LForm := ln 4 2 3 (some e)
    (([(.iadd (f { e0 with fmt := 2, rnd := 7 }), 4), (.shfl (f { e0 with byte := 6 }), 5), (.mxdot (f { e0 with fmt := 16 }), 5),
      (.ld (ln 4 0x42 0 (some { e0 with fmt := 6, byte := 0x40 })), 5), (.dadd (ln 5 2 4), 3), (.dadd (ln 4 3 4), 3),
      (.dadd (ln 4 2 5), 3), (.sel (f { e0 with fmt := 2, src3 := 8 }), 3), (.iadd (f { e0 with fmt := 11 }), 3),
      (.cvt (f { e0 with fmt := 15 }), 3), (.vdot4 (f { e0 with fmt := 8 }), 3),
      (.popc (ln 4 2 0 (some { e0 with fmt := 2, usrc := true })), 3), (.iadd (f { e0 with fmt := 2, rnd := 1 }), 3),
      (.and (f { e0 with fmt := 2, sat := true }), 3), (.icmp (f { e0 with fmt := 2, mod := 6 }), 3),
      (.iadd (f { e0 with fmt := 2, byte := 1 }), 3), (.popc (ln 4 2 3), 3)] : List (Instr × Nat)).filter fun x =>
      x.1.illegal .largest != some x.2 || x.1.WellFormed .largest) = [] ∧
    (Instr.iadd (f { e0 with fmt := 2 })).WellFormed .largest = true := by decide +kernel
/-- Terms that fail one check each of the forms (I) and (F), and of uniform instructions with an E-mod word and without. -/
theorem test_wf_others :
    let fl (rnd : BitVec 3) (rsv : BitVec 8) : EFlt := { gsense := false, guard := 0, rsv := rsv, sat := false, rnd := rnd, imm16 := 0 }
    let u (e : EMod) : UForm := un 4 2 3 (some e)
    (([(.iaddI (li 4 2 1 0), 3), (.movi (li 4 2 0 0), 3), (.icmpI (li 8 2 0 0), 3),
      (.faddF { sw := false, vd := 4, va := 2, vb := 0, f := fl 7 0 }, 4),
      (.faddF { sw := false, vd := 4, va := 2, vb := 0, f := fl 0 1 }, 3), (.gaddI (ui 4 2 1 0), 3),
      (.gadd (u { e0 with fmt := 2, rnd := 7 }), 4), (.gld (u { e0 with fmt := 6, byte := 0x40 }), 5),
      (.gadd (un 5 2 4 (some { e0 with fmt := 3 })), 3), (.gadd (un 4 3 4 (some { e0 with fmt := 3 })), 3),
      (.gadd (un 4 2 5 (some { e0 with fmt := 3 })), 3), (.gmov (un 4 2 3), 3),
      (.gsel (u { e0 with fmt := 2, src3 := 8 }), 3), (.gadd (u { e0 with fmt := 11 }), 3),
      (.gadd (u { e0 with fmt := 2, usrc := true }), 3), (.gadd (u { e0 with fmt := 2, sat := true }), 3),
      (.gcmp (u { e0 with fmt := 2, mod := 6 }), 3), (.gadd (u { e0 with fmt := 2, byte := 1 }), 3)] : List (Instr × Nat)).filter fun x =>
      x.1.illegal .largest != some x.2 || x.1.WellFormed .largest) = [] ∧
    (Instr.gadd (u { e0 with fmt := 2 })).WellFormed .largest = true := by decide +kernel
/-- MXDOT is legal at minimum width code 2 with e4m3 elements, and is cause 5 in a wave of 4 lanes (R329, R389). -/
theorem test_wf_mxdot : (Instr.mxdot (ln 4 8 16 (some { e0 with fmt := 16, byte := 2 }))).illegal { vregs := 128, lanes := 64 } = none ∧
    (Instr.mxdot (ln 4 8 16 (some { e0 with fmt := 16, byte := 2 }))).illegal { vregs := 128, lanes := 4 } = some 5 := by decide +kernel


/-! ## Single instructions: results that the manual works out (files 12, 13, 15, 17) -/

/-- Core 0 runs one wave of 64 lanes, whose fragment holds the turn at address 0x1000. -/
def probe : State := { State.reset.withFetchWord 32 0x8A000003 with cur := some (0, 0), agenda := [] }
/-- Its issuer. -/
def me : Who := { core := 0, entry := 0, slot := 0, team := 0, launch := 0, ctx := 0, die := 0 }
/-- The same with a wave of 4 lanes, vector registers `v` by register × 64 + lane and uniform registers `g`. -/
def small (v g : Tbl Word) : State :=
  (probe.updWave me fun w => { w with lanes := 4, v := v, g := g }).updFrag me fun f => { f with mask := 15 }
/-- The next state of an outcome, or the state itself. -/
def next (s : State) (i : Instr) : State := match exec i s with | .next t => t | _ => s
/-- A lane instruction with a, b and c in v1, v2 and v3 of lane 0: what v4 of lane 0 and %fpflags hold afterwards. -/
def compute (mk : LForm → Instr) (e : EMod) (a b c : Word) : Word × Word :=
  let t := next ((small [(64, a), (128, b), (192, c)] []).updFrag me fun f => { f with mask := 1 }) (mk (ln 4 1 2 (some e)))
  ((t.wave me).vreg 0 4, (t.wave me).fpflags)
/-- Extensions with an integer format. -/
def i32 : EMod := { e0 with fmt := 2 }
def n32 : EMod := { e0 with fmt := 6 }
def fp : EMod := { e0 with fmt := 11 }
/-- %fpflags bits of Table 13.9. -/
def flagNX : Word := 1
def flagSAT : Word := 32

/-- The issuer holds the turn, and nothing traps. -/
theorem test_probe_ready : probe.whoAt 0 0 = me ∧ probe.ready me = true ∧ probe.untrapped me = true := by decide +kernel

theorem test_iadd_sat : compute .iadd { i32 with sat := true } 0x7FFFFFF0 0x20 0 = (0x7FFFFFFF, flagSAT) := by decide +kernel
theorem test_iadd_wrap : compute .iadd i32 0x7FFFFFF0 0x20 0 = (0x80000010, 0) := by decide +kernel
theorem test_iabs_sat : compute .iabs { i32 with sat := true } 0x80000000 0 0 = (0x7FFFFFFF, flagSAT) := by decide +kernel
theorem test_iabs_wrap : compute .iabs i32 0x80000000 0 0 = (0x80000000, 0) := by decide +kernel
theorem test_shl : compute .shl n32 1 33 0 = (2, 0) := by decide +kernel
theorem test_sar : compute .sar n32 0x80000000 4 0 = (0xF8000000, 0) := by decide +kernel
theorem test_clz : compute .clz i32 0 0 0 = (32, 0) := by decide +kernel
theorem test_imulh_signed : compute .imulh i32 0xFFFFFFFF 2 0 = (0xFFFFFFFF, 0) := by decide +kernel
theorem test_imulh_unsigned : compute .imulh n32 0xFFFFFFFF 2 0 = (1, 0) := by decide +kernel
theorem test_bfx_signed : compute .bfx i32 0xF00 0x408 0 = (0xFFFFFFFF, 0) := by decide +kernel
theorem test_bfx_unsigned : compute .bfx n32 0xF00 0x408 0 = (15, 0) := by decide +kernel
theorem test_prmt : compute .prmt { e0 with src3 := 3 } 0x44332211 0x88776655 0x21170400 = (0xDDFF5511, 0) := by decide +kernel
theorem test_lop3 : compute .lop3 { n32 with src3 := 3, byte := 0xAC } 0xC 0xA 0x9 = (0xA, 0) := by decide +kernel

/-- Conversion of -12.5 to b8p4 (file 13): page bit 6 of SRC3 for the destination, the source format fp32 below it. -/
def toB8 (rnd : BitVec 3) (fmt : BitVec 5) (x : Word) : Word × Word :=
  compute .cvt { e0 with fmt := fmt, rnd := rnd, src3 := 0x40 + 11 } x 0 0
/-- -12.5 to b8p4 under RNE, RTZ, RUP (0xDC) and RDN, RNA (0xDD), with NX alone. -/
theorem test_cvt_modes : (toB8 0 4 0xC1480000, toB8 1 4 0xC1480000, toB8 2 4 0xC1480000) =
    ((0xDC, flagNX), (0xDC, flagNX), (0xDC, flagNX)) ∧ toB8 3 4 0xC1480000 = (0xDD, flagNX) ∧ toB8 4 4 0xC1480000 = (0xDD, flagNX) := by
  decide +kernel

/-- A 4-lane wave with 2^24, 1.0, 1.0 and 0.5 in v1 (file 15). -/
def fourLanes : State := small [(64, 0x4B800000), (65, 0x3F800000), (66, 0x3F800000), (67, 0x3F000000)] []
/-- What a register of the four lanes and %fpflags hold. -/
def lanesOut (t : State) (r : Nat) : List Word × Word := ((List.range 4).map fun l => (t.wave me).vreg l r, (t.wave me).fpflags)
theorem test_redux_once : lanesOut (next fourLanes (.redux (ln 2 1 0 (some fp)))) 2 =
    ([0x4B800001, 0x4B800001, 0x4B800001, 0x4B800001], flagNX) := by decide +kernel
/-- A guarded reduction leaves a lane that does not take part. -/
theorem test_redux_guarded : lanesOut (next (fourLanes.updWave me fun w => { w with p := [(1, 11)] })
    (.redux (ln 5 1 0 (some { fp with guard := 1 })))) 5 = ([0x4B800001, 0x4B800001, 0, 0x4B800001], flagNX) := by decide +kernel
theorem test_scan : lanesOut (next fourLanes (.scan (ln 3 1 0 (some fp)))) 3 =
    ([0x4B800000, 0x4B800000, 0x4B800001, 0x4B800001], flagNX) := by decide +kernel
theorem test_scan_exclusive : lanesOut (next fourLanes (.scan (ln 4 1 0 (some { fp with byte := 8 })))) 4 =
    ([0, 0x4B800000, 0x4B800000, 0x4B800001], flagNX) := by decide +kernel

/-- ?p1 BRC whose lanes disagree: entry 0 keeps lanes 0 and 1 at the target, entry 1 takes lanes 2 and 3 at the next word (R131). -/
theorem test_brc_splits : let t := next ((small [] []).updWave me fun w => { w with p := [(1, 3)] }) (.brc (br 1 3))
    let a := (t.core 0).frag 0
    let b := (t.core 0).frag 1
    (a.pc, a.mask, b.pc, b.mask) = (0x100C, 3, 0x1004, 12) ∧ ((t.core 0).wave 0).order = [0, 1] := by decide +kernel
/-- CALL writes the next address to the link pair, v126:v127 at 128 registers (R440). -/
theorem test_call_links : let t := next (small [] []) (.call (br 0 4))
    ((t.frag me).pc, (t.wave me).vreg 3 126, (t.wave me).vreg 3 127) = (0x1010, 0x1004, 0) := by decide +kernel

/-- The load of file 12: lanes 13 to 15 lie past team scratch, and lane 7's page is not present. -/
def faulty : State :=
  let v := (List.range 16).flatMap fun l => if l == 7 then [(6 * 64 + l, (0x5000 : Word))]
    else [(6 * 64 + l, BitVec.ofNat 32 (320 * l))]
  let hi := (List.range 16).filterMap fun l => if l == 7 then none else some (7 * 64 + l, (0xFC000000 : Word))
  let s := (probe.updWave me fun w => { w with lanes := 16, v := v ++ hi }).updFrag me fun f =>
    { f with mask := 0xFFFF, answers := [(5, .success 0 false false false 12)] }
  s.updCtx 0 fun c => { c with trappc := 0x800 }
/-- ACCESS for lanes 13 to 15, with lane 7 pending and the lowest failing address (R302, R305). -/
theorem test_load_access : ((next faulty (.ld (ln 8 6 0 (some { n32 with guard := 0 })))).frag me).trap.map
      (fun r => (r.code, r.cause, r.lanes, r.pend, r.addr)) = some (5, 0, 0xE000, 0x80, 0xFC00000000001040) := by decide +kernel
/-- TRAP 7 saves g60 to g63, and the handler starts at CTX_TRAPPC × 4 (R303, R446). -/
theorem test_trap : let t := next ((small [] [(60, 9)]).updCtx 0 fun c => { c with trappc := 0x800 }) (.trap (ui 0 0 0 7))
    (t.frag me).trap.map (fun r => (r.code, r.info, r.saveg, r.action)) = some (18, 7, [9, 0, 0, 0], 1) ∧
      ((t.frag me).pc, (t.frag me).st) = (0x2000, FragSt.trap) := by decide +kernel
/-- GSHR g0, g1, g2: an arithmetic shift under MOD 1 keeps the sign. -/
theorem test_gshr : ((next (small [] [(1, 0x80000000), (2, 4)]) (.gshr (un 0 1 2 (some { i32 with mod := 1 })))).wave me).greg 0 =
    0xF8000000 := by decide +kernel
/-- MOV %laneid gives each lane its number. -/
theorem test_laneid : lanesOut (next (small [] []) (.movSpecial (ln 2 0 0))) 2 = ([0, 1, 2, 3], 0) := by decide +kernel
/-- One step fetches, decodes and runs the word at the program counter: IADD v5, v2, v3 moves the pc on by 4. -/
theorem test_step : (match step (State.reset.withFetchWord 32 0x0005040C) with | .next t => ((t.core 0).frag 0).pc | _ => 0) = 0x1004 := by
  decide +kernel
/-- A 64-lane wave with -12.5 in v1 of every lane, on a pipe whose generator holds 1 (file 13). -/
def stoWave : State := (probe.updWave me fun w => { w with v := (List.range 64).map fun l => (64 + l, 0xC1480000) }).updCore 0 fun c =>
  { c with pipes := [(0, { sr := 1 })] }
/-- Its stochastic conversion to b8p4: lanes 0 and 3 round to -12, lanes 9 and 41 to -13. -/
theorem test_cvt_stochastic : ([0, 3, 9, 41].map fun l =>
      ((next stoWave (.cvt (ln 4 1 0 (some { e0 with fmt := 4, rnd := 5, src3 := 0x4B })))).wave me).vreg l 4) = [0xDC, 0xDC, 0xDD, 0xDD] ∧
    (((next stoWave (.cvt (ln 4 1 0 (some { e0 with fmt := 4, rnd := 5, src3 := 0x4B })))).core 0).pipe 0).sr = 0x00042021 := by
  decide +kernel
/-- An 8-lane wave whose block holds 1000.0, 300.0, -0.09375 and 29 zeros (file 13). -/
def mxBlock : State := (probe.updWave me fun w =>
  { w with lanes := 8, v := [(4 * 64, 0x447A0000), (5 * 64, 0x43960000), (6 * 64, 0xBDC00000)] }).updFrag me fun f => { f with mask := 255 }
/-- QNT to mxe4m3 gives element codes 0x7E, 0x71, 0x94 and scale 0x80. -/
theorem test_qnt : let t := next mxBlock (.qnt (ln 1 4 0 (some { e0 with fmt := 16, src3 := 2, byte := 5 })))
    ((t.wave me).vreg 0 1, (t.wave me).vreg 1 1, (t.wave me).vreg 0 2) = (0x0094717E, 0, 0x80) := by decide +kernel

/-! ## The hypotheses of every statement are met (lane instructions) -/

/-- The premise of IntegerArithmetic, BitInstructions, FieldsCompareAndMove and IntegerImmediates. -/
theorem test_w_integer : probe.ready me = true ∧ integerOps.length = 8 ∧ bitOps.length = 9 ∧ fieldOps.length = 3 := by decide +kernel
/-- BitInstructions and FieldsCompareAndMove: a value in range, and a bit at the top of each width. -/
theorem test_w_bit_functions : (1 : Nat) < 2 ^ 1 ∧ 0 < 1 ∧ 2 ^ 32 - 1 < 2 ^ 32 ∧ 31 < 32 ∧ 2 ^ 64 - 1 < 2 ^ 64 ∧ 63 < 64 := by decide
/-- The premises of FloatArithmetic, FloatFunctions, DotProducts, Conversions, PackingAndScales and CrossLane: an untrapped issuer, whose
wave is whole at every width. -/
theorem test_w_lane : probe.ready me = true ∧ probe.untrapped me = true ∧ (List.range 8).all (probe.whole me) = true := by
  decide +kernel
/-- FloatCompare: ordered and unordered operands, signalling and quiet, and the last condition. -/
theorem test_w_compare : (7 < 8) ∧ ((zeroV false).isNan || (zeroV true).isNan) = false ∧
    (newNan.isNan || (zeroV false).isNan) = true ∧ (decodeCode fp32 false 0x7FC00000).snan = false ∧
    (decodeCode fp32 false 0x7FC00000).isNan = true ∧ (decodeCode fp32 false 0x7F800001).snan = true := by decide +kernel
/-- FloatFunctions: operands that are zeros, negative and infinities. -/
theorem test_w_functions : (match (fopd fp32 false 0x80000000).v with | .num x => x.isZero && x.neg | _ => false) = true ∧
    (match (fopd fp32 false 0xBF800000).v with | .num x => !x.isZero && x.neg | _ => false) = true ∧
    (fopd fp32 false 0x7F800000).v = .inf false ∧ (fopd fp32 false 0xFF800000).v = .inf true := by decide +kernel
/-- PackingAndScales: a block of finite values that are not all zero, below and at the scale's limit. -/
theorem test_w_scales : let v := decodeCode fp32 false 0x447A0000
    (match v with | .num x => !x.isZero | _ => false) = true ∧ [v].all (fun v => !v.isNan && !v.isInf) = true ∧ mxScale 16 [v] < 254 := by
  decide +kernel
/-- ReductionRules: an integer format with SAT and without, a group that is not empty, fp32, and a bit in range. -/
theorem test_w_cross_rules : (n32.fmt ≠ 11) ∧ n32.sat = false ∧ ({ n32 with sat := true } : EMod).sat = true ∧
    fp.fmt = 11 ∧ ([0] : List Nat) ≠ [] ∧ (31 < 32) ∧ (List.range 6).all (fun m => ({ n32 with mod := BitVec.ofNat 3 m } : EMod).mod.toNat == m) = true := by decide

/-- The probe with g1 = 0xFC000000: g0:g1 addresses team scratch. -/
def scratchBase : State := probe.updWave me fun w => { w with g := [(1, 0xFC000000)] }
/-- A form that addresses g0:g1 without an index, in 32-bit words. -/
def atBase : LForm := ln 8 0x40 0 (some n32)
/-- The same with an order and a scope in BYTE. -/
def atOrd (byte : BitVec 8) : LForm := ln 8 0x40 0 (some { n32 with byte := byte })
/-- A form of a window in scratch with index v2. -/
def inWindow : LForm := ln 8 1 2 (some { n32 with src3 := 0x20 })

/-- Reads: accesses that resolve in a core without posts; bytes off chip, and lines that are held, under the key or another, and not held. -/
theorem test_w_reads : (probe.core 0).posts = [] ∧
    resolve (scratchBase.sortAccs me {} [{ lane := 0, addr := 0xFC00000000000000, n := 4 }]) = true ∧
    isDev (scratchLoc 0 0) = false ∧
    (let c : Core := { l1 := [(1, { key := 5 })] }
     c.l1.get? 1 = some { key := 5 } ∧ c.l1.get? 2 = none ∧ ({ key := 5 } : Line).key ≠ 6) ∧
    (let d : Die := { l2 := [(1, { key := 5 })] }
     d.l2.get? 1 = some { key := 5 } ∧ d.l2.get? 2 = none) := by decide +kernel

/-- Loads: LD relaxed, acquiring and seq_cst, LDS, GLD and its immediate form, at team scratch. -/
theorem test_w_loads : scratchBase.ready me = true ∧
    ([0x00, 0x20, 0x84].all fun b =>
      let i := Instr.ld (atOrd b)
      let e := i.extL (atOrd b)
      let h := scratchBase.how me e.byte (e.mod.extractLsb' 0 2) {}
      let act := scratchBase.active me e.gsense e.guard
      let as := accsOf act (accSize e) (laneAddr (atOrd b) e (accSize e) (scratchBase.wave me))
      scratchBase.orderly me h act as && (scratchBase.loadGather me h as).isSome) = true ∧
    (let e := (Instr.lds inWindow).extL inWindow
     let h := scratchBase.how me 0 (e.mod.extractLsb' 0 2) {}
     let act := scratchBase.active me e.gsense e.guard
     let as := accsOf act (accSize e) (windowAddr inWindow e (accSize e) (scratchBase.wave me))
     (scratchBase.orderly me h act as && (scratchBase.loadGather me h as).isSome) = true) ∧
    (let as : List Acc := [{ lane := 0, addr := 0xFC00000000000000, n := 4 }]
     let h : How := { uni := true }
     (scratchBase.wave me).uguard ((Instr.gld (un 2 0 4)).extU (un 2 0 4)) = true ∧
       scratchBase.orderly me h (scratchBase.frag me).mask as = true ∧ (scratchBase.loadGather me h as).isSome = true) := by
  decide +kernel
/-- AddressesAndImages: a vector base and a uniform one, and both window forms. -/
theorem test_w_addresses : (63 < 64) ∧ (64 ≤ (0x40 : BitVec 7).toNat) ∧ (0 : BitVec 7).toNat / 32 = 0 ∧ (0x20 : BitVec 7).toNat / 32 = 1 := by
  decide
/-- Stores: ST relaxed and releasing, STS, GST; a post of a store performed at home and in scratch. -/
theorem test_w_stores : scratchBase.ready me = true ∧
    ([0x00, 0x40].all fun b =>
      let i := Instr.st (atOrd b)
      let e := i.extL (atOrd b)
      let h := scratchBase.how me e.byte (e.mod.extractLsb' 0 2) { wr := true }
      let act := scratchBase.active me e.gsense e.guard
      let as := accsOf act (accSize e) (laneAddr (atOrd b) e (accSize e) (scratchBase.wave me))
      scratchBase.orderly me h act as && resolve (scratchBase.sortAccs me h as)) = true ∧
    (let e := (Instr.sts inWindow).extL inWindow
     let h := scratchBase.how me 0 (e.mod.extractLsb' 0 2) { wr := true }
     let act := scratchBase.active me e.gsense e.guard
     let as := accsOf act (accSize e) (windowAddr inWindow e (accSize e) (scratchBase.wave me))
     (scratchBase.orderly me h act as && resolve (scratchBase.sortAccs me h as)) = true) ∧
    (let as : List Acc := [{ lane := 0, addr := 0xFC00000000000000, n := 4 }]
     let h : How := { uni := true, wr := true }
     h.order = 0 ∧ (scratchBase.wave me).uguard ((Instr.gst (un 2 0 4)).extU (un 2 0 4)) = true ∧
       scratchBase.orderly me h (scratchBase.frag me).mask as = true ∧ resolve (scratchBase.sortAccs me h as) = true) ∧
    (let c : Tbl Byte := [(scratchLoc 0 0, 1)]
     c.keys.Nodup ∧ ∀ x ∈ c, isDev x.1 = false) ∧
    (probe.die (homeDie 0x1000)).fenced = false ∧ probe.deadPort 0x1000 = none ∧ isDev 0x2000 = true ∧ 0x2000 / 16 = 0x2001 / 16 ∧
    probe.mem.tags.get? (0x2001 / 16) = none := by decide +kernel
/-- Atomics: widths and values at their bounds; ATOM relaxed, releasing and seq_cst, ATCAS and RED at team scratch. -/
theorem test_w_atomics : (2 ^ 32 - 1 < 2 ^ 32) ∧ (2 ^ 64 - 1 < 2 ^ 64) ∧ scratchBase.ready me = true ∧
    ([0x00, 0x44, 0x84].all fun b =>
      let f := atOrd b
      let e := (Instr.atom f).extL f
      let h := scratchBase.how me e.byte (e.mod.extractLsb' 0 2) { wr := true, atomic := true }
      let act := scratchBase.active me e.gsense e.guard
      let as := atomAccs f act 4 (scratchBase.wave me)
      let t := scratchBase.fillCore me (as.map fun a => a.addr) true
      let t := if h.order == 4 then t.fenceSc me h.cap
        else if ordRel h.order then (as.map fun a => a.addr).eraseDups.foldl (fun t a => t.releaseFor me h.cap a) t else t
      let r := runLanes (fun s r => s.rmwAt me h r fun _ _ => some 0) t (scratchBase.sortAccs me h as)
      misLanes as == 0 && resolve (scratchBase.sortAccs me h as) && !scratchBase.rmwMustWait me h (scratchBase.sortAccs me h as) &&
        !scratchBase.postsBlock me h (scratchBase.sortAccs me h as) &&
        (r.1.all fun r => match r.2 with | .data _ false => true | _ => false) &&
        (scratchBase.staleFlow me h act).isNone) = true := by decide +kernel

/-- Lane 0 of the probe, with g0:g1 at team scratch, g2:g3 at the mapped page and g4 at an image descriptor. -/
def lane1 : State := (probe.updWave me fun w => { w with g := [(1, 0xFC000000), (2, 0x1100), (4, 0), (5, 0xFC000000)] }).updFrag me fun f =>
  { f with mask := 1 }

/-- FullEmptyInstructions: LDF of a full granule, which is served, and of an empty one, which is left; STF; SFILL of 32 bytes and of none. -/
theorem test_w_full_empty : lane1.ready me = true ∧
    ([([] : Tbl Unit), [(scratchLoc 0 0 / 16, ())]].map fun es =>
      let s : State := { lane1 with mem := { lane1.mem with empties := es } }
      let e := (Instr.ldf atBase).extL atBase
      let h := s.how me e.byte 0 {}
      let act := s.active me e.gsense e.guard
      let as := accsOf act (accSize e) (laneAddr atBase e (accSize e) (s.wave me))
      let rs := windowsOnly (s.sortAccs me h as)
      let z := serveLanes me false s.nextId rs s.fresh.2
      (s.ready me && s.orderly me h act as && misLanes as == 0 && resolve rs && z.ecc == 0, z.left.length)) = [(true, 0), (true, 1)] ∧
    (let e := (Instr.stf atBase).extL atBase
     let h := lane1.how me e.byte 0 { wr := true }
     let act := lane1.active me e.gsense e.guard
     let as := accsOf act (accSize e) (laneAddr atBase e (accSize e) (lane1.wave me))
     (lane1.orderly me h act as && misLanes as == 0 && (as.all fun a => isWindow a.addr) && resolve (lane1.sortAccs me h as)) = true) ∧
    (lane1.core 0).posts = [] ∧
    ([(0 : Word), 32].all fun len =>
      let s := lane1.updWave me fun w => { w with v := [(8 * 64, len)] }
      let f := ln 8 0x40 0 (some e0)
      let adr := laneAddr f ((Instr.sfill f).extL f) 16 (s.wave me) 0
      s.ready me && adr.toNat % 16 == 0 && len.toNat % 16 == 0 && isWindow adr && (s.winLoc 0 (some (0, 0)) adr len.toNat).isSome) = true := by
  decide +kernel
/-- FullEmptyGranules: a granule full and alone, one that is empty, and one with an older waiter. -/
theorem test_w_granules : (probe.core 0).posts = [] ∧ isDev (scratchLoc 0 0) = false ∧ probe.deadPort (scratchLoc 0 0) = none ∧
    probe.mem.poison.get? (scratchLoc 0 0) = none ∧ probe.isFull (scratchLoc 0 0 / 16) = true ∧ probe.olderWaits (scratchLoc 0 0 / 16) 0 = false ∧
    ({ probe with mem := { probe.mem with empties := [(7, ())] } } : State).isFull 7 = false ∧
    (probe.updFrag me fun f => { f with st := .syncwait, wait := { kind := .fullEmpty, n := 0, lanes := 1, gran := [(0, 7)] } }).olderWaits 7 1 = true := by
  decide +kernel
/-- MonitorsAndPrefetch: WAITC.eq at the mapped page against 0, which holds at once, and against 1, which does not. -/
theorem test_w_waitc : lane1.ready me = true ∧
    ([(0 : Word), 1].map fun v =>
      let s := lane1.updWave me fun w => { w with v := [(2 * 64, v)] }
      let f := ln 8 0x42 2 (some n32)
      let e := (Instr.waitc f).extL f
      let h := s.how me e.byte (e.mod.extractLsb' 0 2) { atomic := true }
      let act := s.active me e.gsense e.guard
      let as := atomAccs f act 4 (s.wave me)
      let rs := s.sortAccs me h as
      let bs := ((s.fillCore me (as.map fun a => a.addr) false).readAccs me (fun _ => h) [] rs).1
      (s.ready me && (s.staleFlow me h act).isNone && misLanes as == 0 && !(as.any fun a => isWindow a.addr) && resolve rs && bs.length == 1,
        bs.all fun r => match r.2 with | .data b false => waitCond 0 32 (leNat b) v.toNat | _ => false)) = [(true, true), (true, false)] := by
  decide +kernel

/-- An image of 4 × 4 one-byte texels in team scratch, whose descriptor lies at scratch offset 0. -/
def imaged : State := { lane1 with mem := ((natBytes 8 0xFC00000000000040 ++ [4, 0, 4, 0, 4, 0, 0, 0] : List Byte).zipIdx.foldl (fun (m : Mem) x => m.put (scratchLoc 0 x.2) x.1) lane1.mem) }
/-- Images: descriptors read for TEX and for TLD and IMGST; texels inside the image, all of which resolve. -/
theorem test_w_images : imaged.ready me = true ∧
    (let f := ln 4 8 4 (some e0)
     match imaged.descriptorAt me ((imaged.wave me).g64 4) true, imaged.descriptorAt me ((imaged.wave me).g64 4) false with
     | some (t, d), some (t', d') =>
       let c := t.ctx 0
       let pts := d.samples (texCoord c.flush 0) (texCoord c.flush 0)
       let ps := (d'.at? 0 0).map fun x => d'.texel 0 x.1 x.2
       (t.gather me { pol := (Instr.tex f).extL f |>.mod.extractLsb' 0 2 } (pts.filterMap fun p => p.1.map fun x => d.texel 0 x.1 x.2)).all.isSome &&
         ps.isSome && (t'.gather me {} ps.toList).all.isSome && !(t'.frag me).again && resolve (t'.sortAccs me { wr := true } ps.toList)
     | _, _ => false) = true := by decide +kernel

/-- Lane 0 with stream f1 open on scratch: direct, at its start or its end, or indirect with an index list of zeros. -/
def streaming (pos : Word) (ind : Bool) : State := lane1.updWave me fun w =>
  { w with streams := [(64, { isOpen := true, indirect := ind, fmt := 6, a := 0xFC00000000000000, b := 0xFC00000000000000, bound := 4, pos := pos })] }
/-- Streams: openings in range; SADV of a direct and an indirect stream; STEND, SRD and SWR of a stream at its start and at its end. -/
theorem test_w_streams : lane1.ready me = true ∧ (4 : Word).toNat ≠ sentinel ∧ (0xFC00000000000000 : Addr).toNat % 4 = 0 ∧
    ([streaming 0 false, streaming 4 false, streaming 0 true].all fun s =>
      let wv := s.wave me
      s.ready me && (advances me wv 1 (fun _ => 1) [0] s).isSome &&
      (let z := s.findElems me 1 1
       z.x.any == 0 && z.rest == 0 &&
         (match (z.s.gatherStrm me 1 (elemAccs z.elems)).all with
          | some (t, bs) => (finishStream (t.gives me {} false bs fun l x => laneKeys l (loadWords 6 false 8 x)) me 1 e0 z.elems {} 0).2.any == 0
          | none => false) &&
         (let rs := z.s.sortAccs me { wr := true } (elemAccs z.elems)
          resolve rs && (finishStream ((z.s.fillCore me (rs.map fun r => r.1.addr) true).storeAccs me (wv.strmHow 1 true) false
            (rs.map fun r => (r, [0, 0, 0, 0]))) me 1 e0 z.elems {} 0).2.any == 0))) = true ∧
    (let s := (streaming 0 false).updWave me fun w => { w with streams := [(64, { isOpen := true, fmt := 7 })] }
     let wv := s.wave me
     s.ready me = true ∧ wv.pairBad 1 1 false 3 = true ∧ wv.pairBad 1 1 false 4 = false ∧ wv.pairBad 1 1 true 6 = false) := by decide +kernel

/-- A team that owns tiles 0 and 1, of 4 rows of 4 bytes each. -/
def tiled : State := scratchBase.updTeam 0 fun t => { t with desc := { t.desc with mtiles := 2 } }
/-- TileMoves: an owned tile at its origin and at the highest position, not in use and not about to be written. -/
theorem test_w_tiles : tiled.ready me = true ∧ tiled.whole me 5 = true ∧ tiled.owns me 1 = true ∧ tiled.owns me 2 = false ∧
    tiled.tileUsed 0 0 = false ∧ tiled.tileWritten 0 0 = false ∧ tiled.invOf 0 0 = 0 ∧ tiled.active me false 0 ≠ 0 ∧
    ([(0 : Word), 0xFFF003FF].all fun p => p.toNat / 1024 % 64 == 0 && p.toNat / 65536 % 16 == 0) = true ∧
    tiled.mem.poison.get? (tileLoc 0 0 0) = none := by decide +kernel

/-! ## The hypotheses of every statement are met (uniform, control, traps, synchronisation) -/

/-- An instruction issues for the probe's fragment in s, with its uniform guard true: the premise `runs`. -/
def runs (s : State) (i : Instr) (f : UForm) : Bool := s.holds me && (s.wave me).uguard (i.extU f)
/-- The fragment waits in SYNCWAIT for k: the premise `waitsFor`. -/
def waits (s : State) (k : WaitKind) : Bool := (s.frag me).st == .syncwait && (s.frag me).wait.kind == k
/-- The probe's fragment waits for k with number n, ready or not. -/
def waiting (s : State) (k : WaitKind) (n : Nat) (ready : Bool) : State :=
  s.updFrag me fun f => { f with st := .syncwait, wait := { kind := k, n := n, ready := ready } }

/-- UniformArithmetic: a guard that is true, one that is false, and the last registers. -/
theorem test_w_uniform : probe.ready me = true ∧ (probe.wave me).uguard ((Instr.gadd (un 1 2 3)).extU (un 1 2 3)) = true ∧
    0 < fmtBits ((Instr.gadd (un 1 2 3)).extU (un 1 2 3)).fmt.toNat ∧ probe.holds me = true ∧
    (probe.wave me).uguard ((Instr.gadd (un 1 2 3 (some { i32 with guard := 1 }))).extU (un 1 2 3 (some { i32 with guard := 1 }))) = false ∧
    (63 < 64) := by decide +kernel
/-- UniformBranches: an aligned target of JMPI, and links that agree for RET. -/
theorem test_w_branches : lane1.ready me = true ∧ (lane1.wave me).uguard ((Instr.jmpi (un 0 2 0)).extU (un 0 2 0)) = true ∧
    ((lane1.wave me).g64 2).toNat % 4 = 0 ∧ (lane1.frag me).mask ≠ 0 ∧
    ((lanesOf (lane1.frag me).mask).all fun l => (lane1.wave me).v64 l ((lane1.wave me).vregs - 2) == 0) = true := by decide +kernel
/-- A core whose free entries are all reserved for a wave that waits, so that none is free for a split (R125). -/
def fullTable (s : State) : State := s.updCore 0 fun c => { c with entryWaiters := [1], resv := List.range 511 }
/-- BranchSplits: lanes that agree on either side; a split with a free entry, without one, and with all frames used. -/
theorem test_w_splits :
    let at_ (s : State) (p : Mask) : State := s.updWave me fun w => { w with p := [(1, p)] }
    let taken (s : State) : Mask := maskOf fun l => (s.frag me).mask.getLsbD l && ((s.wave me).pred l 1 != false)
    let full := fullTable (at_ probe 5)
    let deep := full.updFrag me fun f => { f with frames := List.replicate 8 {} }
    (at_ probe 5).ready me = true ∧ (probe.frag me).trap = none ∧ taken (at_ probe (BitVec.allOnes 64)) = (probe.frag me).mask ∧
    taken (at_ probe 0) = 0 ∧ (probe.frag me).mask ≠ 0 ∧ taken (at_ probe 5) = 5 ∧ ((at_ probe 5).core 0).freeEntry = some 1 ∧
    full.ready me = true ∧ (full.core 0).freeEntry = none ∧ (full.core 0).framesUsed 0 = 0 ∧
    (deep.ready me = true ∧ (deep.core 0).freeEntry = none ∧ (deep.core 0).framesUsed 0 = 8 ∧ taken deep = 5) := by decide +kernel
/-- Reconvergence: alone without frames, in trap mode, with a frame not yet run and one that has joined, and beside another fragment. -/
theorem test_w_reconvergence :
    let framed (f : Frame) : State := probe.updFrag me fun x => { x with frames := [f] }
    let pair := probe.updWave me fun w => { w with order := [0, 1] }
    ([probe, framed {}, framed { joinset := true, join := 0x1000 }, pair].all fun s => s.ready me && (s.wave me).uguard ((Instr.rcv (un 0 0 0)).extU (un 0 0 0))) =
      true ∧ (probe.frag me).frames = [] ∧ (probe.wave me).order = [0] ∧ (probe.frag me).trap = none ∧
    ((framed { joinset := true, join := 0x1000 }).frag me).pc = 0x1000 ∧ ((pair.wave me).order.all (· == 0)) = false := by decide +kernel
/-- The probe with a trap record. -/
def trapped (r : TrapRec) : State := probe.updFrag me fun f => { f with st := .trap, trap := some r }
/-- A privileged wave on a core under self-test. -/
def priv : State := (probe.updWave me fun w => { w with priv := true }).updCore 0 fun c => { c with mode := .selfTest }
/-- NopExitYield: EXIT in and out of trap mode, of a fragment with frames; YLD of a team that runs on and of one that is asked; IDR with and
without the privilege. -/
theorem test_w_exit : probe.ready me = true ∧ (trapped { saveg := [1, 2, 3, 4] }).ready me = true ∧ (probe.frag me).trap = none ∧
    ((trapped { saveg := [1, 2, 3, 4] }).frag me).trap = some { saveg := [1, 2, 3, 4] } ∧
    priv.ready me = true ∧ (priv.wave me).priv = true ∧ (priv.core 0).mode ≠ .service ∧ priv.whole me 5 = true ∧ (probe.wave me).priv = false ∧ probe.asked 0 = false ∧
    (let s := probe.updTeam 0 fun t => { t with preempt := true }
     s.ready me = true ∧ (s.wave me).uguard ((Instr.yld (un 0 0 0)).extU (un 0 0 0)) = true ∧ s.asked 0 = true ∧ (s.frag me).trap = none ∧
       ((s.wave me).streams.any fun x => x.2.isOpen) = false) ∧
    ((probe.updFrag me fun f => { f with frames := [{}] }).frag me).frames = [{}] := by
  decide +kernel
/-- TrapInstructions: with and without an attached debugger; words that no map assigns, of the lane and of the uniform set. -/
theorem test_w_trap_instructions : probe.ready me = true ∧ (probe.ctx 0).dbg.attach = false ∧
    ((probe.updCtx 0 fun c => { c with dbg := { c.dbg with attach := true } }).ctx 0).dbg.attach = true ∧ probe.cur = some (0, 0) ∧
    probe.whoAt 0 0 = me ∧ (probe.frag me).budget ≠ 0 ∧ wordUni 0x8A000004 = true ∧ uniMap (wordMajor 0x8A000004) 4 = none ∧
    wordUni 0x1F000000 = false ∧ laneMap (wordMajor 0x1F000000) 0 = none := by decide +kernel
/-- TrapEntry: a handler is set, and the fragment is not in trap mode. -/
theorem test_w_trap_entry : (18 : Nat) ≠ 9 ∧ (probe.frag me).trap = none ∧ ((probe.updCtx 0 fun c => { c with trappc := 1 }).ctx 0).trappc ≠ 0 := by decide +kernel
/-- TrapReturn: each action, with lanes to retry and without. -/
theorem test_w_trap_return : ([0, 1, 2, 3].all fun a =>
      let r : TrapRec := { action := BitVec.ofNat 2 a, saveg := [1, 2, 3, 4], instr := 0x36088818, lanes := 1 }
      let s := trapped r
      s.ready me && ((s.frag me).trap == some r) && (s.wave me).uguard ((Instr.exit (un 0 0 0)).extU (un 0 0 0)) && r.saveg.length == 4 &&
        r.action.toNat == a) = true ∧ isMemWord 0x36088818 = true := by decide +kernel
/-- WatchdogAndFatalTraps: BUDGET 0; and each of the three causes. -/
theorem test_w_fatal : ((Instr.nop (un 0 0 0)).uses matches .uni _ _) ∧
    ((probe.updFrag me fun f => { f with budget := 0 }).frag me).budget = 0 ∧ (probe.frag me).again = false ∧
    ((trapped {}).frag me).trap.isSome = true ∧ (probe.ctx 0).trappc = 0 ∧ (priv.wave me).priv = true ∧ (probe.wave me).priv = false := by
  refine ⟨rfl, ?_⟩
  decide +kernel
/-- FloatTraps: 1 + 2^-24 under NX enabled, and a fused multiply-add under class 9. -/
theorem test_w_float_traps :
    let s := (small [(64, 0x3F800000), (128, 0x33800000)] []).updWave me fun w => { w with fpmode := 0x100 }
    let e := (Instr.fadd (ln 4 1 2 (some fp))).extL (ln 4 1 2 (some fp))
    let n := s.fenv me e.rnd e.sat
    let outs := s.outsOf me e fun l => rounded n fp32 4 l
      (addV (fltSrc n fp32 (s.wave me) false l 1) (fltSrc n fp32 (s.wave me) false l 2) n.zneg)
    let t := probe.updCtx 0 fun c => { c with legmask := BitVec.ofNat 16 (2 ^ 9) }
    s.ready me = true ∧ (s.ctx 0).legmask = 0 ∧ (maskOf fun l => outs.any fun o => o.1 == l && (o.2.fl &&& (s.wave me).enables) != 0) = 1 ∧
    t.ready me = true ∧ (t.ctx 0).legmask = 2 ^ 9 ∧ t.active me false 0 ≠ 0 := by decide +kernel
/-- BarriersAndFences: arrivals, of which all have come or not; fences that begin, are ready and are not. -/
theorem test_w_barriers :
    let f := un 0 0 0
    let s := waiting probe .barrier 0 true
    let ws := (s.barrierTeams 0 0).flatMap s.wavesOf
    probe.ready me = true ∧ (probe.wave me).uguard ((Instr.bar f).extU f) = true ∧
    probe.stale me (probe.capture me (scopeOf ((Instr.bar f).extU f).byte)) true (probe.frag me).mask = none ∧
    (ws.length = 1 ∧ (ws.all fun p => ((s.core p.1).fragsOf p.2).all fun x =>
        x.2.st == .syncwait && x.2.wait.kind == .barrier && x.2.wait.n == 0 && x.2.wait.m == 0 && x.2.wait.ready) = true ∧
      (ws.flatMap fun p => ((s.core p.1).wave p.2).order.map fun e => (p.1, e)).Nodup) ∧
    (let ws := (probe.barrierTeams 0 0).flatMap probe.wavesOf
     (ws.all fun p => ((probe.core p.1).fragsOf p.2).all fun x => x.2.st == .syncwait) = false) ∧
    ([0x24, 0x44, 0x84].all fun b =>
      let f := un 0 0 0 (some { e0 with byte := b })
      let e := (Instr.fence f).extU f
      runs probe (.fence f) f && !(probe.frag me).again &&
        (probe.stale me (probe.capture me (scopeOf e.byte)) (ordRel (ordOf e.byte)) (probe.frag me).mask).isNone) = true ∧
    (ordRel (ordOf (0x24 : BitVec 8)) = false ∧ ordRel (ordOf (0x44 : BitVec 8)) = true ∧ (probe.capture me 3).set.holds (.core 0) = true ∧
      5 ≤ (probe.capture me 5).index) ∧
    ([true, false].all fun r => let s := waiting probe .fence 3 r
      runs s (.fence f) f && waits s .fence && (s.frag me).wait.ready == r) = true := by decide +kernel
/-- BindingsAndScopes: a binding in range and at each bound; waits that are ready; the privilege of SCOPESET; tasks in range and past it. -/
theorem test_w_bindings :
    let f : UForm := un 2 4 6 (some { e0 with src3 := 8 })
    let bind (n len hi : Word) : State := probe.updWave me fun w => { w with g := [(2, n), (5, hi), (6, len)] }
    let ok (s : State) : Bool := runs s (.bind f) f && !(s.frag me).again
    let n (s : State) : Nat := ((s.wave me).greg 2).toNat
    let len (s : State) : Nat := ((s.wave me).g64 6).toNat
    (ok (bind 255 1 0) && n (bind 255 1 0) == 255 && len (bind 255 1 0) == 1 &&
      (probe.stale me (probe.capture me (scopeOf (0 : BitVec 8))) false (probe.frag me).mask).isNone) = true ∧
    (ok (bind 256 1 0) && n (bind 256 1 0) == 256 && ok (bind 0 0 0) && len (bind 0 0 0) == 0) = true ∧
    ([WaitKind.binding, .scopeUpdate, .scopeSync, .reply].all fun k => runs (waiting probe k 1 true) (.scopesync (un 0 0 0)) (un 0 0 0) && waits (waiting probe k 1 true) k) = true ∧
    (probe.wave me).priv = false ∧ (priv.wave me).priv = true ∧ (probe.ctx 0).scopeUpd = [] ∧
    (let s := probe.updCtx 0 fun c => { c with scopeUpd := [{ id := 7 }] }
     runs s (.scopesync (un 0 0 0)) (un 0 0 0) = true ∧ (s.ctx 0).scopeUpd = [{ id := 7 }]) ∧
    ([(4095, 65535), (4095, 65536), (4096, 0)].all fun p =>
      let s := probe.updWave me fun w => { w with g := [(2, BitVec.ofNat 32 p.1), (4, BitVec.ofNat 32 p.2)] }
      runs s (.expect (un 0 2 4)) (un 0 2 4) && ((s.wave me).greg 2).toNat == p.1 && ((s.wave me).greg 4).toNat == p.2) = true ∧
    runs probe (.role (un 1 29 0)) (un 1 29 0) = true := by decide +kernel
/-- SCOPESET in a privileged wave reads an image of a scope in scratch, aligned and with nothing reserved set. -/
theorem test_w_scopeset :
    let t := (priv.updWave me fun w => { w with g := [(1, 0xFC000000), (2, 63)] }).updCtx 63 fun c => { c with st := .active }
    let s : State := { t with mem := t.mem.put (scratchLoc 0 16) 5 }
    let f := un 0 0 2
    runs s (.scopeset f) f = true ∧ (s.wave me).priv = true ∧ ((s.wave me).g64 0).toNat % 64 = 0 ∧ ((s.wave me).greg 2).toNat = 63 ∧
    (match s.object me ((s.wave me).g64 0) 64 with | some (t, x) => scopeImageOk x && (t.ctx 63).st == .active | none => false) = true := by
  decide +kernel

/-! ## The hypotheses of every statement are met (special registers, teams, segments, engines' commands) -/

/-- An MFS or MTS of register n and g2. -/
def ofReg (n : Nat) : UForm := un 2 (BitVec.ofNat 6 (n / 64)) (BitVec.ofNat 6 (n % 64))
/-- SpecialRegisters: every number, in and out of privilege and trap mode; values at the bounds of each writable register; the last tile. -/
theorem test_w_special :
    ([0x010, 0x016, 0x018, 0x01A, 0x020, 0x022, 0x028, 0x029, 0x030, 0x031, 0x032, 0x040, 0x100, 0x11F].all fun n =>
      (ofReg n).srn == n && runs probe (.mfs (ofReg n)) (ofReg n) && runs probe (.mts (ofReg n)) (ofReg n)) = true ∧
    runs priv (.mfs (ofReg 0x022)) (ofReg 0x022) = true ∧ (priv.wave me).priv = true ∧ (probe.wave me).priv = false ∧
    (runs (trapped {}) (.mfs (ofReg 0x040)) (ofReg 0x040) = true ∧ ((trapped {}).frag me).trap = some {} ∧ (probe.frag me).trap = none) ∧
    ((5 : Word).toNat % 8 < 6 ∧ (0x1F05 : Word).toNat / 8 % 32 = 0 ∧ (0x1F05 : Word).toNat < 2 ^ 13) ∧
    (let s := probe.updTeam 0 fun t => { t with desc := { t.desc with mtiles := 32 } }
     (s.team 0).desc.mtiles > 31 ∧ s.tileWritten 0 31 = false ∧ s.tileUsed 0 31 = false ∧ runs s (.mts (ofReg 0x11F)) (ofReg 0x11F) = true) := by
  decide +kernel

/-- Team scratch with bytes from its start, in the lane-0 probe: g0:g1 names them. -/
def stored (bs : List Byte) (s : State) : State := { s with mem := bs.zipIdx.foldl (fun (m : Mem) x => m.put (scratchLoc 0 x.2) x.1) s.mem }
/-- A team descriptor of one 4-lane wave with VREGS 1 (Table 5.1): entry 0x1000. -/
def teamDesc : List Byte := natBytes 24 0x1000 ++ natBytes 8 (1 + 2 ^ 8 + 2 ^ 24 + 2 ^ 27)
/-- A store to the peer 5 under PASID 6. -/
def op0 : FabOp := { stream := { peer := 5, pasid := 6 }, ppasid := 0, epoch := 0, num := 0, kind := .store, release := false, addr := 0x1000, len := 1, data := [1] }
/-- It has been sent and not acknowledged. -/
def sent0 : SentOp := { op := op0, port := 0, sent := true, waiter := none, launch := none, ctx := 0 }
/-- The probe's context waits for a peer's acknowledgement. -/
def owing (s : State) : State := { s with fab := { s.fab with src := [{ id := { peer := 5, pasid := (s.ctx 0).pasid }, ops := [sent0] }] } }
/-- What ENQ reads at g0:g1: the state after its acquire, and the descriptor. -/
def described (s : State) : Option (State × Nat) :=
  let a := (s.wave me).g64 0
  let h : How := { uni := true, pol := 2, order := 1, cap := s.capture me 4 }
  let rs := s.sortAccs me h [{ lane := 0, addr := a, n := 64 }]
  (s.gatherPlaced me (fun _ => h) false rs).all.map fun x => (x.1.acquireAll me h (readOf rs x.2), valAt x.2 0 0)
/-- TeamsFromInstructions: a good descriptor with a counter at its bounds; a misaligned one and one that is bad; acknowledgements that are
owed and not, before the post and at its wait. -/
theorem test_w_teams :
    ([(1, 2 ^ 48 - 2), (2, 2 ^ 48 - 1)].map fun p =>
      let s : State := { stored teamDesc lane1 with launches := [(0, { lane1.launch 0 with counter := p.2 })] }
      match described s with
      | some (u, img) =>
        (runs s (.enq (un 0 0 0)) (un 0 0 0) && s.ready me && ((s.wave me).g64 0).toNat % 64 == 0 && descOk img (u.launch 0).lanepriv none &&
            !u.mustWait me (s.capture me 4),
          decide (((u.drain me (s.capture me 4)).launch 0).counter + (descOf img).teams ≤ 2 ^ 48 - 1))
      | none => (false, false)) = [(true, true), (true, false)] ∧
    (match described lane1 with | some (_, img) => descOk img 0 none | none => true) = false ∧
    (match described (owing (stored teamDesc lane1)) with
     | some (u, img) => u.mustWait me ((owing (stored teamDesc lane1)).capture me 4) && descOk img 0 none | none => false) = true ∧
    (let s := waiting probe .post 0 false
     runs s (.enq (un 0 0 0)) (un 0 0 0) = true ∧ waits s .post = true ∧ s.mustWait me (s.frag me).wait.cap = false) ∧
    (let s := owing ((waiting probe .post 0 false).updFrag me fun f => { f with wait := { f.wait with cap := probe.capture me 4 } })
     waits s .post = true ∧ s.mustWait me (s.frag me).wait.cap = true) ∧
    (let s := lane1.updWave me fun w => { w with g := [(0, 4), (1, 0xFC000000)] }
     ((s.wave me).g64 0).toNat % 64 ≠ 0 ∧ s.ready me = true) := by decide +kernel

/-- The probe's context with one segment, named 5, under handle 3; g0:g1 names it and g2 holds the handle. -/
def seg (g : Seg) : State := (probe.updCtx 0 fun c => { c with segs := [(3, { g with name := 5 })] }).updWave me fun w => { w with g := [(0, 5), (2, 3)] }
/-- The same, attached by the team n times over. -/
def attached (n : Nat) : State := (seg { st := .resident, size := 64, level := 2, home := 0x8000, attach := 1 }).updTeam 0 fun t =>
  { t with attach := [{ handle := 3, name := 5, nest := n }] }
/-- What SEGATT's request comes to, by kind. -/
def segKind (o : SegOut) : Nat × Nat := match o with | .attached _ h => (0, h) | .wait _ => (1, 0) | .segmiss c => (2, c) | .nestFull h => (3, h)
/-- SegmentInstructions: each answer of the directory to an attach. -/
theorem test_w_segatt :
    let ask (s : State) (ld : Bool) : Nat × Nat := segKind (s.dirOp.segAttach 0 ((s.wave me).g64 0) ld 1 (0, 0, 0))
    runs (attached 1) (.segattLd (un 2 0 0)) (un 2 0 0) = true ∧ ((attached 1).frag me).again = false ∧
    ask probe true = (2, 0) ∧ ask (seg { dying := true }) true = (2, 0) ∧ ask (attached 254) true = (0, 3) ∧ ask (attached 255) true = (3, 3) ∧
    ask (seg { level := 1 }) true = (2, 4) ∧
    ask ((seg {}).updTeam 0 fun t => { t with attach := List.replicate 8 { handle := 9, name := 9, nest := 1 } }) true = (2, 5) ∧
    ask (seg { busy := true }) true = (1, 0) ∧ ask (seg {}) true = (2, 0) ∧ ask (seg { st := .evicted }) false = (2, 1) ∧
    ask (seg { st := .resident, size := 64, level := 2, home := 0x8000 }) true = (0, 3) := by decide +kernel
/-- SegmentInstructions: the premises of the directory's rules, and of SEGDET and SEGPIN. -/
theorem test_w_segments :
    let s := seg { st := .resident, size := 64, level := 2, home := 0x8000 }
    s.segFind 0 5 = some 3 ∧ probe.segFind 0 5 = none ∧ (s.seg 0 3).home = (s.teamHome 0 2).1 ∧ (s.team 0).attach = [] ∧
    (let t := (seg { st := .resident, level := 1 }).updTeam 0 fun t => { t with desc := { t.desc with ccols := 2 } }
     1 < (t.team 0).desc.crows * (t.team 0).desc.ccols ∧ (t.teamHome 0 1).2.1 = 2) ∧
    runs (attached 1) (.segdet (un 0 2 0)) (un 0 2 0) = true ∧
    ((attached 1).team 0).attach.any (fun a => a.handle == (((attached 1).wave me).greg 2).toNat) = true ∧
    (s.team 0).attach.any (fun a => a.handle == ((s.wave me).greg 2).toNat) = false ∧
    (let t := waiting (attached 1) .drain 3 true
     runs t (.segdet (un 0 2 0)) (un 0 2 0) = true ∧ waits t .drain = true ∧ (t.frag me).wait.ready = true) ∧
    runs s (.segpin (un 0 0 0)) (un 0 0 0) = true ∧ (s.seg 0 3).leaving = false ∧ (attached 1).ready me = true ∧
    ([(false, true), (true, true), (true, false)].all fun p =>
      let t := (waiting (attached 1) .segment 0 p.1).updFrag me fun f => { f with wait := { f.wait with ok := p.2 } }
      runs t (.segattLd (un 2 0 0)) (un 2 0 0) && waits t .segment && (t.frag me).wait.ready == p.1 && (t.frag me).wait.ok == p.2) = true := by
  decide +kernel

/-- A team whose copy role c0 and Indigo role are bound. -/
def bound : State := probe.updTeam 0 fun t => { t with roles := [(29, 0x5000), (30, 0x6000)] }
/-- CopiesAndTasks: a channel with room and none bound; counts reached, and at the distance from which they are not. -/
theorem test_w_copies :
    let f := un 4 8 0
    let cap := bound.jobCap me ((Instr.cpygo f).extU f).byte
    let owed := owing bound
    let g := un 6 4 0
    let at_ (n : Word) : State := bound.updWave me fun w => { w with g := [(4, n)] }
    runs bound (.cpygo f) f = true ∧ bound.ready me = true ∧ cap.set.valid = true ∧ bound.mustWait me cap = false ∧
    bound.copyRole me .post 0 = some 0 ∧ probe.copyRole me .post 0 = none ∧ (bound.postDrain me cap).chanFull 0 0 = false ∧
    (owed.ready me = true ∧ owed.mustWait me (owed.jobCap me 4) = true ∧ (owed.jobCap me 4).set.valid = true) ∧
    (let s := waiting bound .post 0 true
     runs s (.cpygo f) f = true ∧ waits s .post = true ∧ (s.frag me).wait.ready = true) ∧ bound.copyRole me .copy 0 = some 0 ∧
    runs bound (.cpywt g) g = true ∧ ((Instr.cpywt g).extU g).mod.getLsbD 2 = false ∧
    (((at_ 0).chan 0 0 0).done - ((at_ 0).wave me).greg 4).toNat < 2 ^ 31 ∧
    2 ^ 31 ≤ (((at_ 1).chan 0 0 0).done - ((at_ 1).wave me).greg 4).toNat ∧
    (let h := un 6 4 0 (some { e0 with byte := 2, mod := 4 })
     runs bound (.cpywt h) h = true ∧ ((Instr.cpywt h).extU h).mod.getLsbD 2 = true) ∧
    (let s := waiting bound .copy 0 false
     runs s (.cpywt g) g = true ∧ waits s .copy = true ∧ ((s.chan 0 0 0).done - BitVec.ofNat 32 (s.frag me).wait.m).toNat < 2 ^ 31) ∧
    (let s := (waiting bound .copy 0 false).updFrag me fun f => { f with wait := { f.wait with m := 1 } }
     waits s .copy = true ∧ 2 ^ 31 ≤ ((s.chan 0 0 0).done - BitVec.ofNat 32 (s.frag me).wait.m).toNat) := by
  decide +kernel
/-- CopiesAndTasks: TASKPOST and its answer; tasks that are idle and armed, the last one and one past it. -/
theorem test_w_tasks :
    let f := un 1 2 0
    let at_ (n : Nat) (st : TaskSt) : State := (probe.updCtx 0 fun c => { c with tasks := [(4095, { st := st })] }).updWave me fun w =>
      { w with g := [(2, BitVec.ofNat 32 n)] }
    runs probe (.taskpost f) f = true ∧ probe.ready me = true ∧ (probe.jobCap me ((Instr.taskpost f).extU f).byte).set.valid = true ∧
    probe.mustWait me (probe.jobCap me ((Instr.taskpost f).extU f).byte) = false ∧ (owing probe).mustWait me ((owing probe).jobCap me 4) = true ∧
    runs (waiting probe .post 0 true) (.taskpost f) f = true ∧ waits (waiting probe .post 0 true) .post = true ∧ waits (waiting probe .task 0 false) .task = true ∧
    (let s := waiting probe .task 0 true
     runs s (.taskpost f) f = true ∧ waits s .task = true) ∧
    ([(4095, TaskSt.idle), (4095, .armed), (4096, .idle)].all fun p => let s := at_ p.1 p.2
      runs s (.taskwt f) f && !(s.frag me).again && ((s.wave me).greg 2).toNat == p.1 && ((s.ctx 0).tasks.getD 4095 {}).st == p.2) = true ∧
    (let s := waiting probe .taskDone 4095 false
     runs s (.taskwt f) f = true ∧ waits s .taskDone = true ∧ (s.frag me).wait.n < 4096 ∧ ((s.ctx 0).tasks.getD 4095 {}).st = .idle) := by
  decide +kernel

/-- A team that owns two tiles; tile 0 has an INV state. -/
def matrixTeam (inv : Nat) : State := probe.updTeam 0 fun t => { t with desc := { t.desc with mtiles := 2 }, inv := [(0, inv)] }
/-- MatrixInstructions: owned tiles that are readable, a tile that is not owned, tiles whose INV is 1 and 2, a table with room, and
acknowledgements that are owed. -/
theorem test_w_matrix :
    ((matrixRows (matrixTeam 0) me (un 1 0 0)).all fun x =>
      let s := matrixTeam 0
      let cap := s.jobCap me ((x.make (un 1 0 0)).extU (un 1 0 0)).byte
      runs s (x.make (un 1 0 0)) (un 1 0 0) && !(s.frag me).again && s.ready me && x.named.all (fun n => decide (n < 2)) && s.invOf 0 0 == 0 && s.invOf 0 1 == 0 &&
        cap.set.valid && !s.mustWait me cap && !(if x.req.scoped then s.postDrain me cap else s).tableFull 0) = true ∧
    (let s := owing (matrixTeam 0)
     s.mustWait me (s.jobCap me 4) = true ∧ (s.jobCap me 4).set.valid = true ∧ s.ready me = true) ∧
    ((matrixRows (matrixTeam 0) me (un 2 0 0)).all fun x => runs (matrixTeam 0) (x.make (un 2 0 0)) (un 2 0 0) && x.named.any fun n => decide (2 ≤ n)) = true ∧
    ([1, 2].all fun v => let s := matrixTeam v
      [0].find? (fun n => s.owns me n && s.invOf 0 n != 0) == some 0 && s.invOf 0 0 == v) = true ∧
    (let f := un 20 0 0
     let pend (id : Nat) : State := ({ probe with nextId := 1 } : State).updQuartet 0 fun q => { q with table := [{ id := id, team := 0, launch := 0, ctx := 0, op := .mzero }] }
     runs probe (.mwait f) f = true ∧ (probe.scopeCap me ((Instr.mwait f).extU f).byte).set.valid = true ∧ probe.requestsOf 0 = [] ∧
     ((pend 0).requestsOf 0).any (fun r => decide (r.id < (pend 0).nextId)) = true ∧
     runs (waiting probe .matrix 0 false) (.mwait f) f = true ∧ waits (waiting probe .matrix 0 false) .matrix = true) := by decide +kernel
/-- Queries: a quartet with room, no role, and a count that is reached, not reached and waited for. -/
theorem test_w_queries :
    let f := un 10 12 14
    let g := un 11 10 0
    let at_ (n : Word) : State := bound.updWave me fun w => { w with g := [(10, n)] }
    let got (s : State) : Nat := (BitVec.ofNat 32 (s.team 0).qDone - (s.wave me).greg 10).toNat
    runs bound (.rayq f) f = true ∧ bound.ready me = true ∧ bound.mustWait me (bound.jobCap me ((Instr.rayq f).extU f).byte) = false ∧
    (bound.jobCap me ((Instr.rayq f).extU f).byte).set.valid = true ∧ (owing bound).mustWait me ((owing bound).jobCap me 4) = true ∧ (bound.team 0).roles.get? 29 = some 0x5000 ∧ (probe.team 0).roles.get? 29 = none ∧
    ((bound.postDrain me (bound.jobCap me ((Instr.rayq f).extU f).byte)).quartet 0).queue.length < 64 ∧
    runs bound (.raywt g) g = true ∧ got (at_ 0) < 2 ^ 31 ∧ 2 ^ 31 ≤ got (at_ 1) ∧ ((Instr.raywt g).extU g).mod.getLsbD 2 = false ∧
    (let s := waiting bound .ray 0 false
     runs s (.raywt g) g = true ∧ waits s .ray = true) := by decide +kernel

/-! ## The hypotheses of every statement are met (mesh, atlas, the machine as a whole) -/

/-- A pipeline descriptor of one pixel (Table 11.1), whose mesh descriptor follows it. -/
def pipeDesc : List Byte := natBytes 24 0xFC00000000000080 ++ natBytes 104 (1 + 2 ^ 16 + 2 ^ 32) ++ teamDesc
/-- Lane 0 with that descriptor at g0:g1, a payload at g2:g3, and its size and count in g16 and g17. -/
def payw (size n : Word) : State := (stored pipeDesc lane1).updWave me fun w =>
  { w with g := [(1, 0xFC000000), (2, 0x100), (3, 0xFC000000), (16, size), (17, n)] }
/-- MeshInstructions: PAYW of no payload and of 16 bytes, at its greatest count; with a free slot and with all held; a size at its bound. -/
theorem test_w_payw :
    let f := un 1 0 2 (some { e0 with src3 := 16 })
    ([((0 : Word), (1 : Word)), (0, 65535), (16, 1)].all fun p =>
      let s := payw p.1 p.2
      let d := (s.wave me).g64 0
      let pay := (s.wave me).g64 2
      runs s (.payw f) f && d.toNat % 128 == 0 && pay.toNat % 16 == 0 && (s.winLoc 0 none pay p.1.toNat).isSome &&
      (match s.pipeline me d with
       | some (t, _) =>
         let u := t.updDie 0 fun x => { x with slots := x.slots.set 0 { held := true, taker := some (0, 0, 0) } }
         ((s.die 0).takenBy 0 0).isNone && ([0, 1, 2, 3].find? fun k => ((t.die 0).slots.get? k).isNone) == some 0 &&
           t.firstWaiter 0 (t.ctx 0).prio.toNat t.nextId && !(u.hindered 0 fun q => q.slot == 0) && (u.die 0).takenBy 0 0 == some 0 &&
           ((u.storesDone me).block me 1 pay p.1.toNat).isSome && (t.frag me).st != .syncwait
       | none => false)) = true ∧
    ([0, 1, 2, 3].find? fun k => (Tbl.get? ((List.range 4).map fun k => (k, ({ held := true } : PaySlot))) k).isNone) = none ∧
    (let s := probe.updTeam 0 fun t => { t with desc := { t.desc with teamscr := 20 } }
     (s.winLoc 0 none 0xFC00000000000000 16384).isSome) = true := by decide +kernel
/-- A mesh team of slot 0 of die 0, with a payload of 16 bytes. -/
def meshTeam : State := (lane1.updTeam 0 fun t => { t with mesh := some (0, 0, 0), desc := { t.desc with teamscr := 4 } }).updDie 0 fun d =>
  { d with slots := [(0, { held := true, size := 16, meshes := 1 })] }
/-- MeshInstructions: PAYR of the last word and outside a mesh team; EMIT in range, at the bounds and past them, and with a full pair. -/
theorem test_w_emit :
    let f := un 5 10 0
    let g := un 5 0 7
    let at_ (o : Word) : State := meshTeam.updWave me fun w => { w with g := [(10, o)] }
    let block (v t : Nat) : State := meshTeam.updWave me fun w => { w with g := [(1, 0xFC000000), (7, BitVec.ofNat 32 (v + 256 * t))] }
    runs (at_ 12) (.payr f) f = true ∧ ((at_ 12).team 0).mesh = some (0, 0, 0) ∧ (((at_ 12).wave me).greg 10).toNat < 16 ∧
    (probe.team 0).mesh = none ∧
    ([(0, 0), (96, 160)].all fun p =>
      let s := block p.1 p.2
      let a := (s.wave me).g64 0
      runs s (.emit g) g && a.toNat % 16 == 0 && (s.winLoc 0 none a 2176).isSome && ((s.wave me).greg 7).toNat % 256 == p.1 &&
        ((s.wave me).greg 7).toNat / 256 % 256 == p.2 && !((List.range 8).any fun d => decide (256 ≤ (s.die 0).inFlight d))) = true ∧
    ((block 0 0).hindered 0 fun q => q.slot == 0) = false ∧ (((block 0 0).storesDone me).block me 1 0xFC00000000000000 2176).isSome = true ∧
    (96 < ((block 97 0).wave me).greg 7 % 256 ∧ 160 < ((block 0 161).wave me).greg 7 / 256 % 256) ∧
    (let x : Tri := { src := 0, dst := 0, slot := 0, launch := 0, desc := {}, number := 0, verts := [], regions := [], clipped := false, soft := false, sent := true }
     let s := (block 0 0).updDie 0 fun d => { d with tris := List.replicate 256 x }
     runs s (.emit g) g = true ∧ (s.frag me).st ≠ .syncwait ∧ ((List.range 8).any fun d => decide (256 ≤ (s.die 0).inFlight d)) = true) := by
  decide +kernel

/-- An atlas table of 16 entries at the mapped page's address 0x1100 (R299): `next` of `bound` blocks are given out, and entry 1 has a key. -/
def atlas (next bound key : Nat) : State :=
  let bs := natBytes 4 next ++ natBytes 4 bound ++ natBytes 8 4 ++ natBytes 16 0 ++ natBytes 8 key ++ natBytes 8 7
  let s := lane1.updWave me fun w => { w with g := [(0, 0x1100), (2, 1)] }
  { s with mem := bs.zipIdx.foldl (fun (m : Mem) x => m.put (0x1100 + x.2) x.1) s.mem }
/-- AtlasRequests: a key that is found, one that is entered, one for which no block is left, and a release that must wait. -/
theorem test_w_atlas :
    let f := un 3 0 2
    ([(atlas 0 1 1, 2), (atlas 0 1 0, 1), (atlas 1 1 0, 0)].all fun p =>
      let s := p.1
      let a := (s.wave me).g64 0
      let key := (s.wave me).g64 2
      runs s (.atlreq f) f && key != 0 && !isWindow a && a.toNat % 16 == 0 && !s.mustWait me (s.captured me 4) && (s.tableAt me a).isSome &&
      (match (s.releaseFor me (s.captured me 4) a).block me 2 a 16 with
       | some (t, bs) =>
         let x := leNat bs
         bitsAt x 64 4 == 4 && bitsAt x 69 59 == 0 &&
         (match t.probed me a key 16 (key.toNat % 16) 16 with
          | some (_, some (_, some g)) => p.2 == 2 && g == 7
          | some (u, some (e, none)) => (p.2 == 1) == decide (bitsAt x 0 32 < bitsAt x 32 32) && (u.tableAt me e).isSome
          | _ => false)
       | none => false)) = true ∧
    (let s := owing (atlas 0 1 1)
     s.mustWait me (s.captured me 4) = true ∧ (s.tableAt me ((s.wave me).g64 0)).isSome = true ∧ (s.frag me).st ≠ .syncwait) := by decide +kernel

/-- DecodeEncodeAgree: an encoded instruction of one word, one of two, and an unassigned encoding without a second word. -/
theorem test_w_encode : encode (.iadd (ln 5 2 3)) = some (0x0005040C, none) ∧ (Instr.iadd (ln 5 2 3)).WellFormed .largest = true ∧
    encode (.movi (li 9 0 0 0x80000000)) = some (0x24090002, some 0x80000000) ∧ (Instr.movi (li 9 0 0 0x80000000)).WellFormed .largest = true ∧
    unassignedWord 0x1F000000 = true ∧ wordX 0x1F000000 = false ∧ encode (.unassignedEncoding 0x1F000000 0) = some (0x1F000000, none) := by
  decide
/-- StepRunsDecoded: a fragment that may issue, its words fetched; and the bytes that a cold fetch reads. -/
theorem test_w_step :
    let s := State.reset.withFetchWord 32 0x0005040C
    let u : State := { s with agenda := [] }
    s.agenda = [.issue 0 0] ∧ u.mayIssue 0 0 = true ∧
    (match ({ u with cur := some (0, 0) } : State).fetch (s.whoAt 0 0) with
     | .words t x ext => reads x (ext.getD 0) (.iadd (ln 5 2 3)) && (t.wave me).shape == { vregs := 128, lanes := 64 } | _ => false) = true ∧
    (match ({ ({ State.reset.withFetchWord 64 0xE0002005040C with agenda := [] } : State) with cur := some (0, 0) } : State).fetch me with
     | .words _ x ext => refuses x (ext.getD 0) 4 | _ => false) = true ∧
    isWindow 0x1000 = false ∧ isDev 0x1000 = true ∧ 0x1000 % Config.lineBytes + 4 ≤ Config.lineBytes ∧
    (match joinTr 0x1000 4 (fun x => s.trFrag me x false) with | .ok ls => ls == locsFrom 0x1000 4 | _ => false) = true ∧
    (let t := s.fillCore me [0x1000] false
     (t.core 0).icache.get? (0x1000 / Config.lineBytes) = none ∧ (t.die 0).l2.get? (0x1000 / Config.lineBytes) = none ∧
       t.homeRead (t.tagOf 0) 0x1000 = (0x0C, false)) := by decide +kernel
/-- MemoryFormKept: a state in form that steps on. -/
theorem test_w_memory : (State.reset.withFetchWord 32 0x8A000003).mem.wf = true ∧ State.reset.mem.wf = true ∧
    (match step (State.reset.withFetchWord 32 0x8A000003) with | .next t => t.mem.wf | _ => false) = true := by decide +kernel
/-- LaneResultFrame: results of two lanes, one a register and one a predicate. -/
theorem test_w_frame :
    let outs : List (Nat × LaneOut) := [(0, { v := [(4, 1)] }), (63, { p := some (7, true) })]
    (outs.map Prod.fst).Nodup ∧ (outs.all fun o => decide (o.1 < 64)) = true := by decide

/-! ## The hypotheses of every statement are met (power, management, fabric) -/

/-- The probe with no issuer, on which an event with an input acts. -/
def ev (x : Input) : State := { probe with cur := none, inp := x }
/-- With the management plane changed. -/
def onMgmt (s : State) (f : Mgmt → Mgmt) : State := { s with mgmt := f s.mgmt }

/-- PowerAndStarts: power and each kind of warm start, resets, values of PWR_CAP at their bounds and outside, and the clock's three cases. -/
theorem test_w_power : (ev {}).mgmt.power = true ∧ (ev {}).inp.flag = false ∧ (ev {}).mgmt.authKept = none ∧
    (ev { flag := true }).inp.flag = true ∧ ((ev { val := 1, id := 1 }).inp.val % 2 = 1 ∧ (ev { val := 1, id := 1 }).inp.id % 2 = 1) := by
  decide +kernel
theorem test_w_power_kept (s : State) : (onMgmt s fun m => { m with authKept := some (sha384 m.images, true) }).mgmt.authKept =
    some (sha384 s.mgmt.images, true) := rfl
theorem test_w_power_cap :
    ([6000, 14000].all fun v => let s := ev { id := 3, val := v }
      s.inp.id % 4 == 3 && decide (6000 ≤ s.inp.val % 65536) && decide (s.inp.val % 65536 ≤ 14000)) = true ∧
    ([5999, 14001].all fun v => let s := ev { id := 3, val := v }
      decide (s.inp.val % 65536 < 6000) || decide (14000 < s.inp.val % 65536)) = true ∧ (ev { id := 8 }).inp.id % 4 = 0 ∧
    (ev {}).mgmt.pool ≤ 10000 ∧ (onMgmt (ev {}) fun m => { m with pool := 10000 }).mgmt.pool = 10000 ∧
    ((onMgmt (ev {}) fun m => { m with otherW := 12001 }).mgmt.cap.toNat = 12000 ∧ 12000 < 12001 ∧ 11499 + 500 < 12000 ∧ 12000 ≤ 11500 + 500) ∧
    (0 ≤ 64 ∧ 2 ^ 64 ≤ hostLoc 0 ∧ hostLoc 0 < 2 ^ 80) ∧ isChip (scratchLoc 0 0) = true ∧ isChip 0 = false := by decide +kernel
/-- PowerAndStarts: a core that is retired, occupied, empty and under test. -/
theorem test_w_core_modes :
    (((ev {}).updCore 1 fun c => { c with retired := true }).core 1).retired = true ∧ ((ev {}).core 0).retired = false ∧
    (ev { mode := .recovery }).inp.mode = .recovery ∧ ((ev {}).occupied 0 = true ∧ (ev {}).occupied 1 = false) ∧
    ((0, probeTeam) ∈ (ev {}).teams ∧ probeTeam.st = .resident ∧ probeTeam.core = 0) ∧
    (((ev {}).updCore 1 fun c => { c with mode := .selfTest }).core 1).mode = .selfTest ∧ (ev {}).mgmt.ready = true ∧
    ((ev {}).core 1).mode ≠ .selfTest ∧ (319 < 320) := by
  refine ⟨?_, ?_⟩
  · decide +kernel
  · decide +kernel

/-- A row of core 0. -/
def row0 : RowId := { unit := 0, array := 2, row := 9 }
/-- A row under test, with a spare to try it against or not, at a time with none or two transient errors before. -/
def testing (spare : Bool) (n : Nat) (x : Input) : State := onMgmt (ev { x with row := row0 }) fun m =>
  { m with tests := [row0], spares := if spare then [(row0, false)] else [], transients := List.replicate n (row0, 0) }
/-- ManagementAndRegisters: SPDM, each target of an ECC error, and each end of a row's test. -/
theorem test_w_management :
    (ev { item := 1 }).mgmt.power = true ∧ (ev { item := 2 }).inp.item = 2 ∧
    ([EccTarget.vectorReg 0 3 5, .uniformReg 0 5, .predicate 0 1, .uniPred 0, .streamReg 0 3 1, .splitEntry 0, .cleanCache .l1 0,
        .data [scratchLoc 0 0]].all fun t => (ev { flag := true, ecc := t }).inp.flag) = true ∧
    ([scratchLoc 0 0].all fun l => isChip l) = true ∧ (ev {}).mgmt.tests.contains row0 = false ∧
    ([(0, true, true), (1, true, true), (2, true, true), (0, false, true), (0, false, false)].all fun p =>
      let s := testing p.2.2 p.1 { flag := p.2.1, val := 1 }
      let recent := s.mgmt.transients.filter fun q => q.1 == s.inp.row && decide (s.mgmt.uptime < q.2 + 24 * 3600 * 1000000)
      s.mgmt.tests.contains s.inp.row && s.mgmt.spares.contains (s.inp.row, false) == p.2.2 && recent.length == p.1 && s.inp.flag == p.2.1 &&
        decide (s.inp.row.unit < 320)) = true := by decide +kernel
/-- ManagementAndRegisters: registers and ports; the first and last entry of each wide table. -/
theorem test_w_registers :
    ((ev {}).ctx 0).errbase = 0 ∧ (((ev {}).updCtx 0 fun c => { c with errbase := 1, cxlSeen := 1 }).ctx 0).cxlSeen.getLsbD 0 = true ∧
    ((ev {}).mgmt.cxlPorts.getD 0 {}).up = false ∧
    ((onMgmt (ev {}) fun m => { m with cxlPorts := [(0, { up := true })] }).mgmt.cxlPorts.getD 0 {}).up = true ∧
    ((ev { unit := 1, flag := true, item := 2 }).inp.unit = 1 ∧ (ev {}).mgmt.ready = true ∧
      (onMgmt (ev {}) fun m => { m with ready := false }).mgmt.ready = false) ∧
    (let x : Input := { unit := 1, item := 2, bytes := [255] }
     x.item / 65536 < 64 ∧ x.item % 65536 = 2 ∧ x.bytes = [BitVec.ofNat 8 255]) ∧
    (let x : Input := { unit := 1, item := 8, bytes := [0, 0, 0, 0] }
     x.item % 65536 = 8 ∧ ((ev x).ctx 0).st ≠ .free ∧ x.bytes.length = 4) ∧ (ev { unit := 31 }).inp.unit < 32 ∧ (ev { id := 15 }).inp.id = 15 ∧
    ([0, 1023].all fun i => decide (i < 1024) && (ev { item := 0x8000 + 16 * i, id := 255 }).inp.item == 0x8000 + 16 * i) = true ∧
    (63 < 64) ∧ (15 < 16) ∧ (ev { item := 0x10000 + 256 * 63 + 16 * 15 + 8, id := 255 }).inp.item = 0x10000 + 256 * 63 + 16 * 15 + 8 := by
  decide +kernel

/-- A flit with it. -/
def flit0 (ok : Bool) (dest : BitVec 22) : Flit :=
  { header := dest ++ (5 : BitVec 22) ++ (6 : BitVec 20) ++ (0 : Word) ++ (0 : Byte) ++ (1 : Byte) ++ (0 : BitVec 16),
    ppasid := 0, kind := .store, release := false, addr := 0x1000, data := [1], linkSeq := 0, crcOk := ok }
/-- Device 3 with port 0 in some condition. -/
def device (p : FabPort) (x : Input) : State := onMgmt (ev x) fun m => { m with devValid := true, devNum := 3, fabPorts := [(0, p)] }
/-- A source stream with an operation in some condition. -/
def sending (o : SentOp) (x : Input) : State :=
  { device { up := true } { x with stream := { peer := 5, pasid := 6 } } with fab := { src := [{ id := { peer := 5, pasid := 6 }, ops := [o] }] } }
/-- FabricEvents: flits that are bad, for another device and for this one, at 15 and 16 retries; ports up, down and retraining. -/
theorem test_w_flits :
    ([flit0 false 3, flit0 true 4, flit0 true 3].all fun f => let s := device { up := true } { flit := some f }
      s.inp.flit == some f && s.portUp 0) = true ∧ (flit0 true 4).dest ≠ 3 ∧
    ((device { up := true, run := 16 } {}).port 0).run = 16 ∧ (0 < 32 ∧ (device {} {}).mgmt.devValid = true) ∧
    ((device { up := true } {}).port 0).up = true ∧ ((device {} {}).port 0).up = false ∧ ((device { retrain := true } {}).port 0).retrain = true ∧
    (sending sent0 {}).unacked 0 = true := by decide +kernel
/-- FabricEvents: what arrives for a new stream and for one that holds an answer; acknowledgements, closes, retries and breaks. -/
theorem test_w_streams_fabric :
    (let s := device { up := true } { flit := some (flit0 true 3) }
     s.fab.dstStream op0.stream = none ∧ s.fab.dstFull = false ∧ op0.num = 0 ∧ s.dstCtx { op0 with ppasid := 9 } = none) ∧
    (let a : FabAck := { stream := op0.stream, epoch := 0, num := 0, refused := false, poisoned := false, data := [] }
     let d : DstStream := { id := op0.stream, begun := true, acks := [a] }
     let s : State := { device { up := true } { flit := some (flit0 true 3), ack := some a } with fab := { dst := [d] } }
     s.fab.dstStream op0.stream = some d ∧ op0.epoch = d.epoch ∧ notAfter op0.num d.last = true ∧ d.acks.find? (fun (a : FabAck) => a.num == op0.num) = some a ∧
       (((sending sent0 {}).fab.srcStream a.stream).ops.find? fun (o : SentOp) => o.op.epoch == a.epoch && o.op.num == a.num && o.sent).isSome = true) ∧
    (let w : BitVec 128 := BitVec.ofNat 128 (2 ^ 127 + 2 ^ 75)
     let e : BitVec 128 := w
     let s := (device {} {}).updCtx 0 fun c => { c with wins := [(0, e)] }
     let o : FabOp := { op0 with stream := { peer := winPeer e, pasid := winPpasid e } }
     s.dstCtx o = some 0 ∧ s.link.answers = [] ∧
     (let t : State := { s with link := { s.link with tc := [{ vpage := 0x1000, tpage := 0x1000, r := true, w := true }] } }
      (match t.dstTr 0 o with | .ok ls => ls == [0x1000] | _ => false) = true)) ∧
    (let s := sending sent0 { val := 0 }
     (s.fab.srcStream s.inp.stream).epoch.toNat = s.inp.val ∧ (s.fab.srcStream s.inp.stream).fresh = false ∧
       (s.fab.srcStream s.inp.stream).ops ≠ [] ∧ s.noPath s.inp.stream = true ∧
       (s.fab.srcStream s.inp.stream).ops.any (fun o => o.op.num.toNat == s.inp.val && o.sent) = true) ∧
    (let s := sending { sent0 with refused := true } { val := 0 }
     (s.fab.srcStream s.inp.stream).ops.any (fun o => o.op.num.toNat == s.inp.val && o.refused) = true) ∧
    (((ev {}).fab.srcStream { peer := 5, pasid := 6 }).ops = []) := by decide +kernel

/-! ## The hypotheses of every statement are met (translation, contexts) -/

/-- A request of leaf 0 for page 5 by the probe's fragment. -/
def ats0 (sent stale : Bool) : AtsReq := { pasid := 0, page := 5, write := false, sent := sent, stale := stale, waiters := [(.frag 0 0, false)] }
/-- A leaf with that request, and an event for it. -/
def asked (leaf : Nat) (r : AtsReq) (x : Input) : State := (ev { x with unit := leaf, val := 5, pasid := some 0 }).updAts leaf fun _ => [r]
/-- TranslationEvents: requests to send; completions that an invalidation has overtaken or not, at a die and at the I/O die, and one for read
access that a write waits for too. -/
theorem test_w_ats :
    (asked 0 (ats0 false false) {}).nextAts 0 = some (ats0 false false) ∧ (ev {}).nextAts 0 = none ∧ (ev {}).atsOf 0 = [] ∧
    ([0, 9].all fun leaf => [true, false].all fun stale =>
      let s := asked leaf (ats0 true stale) { ats := .success 0x5000 true false false 12 }
      ((s.atsOf leaf).find? fun r => r.pasid == 0 && r.page == s.inp.val && r.sent) == some (ats0 true stale) &&
        (ats0 true stale).overtaken s.inp.ats == stale && ((s.die 0).pixels.all fun p => p.parked) && s.woad.writes.isEmpty && (s.ctxs.all fun y => y.2.errWait.isEmpty)) = true ∧
    (let r : AtsReq := { ats0 true false with write := true, waiters := [(.frag 0 0, true)], invals := [(0x7000, 12)] }
     r.write = true ∧ (.frag 0 0, true) ∈ r.waiters ∧ r.overtaken (.success 0x5000 true false false 12) = false ∧
       r.overtaken (.success 0x5000 true false false 14) = true) ∧
    (ats0 true false).waiters ≠ [] ∧ (asked 0 (ats0 true false) { ats := .success 0 true true true 12 }).inp.ats = .success 0 true true true 12 ∧
    (asked 0 (ats0 true false) { ats := .refused }).inp.ats = .refused := by decide +kernel
/-- A page request. -/
def page0 : PageReq := { pasid := 0, index := 0, page := 5, write := false, last := true }
/-- A link in some condition. -/
def onLink (s : State) (f : Link → Link) : State := { s with link := f s.link }
/-- A group of the probe's parked fragment, whose response comes. -/
def grouped (x : Input) : State :=
  onLink ((ev { x with val := 0, pasid := some 0 }).updCore 0 fun c => c.updFrag 0 fun f => { f with st := .xlate }) fun l =>
    { l with groups := [{ pasid := 0, index := some 0, client := .frag 0 0, pages := [5], write := false }] }
/-- TranslationEvents: page requests that queue and go, and each response to a group. -/
theorem test_w_pages :
    (let s := onLink (ev {}) fun l => { l with prqWait := [page0] }
     s.link.prqWait = [page0] ∧ s.link.prq.length < 4096) ∧
    4096 ≤ (onLink (ev {}) fun l => { l with prq := List.replicate 4096 page0 }).link.prq.length ∧
    (let s := onLink (ev {}) fun l => { l with prq := [page0], priAlloc := 1 }
     s.link.prq = [page0] ∧ s.link.priOut < s.link.priAlloc) ∧
    (let s := onLink (ev {}) fun l => { l with prq := [page0] }
     s.link.prq = [page0] ∧ s.link.priAlloc ≤ s.link.priOut) ∧
    ([PrCode.success, .invalid, .failure].all fun p => let s := grouped { pr := p }
      (s.link.groups.find? fun g => g.pasid == 0 && g.index == some s.inp.val).isSome && s.inp.pr == p && ((s.core 0).frag 0).st == .xlate &&
        s.ctxOf 0 == some 0 && s.link.groups.all fun h => match h.client with | .frag _ _ => true | _ => false) = true ∧
    (((onLink (grouped {}) fun l => { l with groups := l.groups.map fun g => { g with client := .gone } }).link.groups.find? fun g => g.pasid == 0).map
      fun g => g.client) = some .gone ∧ ((ev {}).link.groups.find? fun g => g.pasid == 0) = none := by decide +kernel
/-- An invalidation of page 5 of PASID 0, with leaves still to acknowledge. -/
def inval0 (leaves : List Nat) : Inval := { itag := 0, pasid := some 0, base := 0x5000, size := 12, leaves := leaves }
/-- The probe's context under PASID 0. -/
def onPasid0 (s : State) : State :=
  { s.updCtx 0 fun c => { c with pasid := 0 } with fab := { s.fab with src := s.fab.src.map fun x => { x with id := { x.id with pasid := 0 } } } }
/-- TranslationEvents: invalidations with a tag to give and without, and what acknowledges, blocks or is late; scope updates. -/
theorem test_w_invalidations :
    let waitsFor (leaves : List Nat) (leaf : Nat) : State := onLink (ev { unit := leaf, item := 0 }) fun l => { l with invals := [inval0 leaves] }
    (ev {}).link.invals = [] ∧ 32 ≤ (onLink (ev {}) fun l => { l with invals := List.replicate 32 (inval0 [0]) }).link.invals.length ∧
    ([0, 8, 9].all fun leaf => let s := waitsFor [leaf] leaf
      s.link.invals.find? (fun i => i.itag == s.inp.item && i.leaves.contains leaf) == some (inval0 [leaf])) = true ∧
    (waitsFor [0] 0).invalHindered 0 (inval0 [0]) = false ∧
    (let p : Post := { id := 7, slot := 0, team := 0, launch := 0, ctx := 0, place := .home, op := .store [(0x5000, 9)], addr := 0x5000,
                       rel := some { set := { hostfab := true } } }
     let s := onPasid0 (owing ((waitsFor [0] 0).updCore 0 fun c => { c with posts := [p] }))
     s.invalHindered 0 (inval0 [0]) = true) ∧
    ((waitsFor [0] 0).link.invals.filter fun j => j.itag == 0) = [inval0 [0]] ∧
    ((waitsFor [0] 0).link.invals.any fun i => i.itag == 0 && i.leaves.contains 0 && decide (0 < 8)) = true ∧
    (((ev {}).updDie 0 fun d => { d with fenced := true }).die 0).fenced = true ∧
    (let s := (ev { unit := 0, item := 3 }).updCtx 0 fun c => { c with scopeUpd := [{ id := 1, entry := 5, leaves := [3] }] }
     ((s.ctx 0).scopeUpd.map fun v => v.leaves.contains s.inp.item) = [true] ∧ ((ev {}).ctx 0).scopeUpd = []) := by decide +kernel

/-- Context 1, not yet enabled, with a rank program that only exits. -/
def fresh1 (f : Ctx → Ctx) : State := (ev { unit := 1 }).updCtx 1 fun c => f { c with rankprog := [(0, 0x8A000002)], pasid := 1 }
/-- ContextsAndPackets: an enable that is good, each that is not, and one of a context in use. -/
theorem test_w_enable :
    ((fresh1 id).ctx 1).st = .free ∧ (fresh1 id).mgmt.ready = true ∧ (onMgmt (ev {}) fun m => { m with ready := false }).mgmt.ready = false ∧
    (fresh1 id).enableCode 1 = 0 ∧ (ev {}).enableCode 1 = 1 ∧
    (fresh1 fun c => { c with minmax := 3 }).enableCode 1 = 2 ∧ (fresh1 fun c => { c with dring := 1, dringLog := 13 }).enableCode 1 = 3 ∧
    (fresh1 fun c => { c with quota := 4033 }).enableCode 1 = 4 ∧ (fresh1 fun c => { c with quota := 4032 }).enableCode 1 = 0 ∧
    (fresh1 fun c => { c with pasid := 0 }).enableCode 1 = 5 ∧ ((ev {}).ctx 0).st ≠ .free := by decide +kernel
/-- ContextsAndPackets: tails at and past the ring's bounds. -/
theorem test_w_tail :
    ([(512, true), (513, false), (2 ^ 31, false)].all fun p =>
      let s := ev { val := p.1 }
      let v : Word := BitVec.ofNat 32 s.inp.val
      (!decide (2 ^ 31 ≤ (v - (s.ctx 0).subTail).toNat) && !decide (512 < (v - (s.ctx 0).subHead).toNat)) == p.2) = true := by decide +kernel
/-- A packet of context 0's host ring, of a kind, with its fields from byte 16 on. -/
def packet (kind : Nat) (rest : Nat) : List Byte := natBytes 8 (kind + 16) ++ List.replicate 8 0xFF ++ natBytes 48 rest
/-- Context 0 with that packet in its host ring. -/
def ringed (bs : List Byte) (rank : Word) : State := (ev {}).updCtx 0 fun c =>
  { c with subTail := 1, ring := bs.zipIdx.filterMap (fun x => if x.1 == 0 then none else some (x.2, x.1)), rankprog := [(0, rank)] }
/-- ContextsAndPackets: packets that arrive: of no kind, ill-formed, and a barrier. -/
theorem test_w_arrival :
    (ev {}).nextSource = none ∧
    ([packet 9 0, packet 2 1].all fun bs => let s := ringed bs 0x8A000002
      let k := kindOf (leNat (bs.take 4) % 16)
      s.nextSource == some (0, 0) && bs == (s.ctx 0).slotBytes 0 &&
        (k == none || !({ ctx := 0, src := 0, num := 0, stamp := s.woad.nextStamp, kind := k.getD .scope, bytes := bs } : Packet).ok)) = true ∧
    (let bs := packet 2 0
     let s := ringed bs 0x8A000002
     let p : Packet := { ctx := 0, src := 0, num := ((s.ctx 0).source 0).read, stamp := s.woad.nextStamp, kind := .barrier, bytes := bs }
     s.nextSource = some (0, 0) ∧ bs = (s.ctx 0).slotBytes (s.ctx 0).subHead.toNat ∧ kindOf (leNat (bs.take 4) % 16) = some .barrier ∧ p.ok = true ∧
       rankOf (s.ctx 0).rankprog bs = some 0 ∧ p.badAfter = false) := by decide +kernel
/-- The device ring and the task source as next sources; the wake of a device ring. -/
theorem test_w_sources :
    ((ev {}).updCtx 0 fun c => { c with dring := 1, dringLog := 4, dringLook := true }).nextSource = some (0, 1) ∧
    (let s := (ev {}).updCtx 0 fun c => { c with taskQ := [7], tasks := [(7, { packet := packet 2 0 })] }
     s.nextSource = some (0, 2) ∧ (s.ctx 0).taskQ = [7]) ∧
    (let c := ((ev {}).updCtx 0 fun c => { c with dring := 1 }).ctx 0
     c.st = .active ∧ c.dring ≠ 0 ∧ c.dringStopped = false) := by decide +kernel
/-- Woad with one packet queued. -/
def queued (kind : PktKind) (rest : Nat) (s : State) : State :=
  { s with woad := { s.woad with packets := [{ ctx := 0, src := 0, num := 0, stamp := 4, kind := kind, bytes := natBytes 8 0 ++ List.replicate 8 0xFF ++ natBytes 48 rest }] } }
/-- ContextsAndPackets: each kind next to be dispatched; a scope update alone and behind another. -/
theorem test_w_dispatch :
    (ev {}).nextPacket = none ∧
    ([PktKind.launch, .barrier, .signal, .scope, .segment].all fun k => ((queued k 0 (ev {})).nextPacket.map fun p => p.kind) == some k) = true ∧
    ((ev {}).ctx 0).scopeUpd = [] ∧ (ev {}).liveDies ≠ [] ∧ (((ev {}).updCtx 0 fun c => { c with scopeUpd := [{}] }).ctx 0).scopeUpd ≠ [] ∧
    ((probe.core 0).retired = false ∧ (probe.die (dieOf 0)).fenced = false) := by decide +kernel
/-- A SEGMENT packet of name 5 (from byte 24 on): operation, level and size. -/
def segPacket (op level size : Nat) (s : State) : State := queued .segment (2 ^ 64 * 5 + 2 ^ 128 * op + 2 ^ 132 * level + 2 ^ 160 * size) s
/-- ContextsAndPackets: what a SEGMENT packet can ask for, at the bounds of its size, and what it finds. -/
theorem test_w_segment_packets :
    let p (s : State) : Packet := s.nextPacket.getD { ctx := 0, src := 0, num := 0, stamp := 0, kind := .barrier, bytes := [] }
    ([16, maxSize 2].all fun size => let s := segPacket 1 2 size (ev {})
      (p s).kind == .segment && (p s).op == 1 && (p s).name == 5 && bitsAt (p s).image 260 2 == 2 && bitsAt (p s).image 288 32 == size &&
        (s.segFind 0 5).isNone && (s.ctx 0).freeHandle.isSome) = true ∧
    (bitsAt (p (segPacket 1 3 16 (ev {}))).image 260 2 = 3 ∧ bitsAt (p (segPacket 1 2 8 (ev {}))).image 288 32 = 8) ∧
    ([2, 3, 4].all fun op => let s := segPacket op 0 0 (seg { st := .declared })
      (p s).op == op && s.segFind 0 (p s).name == some 3 && !(s.seg 0 3).dying && (s.seg 0 3).attach == 0 && !(s.seg 0 3).busy) = true ∧
    (let s := segPacket 2 0 0 (seg { attach := 1 })
     s.segFind 0 (p s).name = some 3 ∧ (s.seg 0 3).attach ≠ 0) ∧
    (let s := segPacket 2 0 0 (seg { dying := true })
     (s.segFind 0 (p s).name).all (fun h => (s.seg 0 h).dying) = true) ∧
    (p (segPacket 0 0 0 (ev {}))).op = 0 ∧ (p (segPacket 5 0 0 (ev {}))).op = 5 ∧ (segPacket 3 0 0 (ev {})).segFind 0 5 = none := by decide +kernel
/-- ContextsAndPackets: a SIGNAL's store that has been sent to a peer, reaches its line, meets poison there or may not be made; the end of
teardowns, quanta and pre-emptions. -/
theorem test_w_ends :
    (let w : WoadWrite := { id := 0, ctx := 0, addr := 0x1000, data := natBytes 8 1, signal := some 4 }
     let put (s : State) (w : WoadWrite) : State := { s with woad := { s.woad with writes := [w] } }
     let s := onLink (put (ev {}) w) fun l => { l with tc := [{ pasid := ((ev {}).ctx 0).pasid, vpage := 0x1000, tpage := 0x1000, r := true, w := true }] }
     let p : State := { s with mem := { s.mem with poison := [(0x1001, ())] } }
     s.woad.writes.find? (fun w => w.id == s.inp.id && w.signal.isSome && !w.parked) = some w ∧ w.sent = false ∧
       (match s.trWoad (.write 0) 0 0x1000 true with | .loc l => l == 0x1000 | _ => false) = true ∧
       ((List.range 8).all fun i => !(s.homeRead (s.tagOf 0) (0x1000 + i)).2) = true ∧ (p.homeRead (p.tagOf 0) 0x1001).2 = true ∧
       (match (onLink (put (ev {}) w) fun l => { l with answers := [{ client := .write 0, pasid := ((ev {}).ctx 0).pasid, page := 1, reply := .refused }] }).trWoad
         (.write 0) 0 0x1000 true with | .access => true | _ => false) = true ∧
       (put (ev {}) { w with sent := true }).woad.writes.find? (fun w => w.id == 0) = some { w with sent := true } ∧
       (ev {}).woad.writes.find? (fun w => w.id == 0) = none) ∧
    (let s := (ev { unit := 1 }).updCtx 1 fun c => { c with st := .active }
     (s.ctx 1).st = .active ∧ s.openLaunches 1 = [] ∧ (s.woad.packets.all fun p => p.ctx != 1) = true ∧ (s.teams.all fun t => t.2.ctx != 1) = true ∧
       (s.dies.all fun d => d.2.jobs.all fun j => j.ctx != 1) = true ∧
       (s.quartets.all fun q => (q.2.table.all fun r => r.ctx != 1) && (q.2.queue ++ q.2.slots.vals).all fun k => k.ctx != 1) = true ∧
       ((s.ctx 1).segs.all fun g => g.2.reload.isNone) = true ∧ s.mgmt.ready = true) ∧
    (let s := (ev { unit := 1 }).updCtx 1 fun c => { c with st := .tearing }
     (s.ctx 1).st = .tearing ∧ s.quiescent 1 = true) ∧ ((ev {}).ctx 0).st ≠ .tearing ∧
    (let s := onMgmt ((ev {}).updCtx 0 fun c => { c with fb := true, quantum := 5, busySince := some 2 }) fun m => { m with uptime := 7 }
     (s.ctx 0).busySince.any (fun t => (s.ctx 0).fb && (s.ctx 0).quantum != 0 && decide (t + (s.ctx 0).quantum.toNat ≤ s.mgmt.uptime)) = true) ∧
    (ev {}).woad.seeds = [] ∧ ((ev {}).launch 0).complete = false ∧ ((ev {}).launch 0).request = false ∧ (ev {}).running 0 = true ∧
    (let s : State := { ev {} with launches := [(0, { (ev {}).launch 0 with request := true, reqCores := [0] })] }
     ((s.launch s.inp.item).request && (s.launch s.inp.item).reqCores.contains 0) = true ∧ (s.team 0).launch = s.inp.item ∧ (s.team 0).core = 0 ∧
       (s.team 0).st = .resident ∧ s.teams.get? 0 ≠ none) := by decide +kernel

/-! ## The hypotheses of every statement are met (placement, sequencer) -/

/-- The wave of the probe's fragment with its fragment changed. -/
def fragged (x : Input) (f : Frag → Frag) : State := (ev x).updCore 0 fun c => c.updFrag 0 f
/-- A grid of one small team that waits on die 0's list, on its pending list or as a mesh ticket. -/
def entry0 : LEntry := { launch := 0, grid := 1, desc := { waves := 1, width := 0, vregs := 1 }, kind := .team, next := 0, bound := 1 }
/-- A ticket of a team of one wave, or of more team scratch than a core has. -/
def ticket0 (big : Bool) : Ticket := { launch := 0, grid := 1, first := 0, desc := { waves := 1, width := 4, vregs := 1, teamscr := if big then 1537 else 0 }, kind := .team }
/-- Die 0 in some condition. -/
def onDie (f : Die → Die) : State := (ev {}).updDie 0 f
/-- PlacementAndSequencer: a die that may claim, with a mesh ticket, a saved team, a new ticket that fits, one that does not, or none. -/
theorem test_w_claims :
    (((ev {}).die 0).fenced = false ∧ (ev {}).capacity 0 = true ∧ (ev {}).seedFits 0 = false ∧ (ev {}).capacity 1 = false) ∧
    ((ev {}).claimMesh 0).isNone = true ∧ ((ev {}).claimResume 0).isNone = true ∧ ((ev {}).claimNew 0).isNone = true ∧
    ((onDie fun d => { d with meshPending := [entry0] }).claimMesh 0).isSome = true ∧
    (match (onDie fun d => { d with list := [entry0] }).claimNew 0 with
     | some (tk, t) => ((t.lookup tk).place tk 0).isSome | none => false) = true ∧
    (let big : LEntry := { entry0 with desc := (ticket0 true).desc }
     match (onDie fun d => { d with list := [big] }).claimNew 0 with
     | some (tk, t) => ((t.lookup tk).place tk 0).isNone | none => false) = true ∧
    (let s := (onDie fun d => { d with resume := [5] }).updTeam 5 fun _ => { probeTeam with st := .saved, slots := [], cluster := 5 }
     (s.claimResume 0).isSome = true) := by decide +kernel
/-- PlacementAndSequencer: seeds that fit and do not; a mesh ticket that fits; a launch that may not be claimed. -/
theorem test_w_seeds :
    let seeds (b : Bool) : State := { ev {} with woad := { (ev {}).woad with seeds := [ticket0 b] } }
    (seeds false).woad.seeds = [ticket0 false] ∧ (seeds false).seedFits 0 = true ∧ ((seeds false).offerSeed (ticket0 false) 0).isSome = true ∧
    (seeds true).seedFits 0 = false ∧ ((seeds true).offerSeed (ticket0 true) 0).isNone = true ∧
    ((onDie fun d => { d with meshPending := [entry0] }).claimMesh 0).isSome = true ∧ ((ev {}).claimMesh 0).isNone = true ∧ ((ev {}).claimResume 0).isNone = true ∧
    ({ ev {} with launches := [(0, { (ev {}).launch 0 with request := true })] } : State).claimable 0 = false ∧ (ev {}).claimable 0 = true := by
  decide +kernel
/-- PlacementAndSequencer: an affinity that has expired: of a segment that may be evicted, with room elsewhere and without, of one that may
not, and of one with room at its home. -/
theorem test_w_affinity :
    let at_ (g : Seg) (scr : Nat) : State := ((((seg g).updCtx 0 fun c => { c with segback := 1 }).updDie 0 fun d =>
      { d with pending := [{ ticket0 false with desc := { (ticket0 false).desc with teamscr := scr, affname := 5 } }] }).updBoard 0 fun b => { b with scr := 67 }).updCore 1 fun c => { c with mode := .service }
    let res : Seg := { st := .resident, size := 64, level := 0, home := 0 }
    let tk (s : State) : Ticket := ((s.die 0).pending[0]?).getD (ticket0 false)
    ((ev {}).die 0).pending[0]? = none ∧ (at_ res 4).segFind 0 5 = some 3 ∧ (ev {}).segFind 0 5 = none ∧
    ([4, 1537].all fun scr =>
      let s := at_ res scr
      let g := s.seg 0 3
      !(tk s).loose && (s.affSeg 0 (tk s).desc).isSome && g.level != 2 && g.homeDie == 0 && !s.fitsOn (tk s) 0 && !g.pin && g.attach == 0 &&
        !g.busy && !g.dying && s.claimable 0 && s.usable 0 0 && s.candidate 0 g &&
        ((s.startEvict 0 3).place { tk s with loose := true } 0).isSome == (scr == 4)) = true ∧
    (at_ res 2).fitsOn (tk (at_ res 2)) 0 = true ∧ ((at_ { res with pin := true } 4).seg 0 3).pin = true ∧
    ((at_ res 4).updCtx 0 fun c => { c with segback := 0 }).candidate 0 ((at_ res 4).seg 0 3) = false := by decide +kernel
/-- PlacementAndSequencer: waves that wait for entries, with enough of them and with too few. -/
theorem test_w_entries :
    let s := (ev {}).updCore 0 fun c => { c with entryWaiters := [2], waves := c.waves.set 2 { team := 0, owed := [{}] } }
    (s.core 0).entryWaiters = [2] ∧ ((s.core 0).wave 2).owed.length = 1 ∧ 1 ≤ (s.core 0).freeEntries.length ∧ ((ev {}).core 0).entryWaiters = [] := by
  decide +kernel
theorem freeEntries_le (c : Core) : c.freeEntries.length ≤ 511 := by
  have h := List.length_filter_le (fun e => (c.frags.get? e).isNone) (List.range 511)
  rw [List.length_range] at h
  exact h
theorem test_w_entries_short : ((ev {}).core 0).freeEntries.length < (({ owed := List.replicate 512 {} } : Wave)).owed.length :=
  Nat.lt_of_le_of_lt (freeEntries_le _) (by decide +kernel)
/-- PlacementAndSequencer: results that return: uniform, some of the lanes, and the last; a register written meanwhile and not. -/
theorem test_w_results :
    let p (u : Bool) : Pending := { id := 9, uniform := u, lanes := 3, vals := [(4, 7)] }
    let s (u : Bool) (m : Mask) : State := (ev { id := 9, lanes := m }).updCore 0 fun c => c.updWave 0 fun w => { w with pend := [p u] }
    (((s true 0).core 0).wave 0).pend.find? (fun q => q.id == (s true 0).inp.id) = some (p true) ∧ (p true).vals.keys.Nodup ∧
    ([(0 : Mask), 1, 3].map fun m => (p false).uniform || m == 0 || (p false).lanes &&& m == (p false).lanes) = [true, false, true] ∧
    ((((s true 0).core 0).wave 0).late true 4 = false ∧ ({ (((s true 0).core 0).wave 0) with lateG := [(4, ())] } : Wave).late true 4 = true) ∧
    (((ev {}).core 0).wave 0).pend.find? (fun q => q.id == 9) = none := by decide +kernel
/-- PlacementAndSequencer: splits at a miss and at a fault that are due, and a wait that is not considered again. -/
theorem test_w_late_splits :
    let s := ((ev {}).updCore 0 fun c => (c.updWave 0 fun w => { w with som := true, pend := [{ id := 9, lanes := 15, eligible := true }] }).updFrag 0 fun f =>
      { f with st := .swait, since := 257, board := [9] })
    let c := s.core 0
    let f := c.frag 0
    let t := (ev {}).updCore 0 fun c => (c.updWave 0 fun w => { w with som := true }).updFrag 0 fun f =>
      { f with st := .xlate, since := 257, only := some 1, unfin := 15, words := some (0x36088818, some 0x00060400) }
    let g := (t.core 0).frag 0
    ((f.st == .swait && !f.considered && (c.wave 0).som && c.missThresh != 0 && f.since == c.missThresh + 1 && f.trap.isNone) = true ∧
      (c.updFrag 0 fun f => { f with considered := true }).freeEntry = some 1 ∧ ((c.wave 0).pend.filter fun p => f.board.contains p.id).all (fun p => p.eligible) = true ∧
      wholeQuads f.mask (f.mask &&& busyLanes ((c.wave 0).pend.filter fun p => f.board.contains p.id)) ≠ 0 ∧
      wholeQuads f.mask (f.mask &&& busyLanes ((c.wave 0).pend.filter fun p => f.board.contains p.id)) ≠ f.mask) ∧
    ((g.st == .xlate && g.only.isSome && !g.considered && ((t.core 0).wave 0).som && (t.core 0).missThresh != 0 &&
        g.since == (t.core 0).missThresh + 1 && g.trap.isNone) = true ∧ (((t.core 0).wave 0).pend.filter fun p => g.board.contains p.id) = [] ∧
      ((t.core 0).updFrag 0 fun f => { f with considered := true }).freeEntry = some 1 ∧ seWords 0x36088818 (some 0x04860000) = false ∧
      g.words = some (0x36088818, some 0x00060400) ∧ seWords 0x36088818 (some 0x00060400) = true ∧ wholeQuads g.mask g.unfin ≠ 0 ∧
      wholeQuads g.mask g.unfin ≠ g.mask) ∧
    (((ev {}).core 0).frag 0).st ≠ .swait := by decide +kernel
/-- PlacementAndSequencer: a fragment that waits at RCV, due and not, and its group; forced waits that time out, alone or all together. -/
theorem test_w_fuses :
    let rcv (due : Bool) : State := fragged {} fun f => { f with st := .rcvwait, due := due, wait := { n := 4 } }
    let ff (due : Bool) : State := fragged {} fun f => { f with st := .ffwait, due := due }
    (((rcv true).core 0).frag 0).due = true ∧ ((rcv true).core 0).group 0 0x1000 = [0] ∧ (((rcv true).core 0).wave 0).order.Nodup ∧
    ([0].all fun k => (((rcv true).core 0).frag k).frames.isEmpty) = true ∧ (((rcv false).core 0).frag 0).due = false ∧
    ((rcv false).core 0).releaseChoice 0 = some 0x1000 ∧ ((ev {}).core 0).releaseChoice 0 = none ∧
    ((ff true).frag me).due = true ∧ ((ff true).frag me).st = .ffwait ∧ ((ff false).core 0).allForced 0 = some 0 ∧
    (((ev {}).frag me).due = false ∧ (((ev {}).core 0).allForced 0 == some 0) = false) := by decide +kernel
/-- PlacementAndSequencer: a fragment that waits to split, with room and without; a wave idle past 32 cycles with a ready one outside. -/
theorem test_w_pool :
    let s := fragged {} fun f => { f with st := .splitwait }
    ((s.core 0).frag 0).st = .splitwait ∧ ((s.core 0).freeEntry.isSome || decide ((s.core 0).framesUsed 0 < 8)) = true ∧
    (let t := (s.updCore 0 fun c => { c with entryWaiters := [1], resv := List.range 511 }).updCore 0 fun c => c.updFrag 0 fun f => { f with frames := List.replicate 8 {} }
     ((t.core 0).freeEntry.isSome || decide ((t.core 0).framesUsed 0 < 8)) = false) ∧
    (let t := (ev {}).updCore 0 fun c => (c.updWave 0 fun w => { w with idle := 33 }).updWave 2 fun w => { w with order := [1] }
     let t := t.updCore 0 fun c => c.updFrag 1 fun f => { f with st := .run, slot := 2 }
     32 < ((t.core 0).wave 0).idle ∧ 0 ∈ ((t.core 0).pipe 0).pool ∧ (t.core 0).readyOut 0 = some 2) ∧
    (((ev {}).core 0).wave 0).idle ≤ 32 := by decide +kernel
/-- PlacementAndSequencer: monitors that fire for a fragment and for a saved team, lanes that poll, and a team that only waits. -/
theorem test_w_monitors :
    let m (saved : Bool) : Monitor := { id := 6, place := .home, granule := 0, core := 0, entry := 0, team := 0, saved := saved, fired := true }
    let w (g : Nat) : State := fragged {} fun f => { f with st := .syncwait, since := 65536, wait := { kind := .waitc, lanes := 1, gran := [(0, g)] } }
    let hit (s : State) (saved : Bool) : State := s.updDie 0 fun d => { d with monitors := [m saved] }
    (let s := (hit (ev { flag := true }) true).updTeam 0 fun t => { t with st := .saved, swapOut := true }
     (s.team 0).st = .saved ∧ (s.team 0).swapOut = true ∧ (s.dies.any fun y => y.2.monitors.any fun m => m.team == 0 && m.saved && m.fired) = true) ∧
    ((((hit (w 7) false).core 0).frag 0).waits .waitc = true ∧ (0, 7) ∈ (((hit (w 7) false).core 0).frag 0).wait.gran ∧
      7 - 1 ∈ (hit (w 7) false).firedIds 0 0) ∧ (ev {}).firedIds 0 0 = [] ∧
    ((((w 0).core 0).frag 0).waits .waitc = true ∧ (0, 0) ∈ (((w 0).core 0).frag 0).wait.gran) ∧
    (let s := w 7
     let ms := s.members 0
     ((s.team 0).st == .resident && !ms.isEmpty && ms.all fun m => s.longWait m && s.teamStopped m) = true ∧ (s.fitsReserve 0 ms).isSome = true) ∧
    (63 < 64) := by decide +kernel

/-! ## The hypotheses of every statement are met (saves, debugger, segments, engines, rendering) -/

/-- A resident team that is asked to stop, whose wave has exited from its fragments or still runs. -/
def stopping (full : Bool) : State :=
  let s := (ev { unit := 0, item := 0 }).updTeam 0 fun t => { t with preempt := true, slots := [] }
  if full then s.updTeam 9 fun t => { t with st := .saved, image := Config.reserveBytes } else s
/-- A team on a retired core, whose wave has exited from its fragments; a core of die 1 is open or none is. Die 0 is fenced, so that its
image's bytes go nowhere and the kernel need not follow them. -/
def retiring (full open_ : Bool) : State :=
  let s := ((stopping full).updTeam 0 fun t => { t with preempt := false, desc := { t.desc with teamscr := 0 } }).updCore 0 fun c => { c with retired := true }
  let s := { s with launches := [(0, { s.launch 0 with lanepriv := 0 })] }
  let s := s.updDie 0 fun d => { d with fenced := true }
  if open_ then s.updCore 40 fun c => { c with mode := .service } else s
set_option maxRecDepth 100000 in
/-- SaveDebugSegments: a cluster that may be saved, with room in the reserve and without; that must move, with room elsewhere and without;
a team that is being saved. -/
theorem test_w_saves :
    let saves (s : State) := (s.team 0).st == .resident && ((s.team 0).preempt || s.drains 0) && s.clusterStopped 0
    let goes (s : State) := (s.team 0).st == .resident && !(s.team 0).preempt && s.mustMove 0 && s.clusterStopped 0
    let room (s : State) := ((s.fitsReserve 0 (s.members 0)).map fun a =>
      let v := s.saveAll 0 a false
      (v.usableDies (s.team 0).ctx).any fun d => (v.chooseResume 0 d).isSome)
    saves (ev {}) = false ∧ saves (stopping false) = true ∧ saves (stopping true) = true ∧
    ((stopping false).fitsReserve 0 ((stopping false).members 0)).isSome = true ∧ (stopping true).fitsReserve 0 ((stopping true).members 0) = none ∧
    (stopping false).members 0 = [0] ∧ dieOf ((stopping false).team 0).core = 0 ∧ goes (stopping false) = false ∧
    goes (retiring true false) = true ∧ (retiring true false).fitsReserve 0 ((retiring true false).members 0) = none ∧
    goes (retiring false true) = true ∧ room (retiring false true) = some true ∧
    goes (retiring false false) = true ∧ room (retiring false false) = some false ∧
    (((stopping false).updTeam 0 fun t => { t with st := .saved }).team 0).st ≠ .resident ∧
    (((stopping false).updTeam 0 fun t => { t with saving := true }).team 0).saving = true := by decide +kernel
/-- SaveDebugSegments: an idempotent region of a firmware wave, and none; a wave to debug, and none; objects to read and to write. -/
theorem test_w_debug :
    let idr := (ev {}).updCore 0 fun c => c.updWave 0 fun w => { w with priv := true, region := some { entry := 0x1000, mask := 1 } }
    let idr := idr.updCore 0 fun c => { c with mode := .selfTest }
    let dbg (g : Dbg) (halted : Bool) : State := (fragged {} fun f => { f with st := if halted then .ystop else .run }).updCtx 0 fun z => { z with dbg := g }
    let halt (s : State) : State := s.updCore 0 fun c => c.updWave 0 fun w => { w with haltReq := true }
    let v := halt (dbg { obj := 1 } true)
    let v0 := halt (dbg { obj := 0 } true)
    let long := onMgmt v0 fun m => { m with ready := true }
    (((idr.core 0).wave 0).region.isSome && !((idr.core 0).wave 0).order.isEmpty && ((idr.core 0).wave 0).priv && (idr.core 0).mode != .service) = true ∧
    ((ev {}).core 0).mode = .service ∧ ((dbg {} false).dbgWave 0).isSome = true ∧ (dbg { slot := 9 } false).dbgWave 0 = none ∧
    ((ev {}).team 0).ctx = 0 ∧ ((ev {}).team 0).slots = [(0, 0)] ∧ (dbg { obj := 6 } false).dbgObj 0 = none ∧
    (ev {}).mgmt.ready = true ∧ (onMgmt (ev {}) fun m => { m with ready := false }).mgmt.ready = false ∧ long.mgmt.ready = true ∧
    ((v0.dbgObj 0).any fun bs => decide (0 * 1024 < bs.length)) = true ∧ (v0.headBytes 0 0).length < 1024 ∧
    ((v.dbgObj 0).any fun bs => decide (0 * 1024 < bs.length)) = true ∧ ((v.core 0).wave 0).lanes ≤ 64 ∧
    (((dbg { obj := 3, page := 1 } false).dbgObj 0).any fun bs => decide (bs.length ≤ 1 * 1024)) = true ∧
    (0 < ((v.core 0).wave 0).vregs ∧ 63 < ((v.core 0).wave 0).lanes ∧ 4 * (0 * 64 + 63) + 3 < (0 + 1) * 1024) := by decide +kernel
/-- The end of an engine's access: done, awaited, a fault, or an access that is not allowed. -/
def engEnd {α : Type} : EngOut α → Nat | .ok .. => 0 | .miss .. => 1 | .fault .. => 2 | .access .. => 3
/-- A segment that is resident and BUSY, whose image lies in device memory, or in a window that holds nothing there. -/
def moving (g : Seg) (bad : Bool) : State := ((seg { g with st := .resident, busy := true, size := 64, level := 2, home := 0x8000, hcols := 1, hrows := 1 }).updCtx 0 fun c =>
  { c with segback := if bad then 0xFC00000000000 else 0 }).updDie 0 fun d =>
  { d with tc := [0x18000, 0x1C000].map fun p => { vpage := p * 4096, tpage := p * 4096, r := true, w := true } }
/-- The same as an event about that segment. -/
def movingEv (g : Seg) (bad : Bool) : State := { moving g bad with cur := none, inp := { unit := 0, item := 3 } }
/-- SaveDebugSegments: drains done and not; attachments; evictions and reloads that end, or stop at an access that is not allowed. -/
theorem test_w_moves :
    let w := waiting (attached 1) .drain 3 false
    ((w.frag me).waits .drain && !w.segBusy 0 0 (w.frag me).wait.n (w.frag me).wait.m) = true ∧ ((ev {}).frag me).waits .drain = false ∧
    ((attached 1).team 0).attach.any (fun a => a.handle == 3 && decide (a.nest ≤ 1)) = true ∧
    ((attached 2).team 0).attach.any (fun a => a.handle == 3 && decide (a.nest ≤ 1)) = false ∧
    ([false, true].map fun b =>
      let s := movingEv {} b
      let z := s.beginLeave 0 3
      let g := z.seg 0 3
      let locs := segLocs 0 3 g.size
      let data := z.bytesIn locs
      let e := segEng g.homeDie 0 3
      (g.st == .resident && g.busy && g.reload.isNone && !g.parked && !(z.die g.homeDie).fenced && !g.leaving, engEnd (z.engWrite e (z.imageAt 0 3) data),
        match z.engWrite e (z.imageAt 0 3) data with
        | .ok v _ => engEnd (v.engWrite e (v.bitmapAt 0 3) (good (v.mapBytes locs (bitmapBytes g.size)))) | _ => 3)) =
      [(true, 0, 0), (true, 3, 3)] ∧
    (let s := movingEv { reload := some (0x8000, 1, 1) } true
     let g := s.seg 0 3
     (g.busy && !g.parked && g.reload == some (0x8000, 1, 1)) = true ∧ engEnd (s.engRead (segEng g.homeDie 0 3) (s.imageAt 0 3) g.size) = 3) ∧
    ((seg {}).seg 0 3).busy = false := by decide +kernel
/-- An eviction's write, and whether the entry's rounds are fewer than 16. -/
def evictEnd (s : State) : Nat × Bool :=
  let z := s.beginLeave 0 3
  let g := z.seg 0 3
  (engEnd (z.engWrite (segEng g.homeDie 0 3) (z.imageAt 0 3) (z.bytesIn (segLocs 0 3 g.size))), decide (g.rounds < 16))
/-- A reload's two reads. -/
def reloadEnd (s : State) : Nat × Nat :=
  let g := s.seg 0 3
  let e := segEng g.homeDie 0 3
  match s.engRead e (s.imageAt 0 3) g.size with
  | .ok v _ => (0, engEnd (v.engRead e (v.bitmapAt 0 3) (bitmapBytes g.size)))
  | .miss _ => (1, 0) | .fault .. => (2, 0) | .access .. => (3, 0)
/-- SaveDebugSegments: an eviction that is awaited, faults, is lost, stops on a fenced die, or waits for a peer; a reload that ends, is
awaited or stops; a wave whose header fills a page. -/
theorem test_w_moves_more :
    let no : State := (movingEv {} false).updDie 0 fun d => { d with tc := [] }
    let answer : Answer := { client := .seg 0 3, pasid := ((ev {}).ctx 0).pasid, page := 0x18000, reply := .success 0 false false false 12 }
    let lost : State := (movingEv { leaving := true } false).updCtx 0 fun c => { c with segback := 0 }
    let fence (s : State) : State := s.updDie 0 fun d => { d with fenced := true }
    let back : State := movingEv { reload := some (0x8000, 1, 1) } false
    let long : State := ((fragged {} fun f => { f with st := .ystop, frames := List.replicate 14 {} }).updCtx 0 fun z => { z with dbg := { obj := 0 } }).updCore 0
      fun c => c.updWave 0 fun w => { w with haltReq := true }
    evictEnd no = (1, true) ∧ evictEnd (no.updDie 0 fun d => { d with answers := [answer] }) = (2, true) ∧
    ((lost.beginLeave 0 3).seg 0 3).leaving = true ∧ ((lost.beginLeave 0 3).ctx 0).segback = 0 ∧
    (fence (movingEv {} false)).die 0 = { (movingEv {} false).die 0 with fenced := true } ∧ (owing (movingEv {} false)).fabBusy 0 = true ∧
    (movingEv {} false).fabBusy 0 = false ∧ reloadEnd back = (0, 0) ∧ reloadEnd (back.updDie 0 fun d => { d with tc := [] }) = (1, 0) ∧
    (((fence back).die 0).fenced = true) ∧ (long.dbgObj 0).isSome = true ∧ 1024 ≤ (long.headBytes 0 0).length := by decide +kernel
/-- SaveDebugSegments: scope and binding updates under way, and none; releases, barriers, fences and posts that wait, and none. -/
theorem test_w_waits :
    let up := (ev { item := 5 }).updCtx 0 fun c => { c with scopeUpd := [{ entry := 2, leaves := [5] }], bindUpd := [(5, {})] }
    let rel : Post := { id := 7, slot := 0, team := 0, launch := 0, ctx := 0, place := .home, op := .store [(4096, 9)], addr := 0, rel := some {}, binds := [] }
    let p := (ev { id := 7, flag := true }).updCore 0 fun c => { c with posts := [rel] }
    let f (k : WaitKind) := fragged {} fun f => { f with st := .syncwait, wait := { kind := k } }
    let blocked : State := { p with fab := { p.fab with src := [{ id := { peer := 1, pasid := (p.ctx 0).pasid }, ops := [sent0] }] } }
    let rel' : Post := { rel with rel := some { set := { hostfab := true } } }
    let q : State := { blocked with cores := blocked.cores.set 0 { blocked.core 0 with posts := [rel'] } }
    (up.ctx 0).scopeUpd ≠ [] ∧ (up.ctx 0).bindUpd.find? (fun k => k.1 == 5) = some (5, {}) ∧ dieOf 200 = 5 ∧
    ((ev {}).ctx 0).scopeUpd = [] ∧ ((ev {}).ctx 0).bindUpd.find? (fun k => k.1 == 5) = none ∧
    (rel.rel.isSome && !p.hindered 0 fun q => q.id == 7) = true ∧
    q.hindered 0 (fun q => q.id == 7) = true ∧ (p.core 0).posts.find? (fun z => z.id == 7) = some rel ∧ ((ev {}).core 0).posts.find? (fun z => z.id == 7) = none ∧
    ([WaitKind.barrier, .fence].all fun k => (((f k).frag me).waits k) && !(f k).mustWait me ((f k).frag me).wait.cap) = true ∧
    (((f .post).frag me).waits .post && !(f .post).mustWait me ((f .post).frag me).wait.cap) = true ∧ ((ev {}).frag me).waits .post = false := by decide +kernel

/-- A card's bytes: kind, version, the counts of regions and the head or the words from byte 112. -/
def card (kind regions head tail : Nat) : List Byte := natBytes 8 (kind + 16 + regions * 2 ^ 13) ++ natBytes 8 head ++ List.replicate 96 0 ++ natBytes 16 tail
/-- A job of copy channel 0 of die 0, or a task job. -/
def job0 (task : Bool) (card : Addr) : Job := { id := 4, ctx := 0, launch := 0, team := 0, task := task, card := card, cap := {} }
/-- Die 0 with that job, its card at the start of team scratch. -/
def working (j : Job) (bs : List Byte) (x : Input) : State := (stored bs (ev { x with unit := 0, item := 0, id := 4 })).updDie 0 fun d => { d with jobs := [j] }
/-- How a job's card reads: 0 with the lowest code it meets (0 for none) and whether the job may begin, 1 awaited, 2 a fault, 3 with its code. -/
def cardEnd (s : State) (j : Job) : Nat × Nat × Bool :=
  match s.readCard 0 j with
  | .ok v k c => (0, (lowestCode (v.cardCodes k c)).getD 0, (v.mayBegin 0 k).2)
  | .wait _ => (1, 0, false) | .fault .. => (2, 0, false) | .bad _ c _ => (3, c, false)
/-- The windows' address of byte n of team scratch. -/
def scr (n : Nat) : Addr := BitVec.ofNat 64 (0xFC * 2 ^ 56 + n)
/-- A host page that a request has been answered for: not present. -/
def faults : State := (working (job0 false (BitVec.ofNat 64 (2 ^ 50))) [] {}).updDie 0 fun d => { d with answers := [{ client := .job 0 4, pasid := ((ev {}).ctx 0).pasid, page := 2 ^ 38, reply := .success 0 false false false 12 }] }
/-- EnginesAndRender: a channel's head whose card is read, awaited, bad, faulty or misaligned, with codes and without, that must wait. -/
theorem test_w_copy_jobs :
    let ok := working (job0 false (scr 0)) (card 1 0 0 0) {}
    let host := working (job0 false (BitVec.ofNat 64 (2 ^ 50))) [] {}
    let j := job0 false (scr 0)
    let behind := ok.updDie 0 fun d => { d with jobs := [{ job0 false (BitVec.ofNat 64 (2 ^ 50)) with id := 1, chan := 1 }, j] }
    let run := ok.updDie 0 fun d => { d with jobs := [{ j with running := true }] }
    ok.chanJob 0 0 = none ∧ ok.chanHead 0 0 = some j ∧ (ev {}).chanHead 0 0 = none ∧ run.chanJob 0 0 = some { j with running := true } ∧
    (working (job0 false (scr 4)) [] {}).chanHead 0 0 = some (job0 false (scr 4)) ∧ (scr 4).toNat % 128 ≠ 0 ∧
    cardEnd ok j = (0, 0, true) ∧ cardEnd (working j (card 2 0 0 0) {}) j = (0, 1, true) ∧ cardEnd host (job0 false (BitVec.ofNat 64 (2 ^ 50))) = (1, 0, false) ∧
    cardEnd behind j = (0, 0, false) ∧ cardEnd ok (job0 false (scr 0x8000)) = (3, 9, false) ∧
    cardEnd faults (job0 false (BitVec.ofNat 64 (2 ^ 50))) = (2, 0, false) := by decide +kernel
/-- EnginesAndRender: the slow path's jobs; records of a chain that end it, are owned, poisoned, too many, or meet a code. -/
theorem test_w_records :
    let rd (s : State) (j : Job) : Nat × Bool × Bool × Nat :=
      match s.engRead (jobEng 0 j) j.recA 64 with
      | .ok v bs => (0, anyBad bs, (recOf (bs.map Prod.fst)).own, (lowestCode (v.recCodes j (recOf (bs.map Prod.fst)))).getD 0)
      | .miss _ => (1, false, false, 0) | .fault .. => (2, false, false, 0) | .access .. => (3, false, false, 0)
    let j : Job := { job0 false (scr 0) with recA := scr 128 }
    let s (b : Byte) : State := working j (List.replicate 128 0 ++ [b]) {}
    let poisoned : State := { s 0 with mem := { (s 0).mem with poison := [(scratchLoc 0 128, ())] } }
    j.recA ≠ 0 ∧ j.recBytes = [] ∧ rd (s 0) j = (0, false, false, 0) ∧ rd (s 1) j = (0, false, true, 0) ∧ rd (s 17) j = (0, false, true, 2) ∧
    (rd poisoned j).2.1 = true ∧ (65536 ≤ ({ j with count := 65536 } : Job).count) ∧ j.count < 65536 ∧ (job0 false (scr 0)).recA = 0 ∧
    ((working { j with slow := true } [] {}).job 0 4 = some { j with slow := true }) ∧ ((s 0).job 0 4).all (fun j => !j.slow || j.parked) = true := by
  decide +kernel
/-- EnginesAndRender: a task job that is misaligned, meets a code, finds its task armed, its count too large, or its packet; releases. -/
theorem test_w_task_jobs :
    let tail (n init pkt : Nat) : Nat := n + init * 2 ^ 16 + pkt * 2 ^ 64
    let j := job0 true (scr 0)
    let s (kind init : Nat) : State := working j (card kind 0 0 (tail 3 init (0xFC * 2 ^ 56 + 128)) ++ packet 1 0) {}
    let arm (t : Task) (s : State) : State := s.updCtx 0 fun c => { c with tasks := [(3, t)] }
    let see (s : State) : Nat × Nat × Bool :=
      match s.readCard 0 j with
      | .ok v k c =>
        let t := (v.ctx k.ctx).tasks.getD c.tasknum {}
        ((lowestCode (v.cardCodes k c)).getD 0, t.count + c.init, t.st == .idle &&
          match v.engRead { jobEng 0 k with io := true } c.pkt 64 with | .ok _ bs => !anyBad bs && engNat bs % 16 != 6 | _ => false)
      | _ => (99, 0, false)
    let due (go : Bool) : State := let u := ((arm { st := .armed, job := 4 } (s 2 0)).updDie 0 fun d =>
        { d with jobs := if go then [j] else [{ job0 false (BitVec.ofNat 64 (2 ^ 50)) with id := 1 }, j] })
      { u with inp := { unit := 0, item := 3 } }
    (s 2 1).job 0 4 = some j ∧ (j.task && !j.parked && j.answer.isNone) = true ∧ see (s 2 1) = (0, 1, true) ∧ (see (s 1 1)).1 = 1 ∧
    see (arm { count := 65535 } (s 2 1)) = (0, 65536, true) ∧ (see (arm { st := .armed } (s 2 1))).2.2 = false ∧ (scr 4).toNat % 128 ≠ 0 ∧
    ((ev {}).job 0 4).all (fun j => !j.task || j.parked || j.answer.isSome) = true ∧
    ([true, false].map fun b => ((due b).mayBegin 0 j).2) = [true, false] ∧ (due true).job 0 4 = some j ∧
    (((due true).ctx 0).tasks.getD 3 {}).st = .armed ∧ ((ev {}).ctx 0).tasks.getD 0 {} = {} := by decide +kernel
/-- EnginesAndRender: matrix requests that wait and that a unit holds, of each operation, with metadata in and out of order. -/
theorem test_w_matrix_events :
    let r (op : MOp) : MReq := { id := 4, team := 0, launch := 0, ctx := 0, op := op, shapes := [(0, 0x10101)] }
    let tbl : State := (ev {}).updQuartet 0 fun q => { q with table := [r .mma] }
    let held (op : MOp) : State := (ev {}).updQuartet 0 fun q => { q with array := some (r op) }
    tbl.mChoice 0 false = some (r .mma) ∧ (tbl.quartet 0).array.isNone = true ∧ (tbl.quartet 0).mRetired = false ∧
    ((r .mma).onPort == false && tbl.mReady 0 (r .mma)) = true ∧ (ev {}).mChoice 0 false = none ∧
    ([MOp.mma, .mmas, .mlut, .mcvt, .mzero].all fun op => ((held op).quartet 0).array == some (r op)) = true ∧
    (held .mma).badMeta (r .mma) = false ∧ (held .mmas).badMeta { r .mmas with shapes := [] } = false ∧
    (held .mmas).badMeta { r .mmas with shapes := [(0, 0x00FFFFFF)] } = true ∧ (65535 < 65536) := by decide +kernel
/-- EnginesAndRender: two quartets' units with tokens for one request or for both; a full pool and an empty one. -/
theorem test_w_tokens :
    let r : MReq := { id := 4, team := 0, launch := 0, ctx := 0, op := .mma, shapes := [(0, 0x10101)], cycles := 64 }
    let both (n : Nat) : State := onMgmt (((ev {}).updQuartet 0 fun q => { q with table := [r] }).updQuartet 1 fun q => { q with table := [r] })
      fun m => { m with pool := n }
    ([1, 2].map fun n => [0, 1].map fun q => ((both n).tokenTurn q, (both n).mChoice q false == some r)) =
      [[(true, true), (false, true)], [(true, true), (true, true)]] ∧ (both 0).mChoice 0 false = none := by decide +kernel
/-- EnginesAndRender: a query that may start, at an aligned record and not; one at work, with an empty stack and not, and one that ends. -/
theorem test_w_query_events :
    let q0 (a : Addr) : Query := { id := 4, team := 0, launch := 0, ctx := 0, recA := a, result := 0, spawn := 0, cap := {}, number := 1 }
    let s (a : Addr) : State := (ev {}).updQuartet 0 fun q => { q with queue := [q0 a] }
    let ray : List Byte := natBytes 64 (1 + 2 ^ 192 * 128)
    let at_ (z : Query) : State := (ev {}).updQuartet 0 fun q => { q with slots := [(0, z)] }
    let z : Query := { q0 0 with started := true, recBytes := ray }
    (s 4).nextQuery 0 = some (q0 4) ∧ (s 0).nextQuery 0 = some (q0 0) ∧ ((s 0).quartet 0).slots.get? 0 = none ∧ ((s 0).quartet 0).iRetired = false ∧
    ((q0 4).recA.toNat % 64 ≠ 0) ∧ (ev {}).nextQuery 0 = none ∧ (0 < 8) ∧
    ((at_ z).quartet 0).slots.get? 0 = some z ∧ (qrecOf (leNat ray)).isSome = true ∧ (z.started && !z.parked && !z.ending) = true ∧
    ({ z with stack := [{ test := false, node := 128, k := 0, x0 := 0, y0 := 0, wl := 0, hl := 0 }] } : Query).stack ≠ [] ∧
    ((at_ { z with ending := true }).quartet 0).slots.get? 0 = some { z with ending := true } := by decide +kernel
/-- EnginesAndRender: queries of a context that is torn down: one with records left, one with none. -/
theorem test_w_tearing :
    let hit : Hit := { tnum := 1, tden := 1, t := 1, prim := 0, u := 0, v := 0, tri := 0 }
    let t : TravRec := { test := false, node := 128, k := 0, x0 := 0, y0 := 0, wl := 0, hl := 0 }
    let z : Query := { id := 4, team := 0, launch := 0, ctx := 0, recA := 0, result := 0, spawn := 0, cap := {}, number := 1, started := true,
                       recBytes := natBytes 64 (1 + 2 ^ 5 + 2 ^ 192 * 128), hits := [(0, [hit])] }
    let s : State := ((ev {}).updQuartet 0 fun q => { q with slots := [(0, { z with stack := [t] })] }).updCtx 0 fun c => { c with st := .tearing }
    s.tearing 0 = true ∧ (ev {}).tearing 0 = false ∧ z.stack = [] ∧ z.blocks = 0 ∧ (!z.parked && !z.ending && z.started) = true ∧
    ((qrecOf (leNat z.recBytes)).any fun r => match s.runRecord (queryEng 0 0 { z with stack := [t] }) r z t with | .ok .. => true | _ => false) = true := by
  decide +kernel
/-- EnginesAndRender: triangles to send and to take in their turn, software packs, starved meshes. -/
theorem test_w_rendering :
    let t (sent : Bool) : Tri := { src := 0, dst := 1, slot := 0, launch := 0, desc := {}, number := 0, verts := [], regions := [(0, 0, 0)], clipped := false, soft := false, sent := sent }
    let s (b : Bool) (x : Input) : State := (ev x).updDie 0 fun d => { d with tris := [t b] }
    let into : State := s true { unit := 1, item := 0, id := 0 }
    let many : State := (ev {}).updDie 0 fun d => { d with tris := List.replicate 256 (t true) ++ [t false] }
    let starve := ((onDie fun d => { d with meshPending := [{ entry0 with desc := (ticket0 true).desc }] }).updCore 0 fun c =>
      c.updFrag 0 fun f => { f with st := .syncwait, wait := { kind := .payload, n := 1 } })
    (((s false {}).die 0).inFlight 1 < 256 ∧ (((s false {}).die 0).tris.any fun k => k.dst == 1 && !k.sent) = true) ∧
    ((many.die 0).inFlight 1 = 256) ∧ ((ev {}).die 0).tris[0]? = none ∧ (into.die 0).tris[0]? = some (t true) ∧
    ((t true).dst == 1 && (t true).sent && (t true).regions.all fun r => (into.die 1).seqIn.getD (inKey 0 0 0 r.1 r.2.1) 0 == r.2.2) = true ∧
    ((t false).dst == 1 && (t false).sent) = false ∧ ((ev {}).die 0).packs[0]? = none ∧
    (((onDie fun d => { d with packs := [{ launch := 0, ctx := 0, src := 0, slot := 0, desc := {}, tx := 0, ty := 0, tris := [] }] }).die 0).packs[0]?).isSome = true ∧
    ((starve.meshTickets 0).any fun e => !starve.fitsOn e.ticket 0) = true ∧
    (((starve.slotWaiters 0).map fun y => (starve.whoAt y.2.2.1 y.2.2.2).team).filter fun t => !(starve.team t).preempt) = [0] ∧
    (ev {}).meshTickets 0 = [] := by decide +kernel
/-- EnginesAndRender: lines that are held, clean and dirty, and not; a post that is performed at home, one that is a release. -/
theorem test_w_caches :
    let ln : Line := { key := 5, data := List.replicate 64 7 }
    let p : Post := { id := 7, slot := 0, team := 0, launch := 0, ctx := 0, place := .home, op := .store [(4096, 9), (4097, 8)], addr := 0, rel := none, binds := [] }
    let s := (ev { id := 7 }).updCore 0 fun c => { c with l1 := [(0, ln)], posts := [p] }
    (s.core 0).l1.get? 0 = some ln ∧ ln.dirty = 0 ∧ ((ev {}).core 0).l1.get? 0 = none ∧ ((onDie fun d => { d with l2 := [(0, ln)] }).die 0).l2.get? 0 = some ln ∧
    ((ev {}).die 0).l2.get? 0 = none ∧ (s.core 0).posts.find? (fun z => z.id == 7) = some p ∧ ((s.core 0).due fun y => y.id == 7).length = 1 ∧
    ([4096, 4097] : List Nat).Nodup ∧ ([4096, 4097].all fun y => !isDev y) = false ∧
    (([(scratchLoc 0 0, (9 : Byte))].map Prod.fst).Nodup ∧ ([(scratchLoc 0 0, (9 : Byte))].all fun y => !isDev y.1) = true) ∧
    ({ p with rel := some {} } : Post).rel.isSome = true := by decide +kernel

/-- FIPS 180-4's own worked example of SHA-384, the message "abc" (log entry 10). -/
theorem test_sha384 : sha384 [0x61, 0x62, 0x63] =
    0xcb00753f45a35e8bb5a03d699ac65007272c32ab0eded1631a8b605a43ff5bed8086072ba1e7cc2358baeca134c825a7#384 := by decide +kernel

/-! ## Assembled lines (R371 to R374, the worked examples of files 14 and 16) -/

theorem test_lines : lineWords "?p3 FFMA.rtz.sat v10, v4, v6, v8" = some (0x288A0818, some 0x310B3000) ∧
    lineWords "SHFL.down.w16 v7, v7, 5, v7" = some (0x34070E00, some 0x00E0062A) ∧
    lineWords "ST.rel.die [g4 + v6], v8" = some (0x36088819, some 0x04060042) := by decide +kernel

theorem test_bad_line : lineWords "IADD.rtz v5, v2, v3" = none := by decide +kernel

theorem test_source : (assemble [] 0x1000
    ".kernel k\n.wave 64\ntop: IADD v5, v2, v3\n?p2 FADD.rtz v8, v5, v6\nMOVI v9, 0x8000_0000\n?q1 BRA top ; back\n.end").code =
    [(0x1000, wordBytes 0x0005040C), (0x1004, wordBytes 0x28080A18 ++ wordBytes 0x200B2000),
     (0x100C, wordBytes 0x24090002 ++ wordBytes 0x80000000), (0x1014, wordBytes 0x880FFFFB)] := by decide +kernel

theorem test_nop_line : (match assembleLine {} none "NOP" [] [] with | .ok (.ins _) => true | _ => false) = true := by decide +kernel

theorem witness_AssembledLines :
    (∃ ns g name quals ops i, assembleLine ns g name quals ops = .ok (.ins i)) ∧
    branchOf 0x10 = some .bra ∧
    (let d : Desc := { entry := 0x1000, arg := 0, affname := 0, waves := 1, width := 0, vregs := 1, teamscr := 0, crows := 1, ccols := 1, cshare := 0, mtiles := 0, fuseTo := 512 }
     d.ranges = true ∧ d.fuseTo < 2 ^ 16) ∧
    brTo 0x10 { sw := false, sense := false, pred := 0, off := 0 } 0x100000 0 ≠ none ∧
    brTo 0x10 { sw := false, sense := false, pred := 0, off := 0 } 0 1048572 ≠ none ∧
    brTo 0x10 { sw := false, sense := false, pred := 0, off := 0 } 0 1048576 = none := by
  refine ⟨⟨{}, none, "NOP", [], [], ?_⟩, rfl, by decide, by decide, by decide, by decide⟩
  have h := test_nop_line
  split at h
  · exact ⟨_, ‹_›⟩
  · cases h

end Tests
end Sys2Proof
end

/-! Taking a trap (R303 to R305): what the record holds, where the fragment goes, and what stays. -/

namespace Sys2Proof
namespace Machine

/-! ### What an update of one fragment leaves of every core -/

section
variable (s : State) (w : Who) (f : Frag → Frag)

@[simp] theorem State.updFrag_core_wave (c k : Nat) : ((s.updFrag w f).core c).wave k = (s.core c).wave k := by
  by_cases hc : c = w.core
  · subst hc
    simp [State.updFrag]
  · rw [State.updFrag, State.updCore_core_ne _ _ _ _ hc]

@[simp] theorem State.updFrag_core_posts (c : Nat) : ((s.updFrag w f).core c).posts = (s.core c).posts := by
  by_cases hc : c = w.core
  · subst hc
    simp [State.updFrag]
  · rw [State.updFrag, State.updCore_core_ne _ _ _ _ hc]

theorem State.updFrag_core_frag_ne (c e : Nat) (h : c ≠ w.core ∨ e ≠ w.entry) :
    ((s.updFrag w f).core c).frag e = (s.core c).frag e := by
  by_cases hc : c = w.core
  · subst hc
    have he : e ≠ w.entry := h.resolve_left (· rfl)
    simp [State.updFrag, Core.updFrag_frag_ne _ _ _ _ he]
  · rw [State.updFrag, State.updCore_core_ne _ _ _ _ hc]

end

/-! ### The record and the fragment of a trap that is taken -/

/-- The trap record of R304 and R305: the trap's own fields, the instruction's words, operands and address, and the fragment as it
was. -/
def State.trapRec (s : State) (w : Who) (i : Ins) (t : Trap) : TrapRec :=
  let ops := i.ops (if t.lanes = 0 then lowestLane (s.frag w).mask else lowestLane t.lanes)
  let g := (s.wave w).greg
  { code := t.code, cause := t.cause, lanes := t.lanes, pend := t.pend, info := t.info,
    action := if t.code = 17 ∨ t.code = 18 then 1 else 3,
    instr := i.word, extw := i.ext.getD 0, xw := i.ext.isSome, unif := i.word.getLsbD 31,
    addr := if t.addr ≠ 0 ∨ t.lanes = 0 then t.addr else (i.adr (lowestLane t.lanes)).getD 0,
    opA := ops.1, opB := ops.2.1, opC := ops.2.2, saveg := [g 60, g 61, g 62, g 63],
    frag := (s.frag w).image, snaps := if t.code = 8 then s.snapshot w else [] }

/-- The fragment in the handler: in state TRAP at CTX_TRAPPC with its BUDGET restarted, and nothing left of the instruction that was
under way. -/
def State.inHandler (s : State) (w : Who) (r : TrapRec) (f : Frag) : Frag :=
  { f with trap := some r, budget := budgetOf 255 (s.launch w.launch).dlceil, st := .trap,
           pc := (s.ctx w.ctx).trappc ++ (0 : BitVec 2), unfin := 0, rounds := 0, prgi := 0, grouped := false, timer := 0,
           due := false, only := none, wait := {}, words := none, answers := [], pages := [], issued := none, desc := none,
           bad := false }

section
variable {s : State} {w : Who} {t : Trap} (i : Ins)

theorem State.takeTrap_of_noHandler (hmode : (s.frag w).trap = none) (hpc : (s.ctx w.ctx).trappc = 0) :
    s.takeTrap w i t = s.fatal w t.code false true := by
  simp [State.takeTrap, hmode, hpc]

/-- A trap that is not fatal changes the issuer's fragment alone. -/
theorem State.takeTrap_of_handler (hcode : t.code ≠ 9) (hmode : (s.frag w).trap = none) (hpc : (s.ctx w.ctx).trappc ≠ 0) :
    s.takeTrap w i t = s.updFrag w (s.inHandler w (s.trapRec w i t)) := by
  have hlive : ¬(t.code == 9 || (s.frag w).trap.isSome || (s.ctx w.ctx).trappc == 0) = true := by
    simpa [hcode, hmode] using hpc
  rw [State.takeTrap, if_neg hlive]
  refine congrArg (s.updFrag w) (funext fun f => ?_)
  simp [State.inHandler, State.trapRec]

end

/-- Settles O30: outside trap mode a trap is fatal without a handler, and with one an update of the issuer's fragment alone. -/
theorem trapEntry : Obligations.TrapEntry := by
  intro s w i t hcode hmode
  refine ⟨State.takeTrap_of_noHandler i hmode, fun hpc => ?_⟩
  simp only [State.takeTrap_of_handler i hcode hmode hpc, State.updFrag_frag]
  have hrecord : t.code ≠ 8 → (s.trapRec w i t).snaps = [] := fun h => if_neg h
  exact ⟨⟨s.trapRec w i t, rfl, rfl, rfl, rfl, rfl, rfl, rfl, rfl, rfl, rfl, rfl, rfl, rfl, rfl, rfl, rfl, hrecord⟩,
    rfl, rfl, rfl, rfl, fun c k => ⟨s.updFrag_core_wave w _ c k, s.updFrag_core_posts w _ c⟩,
    s.updFrag_core_frag_ne w _, rfl, rfl, rfl, rfl, rfl⟩

end Machine
end Sys2Proof

/-! Lane instructions as their rules state them: an instruction of a shared form gives every active lane the result that its rule
names, whatever legacy class the model shows beside it (R376). -/

namespace Sys2Proof
namespace Machine

/-- Two results write the same: only the legacy classes that they show may differ. -/
def LaneOut.writesAs (o o' : LaneOut) : Prop := o.v = o'.v ∧ o.p = o'.p ∧ o.fl = o'.fl

theorem LaneOut.writesAs_rfl (o : LaneOut) : o.writesAs o := ⟨rfl, rfl, rfl⟩

theorem LaneOut.quiet_of_v (v : List (Nat × Word)) : ({ v := v } : LaneOut).quiet := ⟨rfl, .inl rfl⟩
theorem LaneOut.quiet_of_p (v : List (Nat × Word)) (p : Option (Nat × Bool)) : ({ v := v, p := p } : LaneOut).quiet :=
  ⟨rfl, .inl rfl⟩

section
variable {s : State} {w : Who} {i : Instr} {f : LForm} {u : SrcUse} {g' : Nat → LaneOut}

/-- An instruction whose effect writes `outs` from `s'` on writes as well what results that write the same do. -/
theorem finished_writeLanes_congr {e : EMod} {g : Nat → LaneOut} (s' : State) (hg : ∀ l, (g l).writesAs (g' l)) :
    (Host.Outcome.next (s.finished w i (s'.writeLanes w (s.outsOf w e g))) : Host.Outcome State Fault Refusal) =
      .next (s.finished w i (s'.writeLanes w (s.outsOf w e g'))) := by
  rw [State.outsOf, writeLanes_congr s' w _ g g' hg, State.outsOf]

/-- An instruction of the integer form gives each active lane the result `g'` that its rule names. -/
theorem exec_laneOp {g : EMod → Wave → Nat → LaneOut} (hexec : exec i s = laneOp i f u g s) (hr : s.ready w = true)
    (hq : ∀ l, (g' l).quiet) (hg : ∀ l, g (i.extL f) (s.wave w) l = g' l) :
    exec i s = .next (s.finished w i (s.writeLanes w (s.outsOf w (i.extL f) g'))) := by
  obtain rfl : g (i.extL f) (s.wave w) = g' := funext hg
  exact hexec.trans (laneOp_done s w i f u g (s.ready_holds w hr) hq)

/-- An instruction of the rounding form, nothing being enabled to trap, writes to each active lane what `g'` does. -/
theorem exec_laneFp {g : EMod → FEnv → Wave → Nat → LaneOut} (hexec : exec i s = laneFp i f u true g s) (hr : s.ready w = true)
    (hu : s.untrapped w = true)
    (hg : ∀ l, (g (i.extL f) (s.fenv w (i.extL f).rnd (i.extL f).sat) (s.wave w) l).writesAs (g' l)) :
    exec i s = .next (s.finished w i ((s.drawn w (s.fenv w (i.extL f).rnd (i.extL f).sat)).writeLanes w
      (s.outsOf w (i.extL f) g'))) :=
  (hexec.trans (laneFp_done s w i f u true g (s.ready_holds w hr) hu)).trans
    (finished_writeLanes_congr (s.drawn w (s.fenv w (i.extL f).rnd (i.extL f).sat)) hg)

/-- An instruction of the cross-lane form whose groups are whole writes to each participant what `g'` does. -/
theorem exec_crossOp {g : EMod → FEnv → Wave → Mask → Nat → Nat → LaneOut} (hexec : exec i s = crossOp i f u g s)
    (hr : s.ready w = true) (hu : s.untrapped w = true) (hw : s.whole w ((i.extL f).byte.toNat % 8) = true)
    (hg : ∀ l, (g (i.extL f) (s.fenv w (i.extL f).rnd (i.extL f).sat) (s.wave w)
      (s.active w (i.extL f).gsense (i.extL f).guard) (widthOf ((i.extL f).byte.toNat % 8) (s.wave w).lanes) l).writesAs (g' l)) :
    exec i s = .next (s.finished w i ((s.drawn w (s.fenv w (i.extL f).rnd (i.extL f).sat)).writeLanes w
      (s.outsOf w (i.extL f) g'))) :=
  (hexec.trans (cross_done i f u g (s.ready_holds w hr) hu hw)).trans
    (finished_writeLanes_congr (s.drawn w (s.fenv w (i.extL f).rnd (i.extL f).sat)) hg)

end

end Machine
end Sys2Proof

/-! Integer arithmetic (R379, R380). -/

namespace Sys2Proof
namespace Machine

theorem intOut_eq_intoInt (sg : Bool) (n : Nat) (sat : Bool) (vd : Nat) (r : Int) :
    intOut sg n sat vd r = intoInt sg n sat vd r := intOut_eq sg n sat vd r

theorem intoInt_quiet (sg : Bool) (n : Nat) (sat : Bool) (vd : Nat) (r : Int) : (intoInt sg n sat vd r).quiet :=
  intOut_eq_intoInt sg n sat vd r ▸ intOut_quiet sg n sat vd r

/-- Every instruction of R379 is the integer form of its exact function. -/
theorem exec_integerOp (f : LForm) (s : State) :
    ∀ x ∈ integerOps, ∃ u, exec (x.1 f) s = laneOp (x.1 f) f u (intFn x.2 f) s := by
  simp only [integerOps, List.forall_mem_cons]
  exact ⟨⟨_, exec_iadd s f⟩, ⟨_, exec_isub s f⟩, ⟨_, exec_imul s f⟩, ⟨_, exec_imulh s f⟩, ⟨_, exec_imad s f⟩, ⟨_, exec_imin s f⟩,
    ⟨_, exec_imax s f⟩, ⟨_, exec_iabs s f⟩, List.forall_mem_nil _⟩

/-- IADDC's carry in: 0 under p0, else what the predicate holds. -/
theorem carryIn_eq (pc : Nat) (b : Bool) :
    (if pc == 0 then 0 else if b then 1 else 0 : Nat) = if pc ≠ 0 ∧ b = true then 1 else 0 := by
  by_cases hpc : pc = 0 <;> simp [hpc]

/-- Settles O1: every arithmetic instruction is the integer form of its function, and IADDC's carry is 0 under p0. -/
theorem integerArithmetic : Obligations.IntegerArithmetic := by
  intro f s w hr
  refine ⟨fun x hx => ?_, ?_⟩
  · obtain ⟨u, hexec⟩ := exec_integerOp f s x hx
    exact exec_laneOp hexec hr (fun l => intoInt_quiet ..) fun l => intOut_eq_intoInt ..
  · refine exec_laneOp (exec_iaddc s f) hr (fun l => LaneOut.quiet_of_p ..) fun l => ?_
    simp only [carryIn_eq]
    rfl

end Machine
end Sys2Proof

/-! Shift and bit instructions (R381): what each function gives, bit by bit. -/

namespace Sys2Proof
namespace Machine

/-! ### The bits of a word -/

@[simp] theorem bitOf_zero (a : Nat) : bitOf a 0 = a % 2 := by simp [bitOf]

@[simp] theorem bitOf_half (a k : Nat) : bitOf (a / 2) k = bitOf a (k + 1) := by
  rw [bitOf, bitOf, Nat.div_div_eq_div_mul, Nat.pow_succ']

/-- Bit k of a number given by its lowest bit and the rest. -/
theorem testBit_low_add (d r k : Nat) (hd : d < 2) :
    (d + 2 * r).testBit k = if k = 0 then decide (d = 1) else r.testBit (k - 1) := by
  cases k with
  | zero =>
    have hlow : (d + 2 * r) % 2 = d := by omega
    rw [Nat.testBit_zero, hlow, if_pos rfl]
  | succ k =>
    have hrest : (d + 2 * r) / 2 = r := by omega
    rw [Nat.testBit_add_one, hrest, if_neg (Nat.succ_ne_zero k), Nat.add_sub_cancel]

/-- Bit k of a number given by its low n bits and the rest. -/
theorem testBit_add_high (d r n k : Nat) (hd : d < 2 ^ n) :
    (r * 2 ^ n + d).testBit k = if k < n then d.testBit k else r.testBit (k - n) := by
  rw [Nat.mul_comm, Nat.testBit_two_pow_mul_add r hd]

/-- R381: bit k of LOP3 is the table's bit at the index that the k-th bits of a, b and c form. -/
theorem testBit_lop3N (t : Nat) : ∀ n a b c k : Nat, (lop3N t n a b c).testBit k =
    (decide (k < n) && t.testBit (bitOf a k + 2 * bitOf b k + 4 * bitOf c k)) := by
  intro n
  induction n with
  | zero => intro a b c k; simp [lop3N]
  | succ n ih =>
    intro a b c k
    rw [lop3N, testBit_low_add _ _ _ (Nat.mod_lt _ Nat.two_pos)]
    cases k with
    | zero => simp [Nat.testBit_eq_decide_div_mod_eq]
    | succ k => simp [ih]

theorem brevN_lt : ∀ n a : Nat, brevN n a < 2 ^ n := by
  intro n
  induction n with
  | zero => intro a; simp [brevN]
  | succ n ih =>
    intro a
    have hbit : a % 2 * 2 ^ n ≤ 1 * 2 ^ n := Nat.mul_le_mul_right _ (by omega)
    have := ih (a / 2)
    rw [brevN, Nat.pow_succ]
    omega

/-- R381: bit k of BREV is bit n - 1 - k of a. -/
theorem testBit_brevN : ∀ n a k : Nat, (brevN n a).testBit k = (decide (k < n) && a.testBit (n - 1 - k)) := by
  intro n
  induction n with
  | zero => intro a k; simp [brevN]
  | succ n ih =>
    intro a k
    rw [brevN, testBit_add_high _ _ _ _ (brevN_lt n _)]
    by_cases hk : k < n
    · have hidx : n - k = n - 1 - k + 1 := by omega
      simp [hk, Nat.lt_succ_of_lt hk, ih, hidx, Nat.testBit_add_one]
    · by_cases hn : k = n
      · simp [hn, Nat.testBit_zero]
      · have hbit : (a % 2).testBit (k - n) = false :=
          Nat.testBit_lt_two_pow (Nat.lt_of_lt_of_le (Nat.mod_lt _ Nat.two_pos) (Nat.le_self_pow (by omega) 2))
        have hout : ¬ k < n + 1 := by omega
        simp [hk, hbit, hout]

/-- R381: POPC counts the bits of a that are 1. -/
theorem popNat_eq_length : ∀ n a : Nat, popNat n a = ((List.range n).filter fun j => a.testBit j).length := by
  intro n
  induction n with
  | zero => intro a; rfl
  | succ n ih =>
    intro a
    have hrest : ((List.map Nat.succ (List.range n)).filter fun j => a.testBit j).length =
        ((List.range n).filter fun j => (a / 2).testBit j).length := by
      simp [List.filter_map, Function.comp_def, Nat.testBit_add_one]
    rw [popNat, ih, List.range_succ_eq_map, List.filter_cons]
    rcases Nat.mod_two_eq_zero_or_one a with h | h
    · simp [Nat.testBit_zero, h, hrest]
    · simp [Nat.testBit_zero, h, hrest, Nat.add_comm 1]

/-- R381: above the highest 1 of a, CLZ counts the zeros. -/
theorem clzN_spec {n a : Nat} (ha : a < 2 ^ n) :
    clzN n a ≤ n ∧ a < 2 ^ (n - clzN n a) ∧ (a ≠ 0 → 2 ^ (n - clzN n a - 1) ≤ a) := by
  by_cases h0 : a = 0
  · simp [clzN, h0]
  · have hlog : Nat.log2 a < n := (Nat.log2_lt h0).2 ha
    have hclz : clzN n a = n - 1 - Nat.log2 a := by simp [clzN, h0]
    have hrest : n - (n - 1 - Nat.log2 a) = Nat.log2 a + 1 := by omega
    rw [hclz, hrest]
    exact ⟨by omega, Nat.lt_log2_self, fun _ => Nat.log2_self_le h0⟩

/-- R381: ROT moves bit k of a to bit k + b, modulo the width. -/
theorem testBit_rotN {n a b k : Nat} (ha : a < 2 ^ n) (hb : b < n) (hk : k < n) :
    (rotN n a b).testBit ((k + b) % n) = a.testBit k := by
  have hout : a / 2 ^ (n - b) < 2 ^ b := by
    rw [Nat.div_lt_iff_lt_mul (Nat.two_pow_pos _), ← Nat.pow_add]
    rwa [Nat.add_sub_cancel' (Nat.le_of_lt hb)]
  rw [rotN, Nat.testBit_mod_two_pow, testBit_add_high _ _ _ _ hout]
  by_cases hwrap : k + b < n
  · have hhigh : ¬ k + b < b := by omega
    rw [Nat.mod_eq_of_lt hwrap, if_neg hhigh, Nat.add_sub_cancel, decide_eq_true hwrap, Bool.true_and]
  · have hmod : (k + b) % n = k + b - n := by
      rw [Nat.mod_eq_sub_mod (by omega), Nat.mod_eq_of_lt (by omega)]
    have hlow : k + b - n < b := by omega
    have hin : k + b - n < n := by omega
    have hidx : k + b - n + (n - b) = k := by omega
    rw [hmod, if_pos hlow, Nat.testBit_div_two_pow, hidx]
    simp [hin]

/-! ### The instructions -/

/-- Every instruction of R381 but the counting ones is the bit form of its function. -/
theorem exec_bitOp (f : LForm) (s : State) :
    ∀ x ∈ bitOps, ∃ u, exec (x.1 f) s = laneOp (x.1 f) f u (bitFn x.2 f) s := by
  simp only [bitOps, List.forall_mem_cons]
  exact ⟨⟨_, exec_and s f⟩, ⟨_, exec_or s f⟩, ⟨_, exec_xor s f⟩, ⟨_, exec_lop3 s f⟩, ⟨_, exec_shl s f⟩, ⟨_, exec_shr s f⟩,
    ⟨_, exec_sar s f⟩, ⟨_, exec_rot s f⟩, ⟨_, exec_brev s f⟩, List.forall_mem_nil _⟩

/-- Settles O2: each instruction is its form of the function, and the functions act bit by bit. -/
theorem bitInstructions : Obligations.BitInstructions := by
  refine ⟨fun f s w hr => ⟨fun x hx => ?_, ?_, ?_⟩, fun n a b c t k => ?_⟩
  · obtain ⟨u, hexec⟩ := exec_bitOp f s x hx
    exact exec_laneOp hexec hr (fun l => LaneOut.quiet_of_v _) fun l => rfl
  · exact exec_laneOp (exec_popc s f) hr (fun l => LaneOut.quiet_of_v _) fun l => rfl
  · exact exec_laneOp (exec_clz s f) hr (fun l => LaneOut.quiet_of_v _) fun l => rfl
  · exact ⟨testBit_lop3N t n a b c k, testBit_brevN n a k, popNat_eq_length n a, fun ha _ => clzN_spec ha,
      fun ha hb hk => testBit_rotN ha hb hk⟩

end Machine
end Sys2Proof

/-! Fields, compares and moves (R382, R383). -/

namespace Sys2Proof
namespace Machine

/-! ### Fields -/

/-- A two's complement reading is that of a bit vector. -/
theorem toSigned_eq_toInt {m : Nat} (hm : m ≠ 0) (x : Nat) : toSigned m x = (BitVec.ofNat m x).toInt := by
  have hhalf : 2 ^ m = 2 * 2 ^ (m - 1) := by rw [← Nat.pow_succ', Nat.succ_eq_add_one, Nat.sub_add_cancel (by omega)]
  rw [toSigned, BitVec.toInt_eq_toNat_cond, BitVec.toNat_ofNat]
  by_cases h : 2 ^ (m - 1) ≤ x % 2 ^ m
  · have hsign : ¬ 2 * (x % 2 ^ m) < 2 ^ m := by omega
    simp [h, hsign]
  · have hsign : 2 * (x % 2 ^ m) < 2 ^ m := by omega
    simp [h, hsign]

/-- Below bit n, a sign-extended m-bit number repeats its top bit above it. -/
theorem testBit_wrapN_toSigned {m n k : Nat} (hm : m ≠ 0) (hk : k < n) (x : Nat) :
    (wrapN n (toSigned m x)).testBit k = x.testBit (if k < m then k else m - 1) := by
  have hext : wrapN n (toSigned m x) = ((BitVec.ofNat m x).signExtend n).toNat := by
    rw [toSigned_eq_toInt hm, wrapN, BitVec.signExtend, BitVec.toNat_ofInt]
    norm_cast
  have htop : m - 1 < m := by omega
  rw [hext, BitVec.testBit_toNat, BitVec.getLsbD_signExtend, BitVec.msb_eq_getLsbD_last, BitVec.getLsbD_ofNat, BitVec.getLsbD_ofNat]
  by_cases hkm : k < m <;> simp [hk, hkm, htop]

/-- Bit k of a field of m bits from position pos on. -/
theorem testBit_field (a pos m k : Nat) : (a / 2 ^ pos % 2 ^ m).testBit k = (decide (k < m) && a.testBit (pos + k)) := by
  rw [Nat.testBit_mod_two_pow, Nat.testBit_div_two_pow, Nat.add_comm]

section
variable {n : Nat} (b : Nat)

/-- R382: a field ends within the width, and not below its position. -/
theorem fieldOf_le (hn : 0 < n) : (fieldOf n b).1 ≤ (fieldOf n b).2 ∧ (fieldOf n b).2 ≤ n := by
  have hpos : b % 64 % n < n := Nat.mod_lt _ hn
  simp only [fieldOf]
  omega

/-- R382: below bit n, BFX gives the field at bit 0 and above it zeros or, under an i format, the field's top bit. -/
theorem testBit_bfxN (sg : Bool) (a : Nat) {k : Nat} (hk : k < n) :
    (bfxN sg n a b).testBit k =
      if (fieldOf n b).1 + k < (fieldOf n b).2 then a.testBit ((fieldOf n b).1 + k)
      else sg && decide ((fieldOf n b).1 < (fieldOf n b).2) && a.testBit ((fieldOf n b).2 - 1) := by
  have hbfx : bfxN sg n a b =
      if sg && (fieldOf n b).2 - (fieldOf n b).1 != 0 then
        wrapN n (toSigned ((fieldOf n b).2 - (fieldOf n b).1) (a / 2 ^ (fieldOf n b).1 % 2 ^ ((fieldOf n b).2 - (fieldOf n b).1)))
      else a / 2 ^ (fieldOf n b).1 % 2 ^ ((fieldOf n b).2 - (fieldOf n b).1) := rfl
  rw [hbfx]
  generalize (fieldOf n b).1 = pos
  generalize (fieldOf n b).2 = e
  have hin : pos + k < e ↔ k < e - pos := by omega
  have hlen : pos < e ↔ e - pos ≠ 0 := by omega
  by_cases hext : sg = true ∧ pos < e
  · obtain ⟨hsg, hlt⟩ := hext
    have hm : e - pos ≠ 0 := hlen.1 hlt
    have htop : pos + (e - pos - 1) = e - 1 := by omega
    simp only [hsg, bne_iff_ne, hm, ne_eq, not_false_eq_true, Bool.true_and, if_true, testBit_wrapN_toSigned hm hk, testBit_field]
    by_cases hkm : k < e - pos
    · simp [hkm, hin]
    · have htop' : e - pos - 1 < e - pos := by omega
      simp [hkm, hin, htop, htop', hlt]
  · have hfill : (sg && decide (pos < e)) = false := by simpa using hext
    have hraw : (sg && e - pos != 0) = false := by simpa [hlen] using hext
    rw [hraw, hfill, if_neg Bool.false_ne_true, testBit_field]
    by_cases hkm : k < e - pos <;> simp [hkm, hin]

/-- R382: BFI puts the low bits of a into c's field and keeps the rest of c. -/
theorem testBit_bfiN (hn : 0 < n) (a c k : Nat) :
    (bfiN n a b c).testBit k =
      if (fieldOf n b).1 ≤ k ∧ k < (fieldOf n b).2 then a.testBit (k - (fieldOf n b).1) else c.testBit k := by
  obtain ⟨hle, -⟩ := fieldOf_le b hn
  have hbfi : bfiN n a b c = c % 2 ^ (fieldOf n b).1 + a % 2 ^ ((fieldOf n b).2 - (fieldOf n b).1) * 2 ^ (fieldOf n b).1 +
      c / 2 ^ (fieldOf n b).2 * 2 ^ (fieldOf n b).2 := rfl
  rw [hbfi]
  generalize (fieldOf n b).1 = pos at hle ⊢
  generalize (fieldOf n b).2 = e at hle ⊢
  have htop : c / 2 ^ e * 2 ^ e = c / 2 ^ e * 2 ^ (e - pos) * 2 ^ pos := by
    rw [Nat.mul_assoc, ← Nat.pow_add, Nat.sub_add_cancel hle]
  have hsplit : c % 2 ^ pos + a % 2 ^ (e - pos) * 2 ^ pos + c / 2 ^ e * 2 ^ e =
      (c / 2 ^ e * 2 ^ (e - pos) + a % 2 ^ (e - pos)) * 2 ^ pos + c % 2 ^ pos := by
    rw [htop, Nat.add_mul]
    ac_rfl
  rw [hsplit, testBit_add_high _ _ _ _ (Nat.mod_lt _ (Nat.two_pow_pos _)),
    testBit_add_high _ _ _ _ (Nat.mod_lt _ (Nat.two_pow_pos _))]
  by_cases hlow : k < pos
  · have hout : ¬ (pos ≤ k ∧ k < e) := by omega
    simp [hlow, hout, Nat.testBit_mod_two_pow]
  · by_cases hin : k < e
    · have hfield : pos ≤ k ∧ k < e := by omega
      have hm : k - pos < e - pos := by omega
      simp [hlow, hfield, hm, Nat.testBit_mod_two_pow]
    · have hout : ¬ (pos ≤ k ∧ k < e) := by omega
      have hm : ¬ k - pos < e - pos := by omega
      have hidx : k - pos - (e - pos) + e = k := by omega
      simp [hlow, hout, hm, Nat.testBit_div_two_pow, hidx]

end

/-! ### Bytes -/

/-- A bit of a number, as the model's byte functions test it. -/
theorem testBit_eq_beq (x j : Nat) : x.testBit j = (x / 2 ^ j % 2 == 1) := by
  rw [Nat.testBit_eq_decide_div_mod_eq, Bool.eq_iff_iff, decide_eq_true_iff, beq_iff_eq]

/-- The top bit of a byte. -/
theorem testBit_seven_of_byte {x : Nat} (hx : x < 256) : x.testBit 7 = decide (x ≥ 128) := by
  rw [Nat.testBit_eq_decide_div_mod_eq, decide_eq_decide]
  omega

/-- R382: PRMT's selector names a byte of a or b, which its bits 3 to 5 clear, fill with its sign, or invert. -/
theorem prmtByte_eq (a b c : Nat) :
    let pool : Nat := (if c % 8 < 4 then a / 256 ^ (c % 8) else b / 256 ^ (c % 8 - 4)) % 256
    let x : Nat := if c.testBit 3 then 0 else if c.testBit 4 then (if pool.testBit 7 then 255 else 0) else pool
    prmtByte a b c = if c.testBit 5 then 255 - x else x := by
  intro pool x
  have hpool : pool < 256 := Nat.mod_lt _ (by decide)
  simp only [x, testBit_seven_of_byte hpool, decide_eq_true_eq, testBit_eq_beq c, Nat.reducePow]
  rfl

/-- R382: PRMT puts its four bytes together. -/
theorem prmtN_eq (a b c : Nat) :
    prmtN a b c = prmtByte a b (c / 256 ^ 0 % 256) + prmtByte a b (c / 256 ^ 1 % 256) * 256 +
      prmtByte a b (c / 256 ^ 2 % 256) * 256 ^ 2 + prmtByte a b (c / 256 ^ 3 % 256) * 256 ^ 3 := by
  have hrange : List.range 4 = [0, 1, 2, 3] := rfl
  rw [prmtN, hrange, List.foldl_cons, List.foldl_cons, List.foldl_cons, List.foldl_cons, List.foldl_nil, Nat.zero_add, Nat.pow_zero,
    Nat.pow_one, Nat.mul_one]

/-! ### The instructions -/

/-- The condition codes of ICMP. -/
theorem condI_eq (k : Nat) (a b : Int) : condI k a b = match k with
    | 0 => decide (a = b) | 1 => decide (a ≠ b) | 2 => decide (a < b) | 3 => decide (a ≤ b) | 4 => decide (b < a)
    | _ => decide (b ≤ a) := by
  unfold condI
  split <;> rw [Bool.eq_iff_iff] <;> simp

/-- BFX, BFI and MOV are the bit form of their functions. -/
theorem exec_fieldOp (f : LForm) (s : State) :
    ∀ x ∈ fieldOps, ∃ u, exec (x.1 f) s = laneOp (x.1 f) f u (bitFn x.2 f) s := by
  simp only [fieldOps, List.forall_mem_cons]
  exact ⟨⟨_, exec_bfx s f⟩, ⟨_, exec_bfi s f⟩, ⟨_, exec_mov s f⟩, List.forall_mem_nil _⟩

/-- Settles O3: each instruction is its form of the rule's function, and the field and byte functions act as R382 says. -/
theorem fieldsCompareAndMove : Obligations.FieldsCompareAndMove := by
  refine ⟨fun f g s w hr => ⟨fun x hx => ?_, ?_, ?_, ?_, ?_, ?_⟩, fun n a b c k => ⟨fun hn _ hk => ⟨fun sg => ?_, ?_⟩, ?_⟩⟩
  · obtain ⟨u, hexec⟩ := exec_fieldOp f s x hx
    exact exec_laneOp hexec hr (fun l => LaneOut.quiet_of_v _) fun l => rfl
  · refine exec_laneOp (exec_movSpecial s f) hr (fun l => LaneOut.quiet_of_v _) fun l => ?_
    simp only [beq_iff_eq]
  · exact laneImm_done s w _ g false _ (s.ready_holds w hr) fun l => LaneOut.quiet_of_v _
  · refine exec_laneOp (exec_icmp s f) hr (fun l => LaneOut.quiet_of_p _ _) fun l => ?_
    simp only [condI_eq]
    rfl
  · exact exec_laneOp (exec_sel s f) hr (fun l => LaneOut.quiet_of_v _) fun l => rfl
  · refine exec_laneOp (exec_prmt s f) hr (fun l => LaneOut.quiet_of_v _) fun l => ?_
    simp only [prmtN_eq]
    rfl
  · exact testBit_bfxN b sg a hk
  · exact testBit_bfiN b (Nat.zero_lt_of_lt hk) a c k
  · exact prmtByte_eq a b c

end Machine
end Sys2Proof

/-! Dot products (R396, R397). -/

namespace Sys2Proof
namespace Machine

/-- An fp32 element rounded from an exact result writes what rounding that result once writes. -/
theorem elemOut_arith_writesAs (n : FEnv) (vd l : Nat) (os : List FOpd) (x : ValF) (leg : BitVec 16) :
    (elemOut 32 vd (arith n fp32 l os x leg)).writesAs (rounded n fp32 vd l x) := ⟨rfl, rfl, rfl⟩

/-- MXDOT has the cross-lane form: each lane's result needs its whole block. -/
theorem exec_mxdot_crossOp (f : LForm) (s : State) :
    exec (.mxdot f) s = crossOp (.mxdot f) f { a := true, b := true, c := true } (fun e n wv _ _ l => mxdot f e n wv l) s := rfl

/-- Adding up term by term gives the first value plus the sum of the terms. -/
theorem foldl_add_eq_add_sum {M : Type} [Add M] [Zero M] [Std.Associative (fun x y : M => x + y)]
    [Std.LawfulIdentity (fun x y : M => x + y) 0] (g : Nat → M) (c : M) (js : List Nat) :
    js.foldl (fun x j => x + g j) c = c + (js.map g).sum := by
  rw [List.sum_eq_foldl, ← List.foldl_assoc (op := fun x y : M => x + y), List.foldl_map]
  exact congrArg (fun z => js.foldl _ z) (Std.LawfulRightIdentity.right_id (op := fun x y : M => x + y) c).symm

/-- R396: VDOT8 is one exact sum of eight products and the addend, written into 32 bits. -/
theorem vdot8_eq (f : LForm) (e : EMod) (wv : Wave) (l : Nat) :
    let w8 := if e.fmt = 0 ∨ e.fmt = 4 then 8 else 4
    let sa := signedFmt e.fmt.toNat
    let sb := sa != e.mod.getLsbD 0
    vdot8 f e wv l = intoInt true 32 e.sat f.vd.toNat (((List.range 8).map fun j =>
      extBy sa w8 (elemAt w8 (wv.src false (8 * w8) l f.va.toNat) j) *
        extBy sb w8 (elemAt w8 (wv.src e.usrc (8 * w8) l f.vb.toNat) j)).sum + toSigned 32 (wv.vreg l e.src3.toNat).toNat) := by
  intro w8 sa sb
  have hw8 : (if e.fmt.toNat == 0 || e.fmt.toNat == 4 then 8 else 4) = w8 := by
    simp [w8, ← BitVec.toNat_inj]
  simp only [vdot8, hw8, intOut_eq_intoInt, foldl_add_eq_add_sum, Int.add_comm (toSigned 32 _)]
  rfl

/-- Settles O8: the model's elements are the exact sums of R396 and R397, rounded or written into an integer once. -/
theorem dotProducts : Obligations.DotProducts := by
  intro f s w hr hu
  refine ⟨?_, ?_, fun hw => ?_⟩
  · exact exec_laneFp (exec_vdot4 s f) hr hu fun l => elemOut_arith_writesAs _ _ _ _ _ _
  · exact exec_laneOp (exec_vdot8 s f) hr (fun l => intoInt_quiet ..) fun l => vdot8_eq ..
  · exact exec_crossOp (exec_mxdot_crossOp f s) hr hu hw fun l => elemOut_arith_writesAs _ _ _ _ _ _

end Machine
end Sys2Proof

/-! Cross-lane instructions (R399 to R404). -/

namespace Sys2Proof
namespace Machine

/-- SHFL has the cross-lane form; which registers it reads depends on its modes. -/
theorem exec_shfl_crossOp (f : LForm) (s : State) :
    ∃ u, exec (.shfl f) s = crossOp (.shfl f) f u (fun e _ wv _ n l => shuffle f e wv n l) s := ⟨_, exec_shfl s f⟩

/-- An fp32 code in a register, with the flags of its rounding, is what rounding once writes. -/
theorem fp32_writesAs_rounded (n : FEnv) (vd l : Nat) (x : ValF) :
    ({ v := [(vd, BitVec.ofNat 32 (n.round fp32 l x.1).code)], fl := x.2 ||| (n.round fp32 l x.1).fl } : LaneOut).writesAs
      (rounded n fp32 vd l x) := by
  have hcode : BitVec.ofNat 32 (n.round fp32 l x.1).code = BitVec.ofNat 32 ((n.round fp32 l x.1).code % 2 ^ 32) :=
    BitVec.eq_of_toNat_eq (by simp)
  rw [hcode]
  exact ⟨rfl, rfl, rfl⟩

/-- R402: BALLOT's word is the sum of the bits of the lanes whose predicate is 1. -/
theorem foldl_laneBits_eq_sum (p : Nat → Bool) (ms : List Nat) :
    ms.foldl (fun acc m => if p m then acc + 2 ^ m else acc) 0 = (ms.map fun m => if p m then 2 ^ m else 0).sum := by
  have hstep : (fun acc m => if p m then acc + 2 ^ m else acc) = fun acc m : Nat => acc + if p m then 2 ^ m else 0 := by
    funext acc m
    split <;> rfl
  rw [hstep, foldl_add_eq_add_sum, Nat.zero_add]

/-- Settles O11: each instruction is the cross-lane form of its rule. The model and the rule agree code by code of MOD. -/
theorem crossLane : Obligations.CrossLane := by
  intro f s w hr hu
  refine ⟨fun hw => ?_, fun hw => ?_, fun hw => ?_, fun hw => ?_, fun hw => ?_, fun hw => ?_, fun hw => ?_⟩
  · obtain ⟨u, hexec⟩ := exec_shfl_crossOp f s
    refine exec_crossOp hexec hr hu hw fun l => ?_
    refine ⟨?_, rfl, rfl⟩
    rcases hm : ((Instr.shfl f).extL f).mod.toNat % 4 with _ | _ | _ | m <;> simp only [shuffle, hm, ge_iff_le]
  · refine exec_crossOp (exec_vote s f) hr hu hw fun l => ?_
    refine ⟨rfl, ?_, rfl⟩
    rcases hm : ((Instr.vote f).extL f).mod.toNat with _ | _ | m <;> simp only [hm]
  · refine exec_crossOp (exec_ballot s f) hr hu hw fun l => ?_
    simp only [foldl_laneBits_eq_sum]
    exact LaneOut.writesAs_rfl _
  · exact exec_crossOp (exec_redux s f) hr hu hw fun l => LaneOut.writesAs_rfl _
  · exact exec_crossOp (exec_scan s f) hr hu hw fun l => LaneOut.writesAs_rfl _
  · refine exec_crossOp (exec_qswz s f) hr hu hw fun l => ?_
    refine ⟨?_, rfl, rfl⟩
    rcases hm : ((Instr.qswz f).extL f).mod.toNat % 4 with _ | _ | _ | m <;> simp only [hm]
  · refine exec_crossOp (exec_deriv s f) hr hu hw fun l => ?_
    generalize (Instr.deriv f).extL f = e
    generalize s.fenv w e.rnd e.sat = n
    obtain ⟨at_, hat⟩ : ∃ at_ : Nat → Val,
        ∀ j, decodeCode fp32 n.flush ((s.wave w).vreg (l / 4 * 4 + j) f.va.toNat).toNat = at_ j := ⟨_, fun _ => rfl⟩
    simp only [fopd, hat]
    generalize e.mod.toNat % 4 = m
    rcases m with _ | _ | _ | m <;> simp only
    · cases at_ 0 <;> exact fp32_writesAs_rounded ..
    · cases at_ 0 <;> exact fp32_writesAs_rounded ..
    · cases at_ (2 * (l / 2 % 2)) <;> exact fp32_writesAs_rounded ..
    · cases at_ (l % 2) <;> exact fp32_writesAs_rounded ..

end Machine
end Sys2Proof

/-! Uniform instructions: what the shared form comes to at each end of an issue (R432). -/

namespace Sys2Proof
namespace Machine

section
variable {s : State} {w : Who} {i : Instr} {f : UForm} {u : SrcUse} {body : EMod → State → Who → Flow} {t : State}

/-- A uniform instruction that runs comes to the end that its effect gives. -/
theorem exec_uniOp (hexec : exec i s = uniOp i f u body s) (hr : s.runs w i f) :
    exec i s = .next (s.conclude w (insOf i (opsUni u f (i.extU f) s w) (instrAddr i (s.regs w))) (body (i.extU f) s w)) :=
  hexec.trans (uniOp_holds s w i f u body hr.1 hr.2)

theorem exec_uniOp_done (hexec : exec i s = uniOp i f u body s) (hr : s.runs w i f) (hb : body (i.extU f) s w = .done t) :
    exec i s = .next (s.finished w i t) := by
  rw [exec_uniOp hexec hr, hb, conclude_done]

theorem exec_uniOp_jump {pc : Addr} (hexec : exec i s = uniOp i f u body s) (hr : s.runs w i f)
    (hb : body (i.extU f) s w = .jump t pc) : exec i s = .next (s.finishedAt w i t pc) := by
  rw [exec_uniOp hexec hr, hb, conclude_jump]

theorem exec_uniOp_wait {k : Wait} (hexec : exec i s = uniOp i f u body s) (hr : s.runs w i f)
    (hb : body (i.extU f) s w = .wait t k) : exec i s = .next (s.awaiting w i t k) := by
  rw [exec_uniOp hexec hr, hb, conclude_wait]

theorem exec_uniOp_trap {x : Trap} (hexec : exec i s = uniOp i f u body s) (hr : s.runs w i f)
    (hb : body (i.extU f) s w = .trap t x) : ∃ ops, exec i s = .next (s.raised w i ops t x) :=
  ⟨opsUni u f (i.extU f) s w, by rw [exec_uniOp hexec hr, hb, conclude_trap]⟩

/-- R432: under a false guard it only issues. -/
theorem exec_uniOp_unguarded (hexec : exec i s = uniOp i f u body s) (hr : s.ready w = true)
    (hg : (s.wave w).uguard (i.extU f) = false) : exec i s = .next (s.finished w i s) :=
  hexec.trans (uniOp_unguarded s w i f u body hr hg)

theorem State.ready_runs (hr : s.ready w = true) (hg : (s.wave w).uguard (i.extU f) = true) : s.runs w i f :=
  ⟨s.ready_holds w hr, hg⟩

end

/-- Two updates that agree on the issuer's wave are the same. -/
theorem State.updWave_congr {s : State} {w : Who} {f g : Wave → Wave} (h : f (s.wave w) = g (s.wave w)) :
    s.updWave w f = s.updWave w g := by
  change s.updWave w (fun _ => f (s.wave w)) = s.updWave w fun _ => g (s.wave w)
  rw [h]

end Machine
end Sys2Proof

/-! Uniform arithmetic (R433 to R435). -/

namespace Sys2Proof
namespace Machine

/-! ### The functions -/

theorem wrapN_eq_toNat_ofInt (n : Nat) (x : Int) : wrapN n x = (BitVec.ofInt n x).toNat := by
  rw [wrapN, BitVec.toNat_ofInt]
  norm_cast

theorem wrapN_lt (n : Nat) (x : Int) : wrapN n x < 2 ^ n := wrapN_eq_toNat_ofInt n x ▸ BitVec.isLt _

/-- GSUB's difference is the exact one in n bits. -/
theorem subN_eq_wrapN (n a b : Nat) : subN n a b = wrapN n ((a : Int) - b) := by
  rw [wrapN_eq_toNat_ofInt, Int.sub_eq_add_neg, BitVec.ofInt_add, BitVec.ofInt_neg, BitVec.ofInt_natCast, BitVec.ofInt_natCast,
    ← BitVec.sub_eq_add_neg, BitVec.ofNat_sub_ofNat, BitVec.toNat_ofNat, Nat.add_comm, subN]

theorem subN_mod (n a b : Nat) : subN n a b % 2 ^ n = wrapN n ((a : Int) - b) := by
  rw [subN_eq_wrapN, Nat.mod_eq_of_lt (wrapN_lt n _)]

theorem gshrN_mod (arith : Bool) (n a b : Nat) :
    gshrN arith n a b % 2 ^ n =
      if arith then wrapN n (toSigned n a / (2 ^ (b % n) : Int)) else a / 2 ^ (b % n) % 2 ^ n := by
  cases arith with
  | false => rfl
  | true => exact Nat.mod_eq_of_lt (wrapN_lt n _)

/-- GSHR (I) on words: the bit vectors' own shifts. -/
theorem ofNat_gshrN (arith : Bool) (a b : Word) :
    BitVec.ofNat 32 (gshrN arith 32 a.toNat b.toNat) =
      if arith then a.sshiftRight (b.toNat % 32) else a >>> (b.toNat % 32) := by
  cases arith with
  | false =>
    have hword : a.toNat / 2 ^ (b.toNat % 32) = (a >>> (b.toNat % 32)).toNat := by
      rw [BitVec.toNat_ushiftRight, Nat.shiftRight_eq_div_pow]
    rw [gshrN, if_neg Bool.false_ne_true, if_neg Bool.false_ne_true, hword, BitVec.ofNat_toNat, BitVec.setWidth_eq]
  | true =>
    have hsigned : toSigned 32 a.toNat = a.toInt := by
      rw [toSigned_eq_toInt (by decide), BitVec.ofNat_toNat, BitVec.setWidth_eq]
    simp [gshrN, sarN, wrapN_eq_toNat_ofInt, hsigned, BitVec.sshiftRight_eq, Int.shiftRight_eq_div_pow, -BitVec.toNat_ofInt]

theorem ofNat_shiftLeft_mod (a b : Word) : BitVec.ofNat 32 (a.toNat * 2 ^ (b.toNat % 32)) = a <<< (b.toNat % 32) := by
  refine BitVec.eq_of_toNat_eq ?_
  simp [Nat.shiftLeft_eq]

theorem ofNat_subN (a b : Word) : BitVec.ofNat 32 (subN 32 a.toNat b.toNat) = a - b := by
  refine BitVec.eq_of_toNat_eq ?_
  rw [BitVec.toNat_ofNat, BitVec.toNat_sub, subN, Nat.mod_mod, Nat.mod_eq_of_lt b.isLt, Nat.add_comm]

theorem Wave.usrcG_eq (wv : Wave) (n r : Nat) :
    wv.usrcG n r = if n = 64 then (wv.g64 r).toNat else (wv.greg r).toNat := by
  simp only [Wave.usrcG, beq_iff_eq]

/-- A 32-bit result is one word. -/
theorem Wave.putG_word (wv : Wave) (r x : Nat) : wv.putG 32 r (x % 2 ^ 32) = wv.setG r (BitVec.ofNat 32 x) := by
  have hword : BitVec.ofNat 32 (x % 2 ^ 32 % 2 ^ 32) = BitVec.ofNat 32 x := BitVec.eq_of_toNat_eq (by simp)
  rw [← hword]
  rfl

theorem condI_eq_condOf (c : Nat) (a b : Int) : condI c a b = condOf c a b := condI_eq c a b

theorem Wave.greg_setG (wv : Wave) (r k : Nat) (x : Word) : (wv.setG r x).greg k = if k = r then x else wv.greg k :=
  Tbl.getD_put wv.g r k x 0

/-! ### The instructions -/

/-- Every instruction of `uniformOps` is the uniform form of a function that agrees with its rule's in the low bits. -/
theorem exec_uniformOp (f : UForm) (s : State) :
    ∀ x ∈ uniformOps, ∃ u h, exec (x.1 f) s = uniOp (x.1 f) f u (uniFn h f) s ∧ ∀ e n a b, h e n a b % 2 ^ n = x.2 e n a b := by
  simp only [uniformOps, List.forall_mem_cons]
  exact ⟨⟨_, _, exec_gadd s f, fun _ _ _ _ => rfl⟩, ⟨_, _, exec_gsub s f, fun _ => subN_mod⟩,
    ⟨_, _, exec_gmul s f, fun _ _ _ _ => rfl⟩, ⟨_, _, exec_gand s f, fun _ _ _ _ => rfl⟩, ⟨_, _, exec_gor s f, fun _ _ _ _ => rfl⟩,
    ⟨_, _, exec_gxor s f, fun _ _ _ _ => rfl⟩, ⟨_, _, exec_gshl s f, fun _ _ _ _ => rfl⟩, ⟨_, _, exec_gshr s f, fun _ => gshrN_mod _⟩,
    ⟨_, _, exec_gmov s f, fun _ _ _ _ => rfl⟩, List.forall_mem_nil _⟩

/-- Every instruction of `uniformImmOps` is the immediate form of its rule's function on words. -/
theorem exec_uniformImmOp (f : UImm) (s : State) :
    ∀ x ∈ uniformImmOps, ∃ a h, exec (x.1 f) s = uniImm (x.1 f) f a h s ∧
      ∀ p q : Word, BitVec.ofNat 32 (h p.toNat q.toNat) = x.2 f p q := by
  simp only [uniformImmOps, List.forall_mem_cons]
  exact ⟨⟨_, _, exec_gaddI s f, fun p q => by simp [BitVec.ofNat_add]⟩, ⟨_, _, exec_gsubI s f, ofNat_subN⟩,
    ⟨_, _, exec_gmulI s f, fun p q => by simp [BitVec.ofNat_mul]⟩, ⟨_, _, exec_gandI s f, fun p q => by simp [BitVec.ofNat_and]⟩,
    ⟨_, _, exec_gorI s f, fun p q => by simp [BitVec.ofNat_or]⟩, ⟨_, _, exec_gxorI s f, fun p q => by simp [BitVec.ofNat_xor]⟩,
    ⟨_, _, exec_gshlI s f, ofNat_shiftLeft_mod⟩, ⟨_, _, exec_gshrI s f, ofNat_gshrN _⟩,
    ⟨_, _, exec_gmovi s f, fun p q => by simp⟩, List.forall_mem_nil _⟩

/-- An instruction of the immediate form writes its function of ga and the immediate to gd. -/
theorem exec_uniImm_done {i : Instr} {f : UImm} {a : Bool} {h : Nat → Nat → Nat} {g : Word → Word → Word} {s : State} {w : Who}
    (hexec : exec i s = uniImm i f a h s) (hr : s.ready w = true) (hg : ∀ p q : Word, BitVec.ofNat 32 (h p.toNat q.toNat) = g p q) :
    exec i s = .next (s.finished w i (s.updWave w fun wv => wv.setG f.gd.toNat (g ((s.wave w).greg f.ga.toNat) f.imm))) := by
  rw [hexec, uniImm_done s w i f a h (s.ready_holds w hr)]
  refine congrArg (fun t => Host.Outcome.next (s.finished w i t)) (State.updWave_congr ?_)
  rw [Wave.putG_word, hg]

/-- The uniform instructions that carry a guard (R432). -/
def guardedOps : List (UForm → Instr) :=
  [.gadd, .gsub, .gmul, .gand, .gor, .gxor, .gshl, .gshr, .gcmp, .gsel, .gmov, .gld, .gst, .ret, .jmpi, .exit, .nop, .rcv, .yld,
    .idr, .bar, .cbar, .fence, .bind, .unbind, .scopeset, .scopesync, .expect, .mfs, .mts, .role, .enq, .enqg, .segattLd, .segattNf,
    .segdet, .segpin, .cpygo, .cpywt, .taskpost, .taskwt, .mma, .mmas, .mlut, .mzero, .mld, .mst, .mcvt, .mwait, .rayq, .raywt, .emit,
    .payw, .payr, .atlreq]

/-- RAYQ's is the uniform form; which registers it reads depends on its mode. -/
theorem exec_rayq_uniOp (f : UForm) (s : State) : ∃ u body, exec (.rayq f) s = uniOp (.rayq f) f u body s := by
  rw [exec_rayq, execRayq]
  exact ⟨_, _, rfl⟩

/-- Each of them has the uniform form, which evaluates the guard before the effect. -/
theorem exec_guardedOp (f : UForm) (s : State) :
    ∀ c ∈ guardedOps, ∃ u body, exec (c f) s = uniOp (c f) f u body s := by
  simp only [guardedOps, List.forall_mem_cons]
  exact ⟨⟨_, _, exec_gadd s f⟩, ⟨_, _, exec_gsub s f⟩, ⟨_, _, exec_gmul s f⟩, ⟨_, _, exec_gand s f⟩, ⟨_, _, exec_gor s f⟩,
    ⟨_, _, exec_gxor s f⟩, ⟨_, _, exec_gshl s f⟩, ⟨_, _, exec_gshr s f⟩, ⟨_, _, exec_gcmp s f⟩, ⟨_, _, exec_gsel s f⟩,
    ⟨_, _, exec_gmov s f⟩, ⟨_, _, exec_gld s f⟩, ⟨_, _, exec_gst s f⟩, ⟨_, _, exec_ret s f⟩, ⟨_, _, exec_jmpi s f⟩,
    ⟨_, _, exec_exit s f⟩, ⟨_, _, exec_nop s f⟩, ⟨_, _, exec_rcv s f⟩, ⟨_, _, exec_yld s f⟩, ⟨_, _, exec_idr s f⟩,
    ⟨_, _, exec_bar s f⟩, ⟨_, _, exec_cbar s f⟩, ⟨_, _, exec_fence s f⟩, ⟨_, _, exec_bind s f⟩, ⟨_, _, exec_unbind s f⟩,
    ⟨_, _, exec_scopeset s f⟩, ⟨_, _, exec_scopesync s f⟩, ⟨_, _, exec_expect s f⟩, ⟨_, _, exec_mfs s f⟩, ⟨_, _, exec_mts s f⟩,
    ⟨_, _, exec_role s f⟩, ⟨_, _, exec_enq s f⟩, ⟨_, _, exec_enqg s f⟩, ⟨_, _, exec_segattLd s f⟩, ⟨_, _, exec_segattNf s f⟩,
    ⟨_, _, exec_segdet s f⟩, ⟨_, _, exec_segpin s f⟩, ⟨_, _, exec_cpygo s f⟩, ⟨_, _, exec_cpywt s f⟩, ⟨_, _, exec_taskpost s f⟩,
    ⟨_, _, exec_taskwt s f⟩, ⟨_, _, exec_mma s f⟩, ⟨_, _, exec_mmas s f⟩, ⟨_, _, exec_mlut s f⟩, ⟨_, _, exec_mzero s f⟩,
    ⟨_, _, exec_mld s f⟩, ⟨_, _, exec_mst s f⟩, ⟨_, _, exec_mcvt s f⟩, ⟨_, _, exec_mwait s f⟩, exec_rayq_uniOp f s,
    ⟨_, _, exec_raywt s f⟩, ⟨_, _, exec_emit s f⟩, ⟨_, _, exec_payw s f⟩, ⟨_, _, exec_payr s f⟩, ⟨_, _, exec_atlreq s f⟩,
    List.forall_mem_nil _⟩

/-- Settles O24: each instruction is the uniform form of its rule's function, and every guarded one has the form that only issues
under a false guard. -/
theorem uniformArithmetic : Obligations.UniformArithmetic := by
  refine ⟨fun f g s w hr => ⟨fun x hx => ?_, fun x hx => ?_, ?_, ?_, ?_, ?_⟩, fun f s w hr => ?_⟩
  · intro i e n src hg _
    obtain ⟨u, h, hexec, hh⟩ := exec_uniformOp f s x hx
    refine exec_uniOp_done hexec (State.ready_runs hr hg) ?_
    simp only [uniFn, hh, Wave.usrcG_eq]
    rfl
  · obtain ⟨a, h, hexec, hh⟩ := exec_uniformImmOp g s x hx
    exact exec_uniImm_done hexec hr hh
  · intro i e n src hg
    refine exec_uniOp_done (exec_gcmp s f) (State.ready_runs hr hg) ?_
    simp only [condI_eq_condOf]
    rfl
  · refine issue_done s w _ _ _ _ (s.ready_holds w hr) ?_
    simp only [condI_eq_condOf]
  · intro i e n hg
    refine exec_uniOp_done (exec_gsel s f) (State.ready_runs hr hg) ?_
    simp only [apply_ite ((s.wave w).usrcG n)]
    rfl
  · exact fun wv r k x b _ _ => ⟨Wave.greg_setG wv r k x, rfl, rfl, rfl⟩
  · intro c hc hg
    obtain ⟨u, body, hexec⟩ := exec_guardedOp f s c hc
    exact exec_uniOp_unguarded hexec hr hg

end Machine
end Sys2Proof

/-! Branches, calls and returns (R438 to R441). -/

namespace Sys2Proof
namespace Machine

/-! ### Masks -/

theorem mem_lanesOf (m : Mask) (l : Nat) : l ∈ lanesOf m ↔ l < 64 ∧ m.getLsbD l = true := by
  simp [lanesOf]

theorem mask_ne_zero_iff (m : Mask) : m ≠ 0 ↔ ∃ l, l < 64 ∧ m.getLsbD l = true := by
  constructor
  · intro hm
    refine Classical.byContradiction fun hnone => hm (BitVec.eq_of_getLsbD_eq fun l hl => ?_)
    have hl0 : ¬ m.getLsbD l = true := fun h => hnone ⟨l, hl, h⟩
    simpa using hl0
  · rintro ⟨l, -, hl⟩ rfl
    simp at hl

theorem lowestLane_mem {m : Mask} (hm : m ≠ 0) : lowestLane m ∈ lanesOf m := by
  obtain ⟨l, hl⟩ := (mask_ne_zero_iff m).1 hm
  have hne : lanesOf m ≠ [] := List.ne_nil_of_mem ((mem_lanesOf m l).2 hl)
  rw [lowestLane, List.headD_eq_head?_getD, List.head?_eq_some_head hne]
  exact List.head_mem hne

/-- The sum that builds a mask stays below the next lane's bit. -/
theorem foldl_laneBits_lt (p : Nat → Bool) (n : Nat) :
    (List.range n).foldl (fun acc l => if p l then acc + 2 ^ l else acc) 0 < 2 ^ n := by
  induction n with
  | zero => simp
  | succ n ih =>
    rw [List.range_succ, List.foldl_append, List.foldl_cons, List.foldl_nil, Nat.pow_succ]
    split <;> omega

theorem testBit_foldl_laneBits (p : Nat → Bool) (n k : Nat) :
    ((List.range n).foldl (fun acc l => if p l then acc + 2 ^ l else acc) 0).testBit k = (decide (k < n) && p k) := by
  induction n with
  | zero => simp
  | succ n ih =>
    have hlt := foldl_laneBits_lt p n
    rw [List.range_succ, List.foldl_append, List.foldl_cons, List.foldl_nil]
    generalize (List.range n).foldl (fun acc l => if p l then acc + 2 ^ l else acc) 0 = acc at ih hlt ⊢
    have hadd : (if p n then acc + 2 ^ n else acc) = (p n).toNat * 2 ^ n + acc := by cases p n <;> simp [Nat.add_comm]
    rw [hadd, testBit_add_high _ _ _ _ hlt, ih]
    rcases Nat.lt_trichotomy k n with h | rfl | h
    · simp [h, Nat.lt_succ_of_lt h]
    · cases p k <;> simp
    · have hbit : (p n).toNat.testBit (k - n) = false :=
        Nat.testBit_lt_two_pow (Nat.lt_of_lt_of_le (Bool.toNat_lt _) (Nat.le_self_pow (by omega) 2))
      simp [hbit, Nat.not_lt_of_gt h, Nat.not_lt_of_le (Nat.succ_le_of_lt h)]

theorem getLsbD_maskOf (p : Nat → Bool) (l : Nat) : (maskOf p).getLsbD l = (decide (l < 64) && p l) := by
  rw [maskOf, BitVec.getLsbD_ofNat, testBit_foldl_laneBits, ← Bool.and_assoc, Bool.and_self]

/-- The lanes of a mask that pass a test that they all pass. -/
theorem maskOf_and_of_all {m : Mask} {p : Nat → Bool} (h : ∀ l ∈ lanesOf m, p l = true) :
    (maskOf fun l => m.getLsbD l && p l) = m := by
  refine BitVec.eq_of_getLsbD_eq fun l hl => ?_
  rw [getLsbD_maskOf, decide_eq_true hl, Bool.true_and, Bool.and_eq_left_iff_imp]
  exact fun hin => h l ((mem_lanesOf m l).2 ⟨hl, hin⟩)

/-- The lanes of a mask that pass a test that none of them passes. -/
theorem maskOf_and_of_none {m : Mask} {p : Nat → Bool} (h : ∀ l ∈ lanesOf m, p l = false) :
    (maskOf fun l => m.getLsbD l && p l) = 0 := by
  refine BitVec.eq_of_getLsbD_eq fun l hl => ?_
  rw [getLsbD_maskOf, decide_eq_true hl, Bool.true_and]
  exact (Bool.and_eq_false_imp.2 fun hin => h l ((mem_lanesOf m l).2 ⟨hl, hin⟩)).trans BitVec.getLsbD_zero.symm

/-! ### Conditions and targets -/

theorem Wave.getLsbD_guarded (wv : Wave) (sense : Bool) (g : BitVec 3) {l : Nat} (hl : l < 64) :
    (wv.guarded sense g).getLsbD l = (wv.pred l g.toNat != sense) := by
  cases sense <;> simp [Wave.guarded, Wave.pred, hl]

/-- BRU's condition: some running lane's predicate holds under SENSE. -/
theorem Wave.branchLanes_ne_zero (wv : Wave) (f : BForm) (m : Mask) :
    (wv.branchLanes f m != 0) = (lanesOf m).any fun l => wv.pred l f.pred.toNat != f.sense := by
  rw [Bool.eq_iff_iff, bne_iff_ne, mask_ne_zero_iff, List.any_eq_true]
  refine exists_congr fun l => ?_
  rw [mem_lanesOf, Wave.branchLanes, BitVec.getLsbD_and, Bool.and_eq_true, and_assoc]
  refine and_congr_right fun hl => ?_
  rw [Wave.getLsbD_guarded wv f.sense f.pred hl]

/-- R352: the offset counts words from the branch's own address. -/
theorem branchTarget_eq_targetOf (f : BForm) (pc : Addr) : branchTarget f pc = targetOf f pc := by
  have hoff : (f.off ++ (0 : BitVec 2)).toInt = 4 * f.off.toInt := by
    rw [BitVec.toInt_append]
    simp
  rw [branchTarget, targetOf, BitVec.signExtend, hoff, BitVec.ofInt_add, BitVec.ofInt_natCast, BitVec.ofNat_toNat, BitVec.setWidth_eq]

theorem aligned_iff (t : Addr) : (t.extractLsb' 0 2 != 0) = false ↔ t.toNat % 4 = 0 := by
  rw [bne_eq_false_iff_eq, ← BitVec.toNat_inj]
  simp

/-! ### The branch form -/

theorem wordLen_encB (m : Nat) (f : BForm) : wordLen (encB m f).1 = 4 := by
  have hx : wordX (encB m f).1 = false := by
    simp only [wordX, encB, BitVec.getLsbD_append]
    rfl
  rw [wordLen, hx]
  rfl

section
variable {s : State} {w : Who} {i : Instr} {m : Nat} {f : BForm} {body : State → Who → Flow}

/-- A branch that is not taken goes to the next word. -/
theorem finished_eq_finishedAt (henc : encode i = some (encB m f)) (t : State) :
    s.finished w i t = s.finishedAt w i t ((s.frag w).pc + 4) := by
  have hlen : wordLen (wordOf i) = 4 := by
    rw [wordOf, insOf, henc]
    exact wordLen_encB m f
  rw [State.finished, State.finishedAt, hlen]
  rfl

/-- An instruction of the branch form goes to its target with effect `t` where its condition holds, and else to the next word without
effect. -/
theorem exec_branchOp (hexec : exec i s = branchOp i body s) (henc : encode i = some (encB m f)) (hr : s.ready w = true)
    {c : Bool} {t : State} {target : Addr} (hb : body s w = if c then .jump t target else .done s) :
    exec i s = .next (if c then s.finishedAt w i t target else s.finishedAt w i s ((s.frag w).pc + 4)) := by
  have hh := s.ready_holds w hr
  cases c with
  | true => exact hexec.trans (issue_jump s w i _ body t target hh hb)
  | false => exact (hexec.trans (issue_done s w i _ body s hh hb)).trans (by rw [finished_eq_finishedAt henc]; rfl)

/-- BRA and BRU have no effect beside where they go. -/
theorem exec_branchOp_plain (hexec : exec i s = branchOp i body s) (henc : encode i = some (encB m f)) (hr : s.ready w = true)
    {c : Bool} {target : Addr} (hb : body s w = if c then .jump s target else .done s) :
    exec i s = .next (s.finishedAt w i s (if c then target else (s.frag w).pc + 4)) := by
  rw [exec_branchOp hexec henc hr hb, apply_ite (s.finishedAt w i s)]

end

/-- R131: a branch that every running lane takes is a jump. -/
theorem brSplit_all (s : State) (w : Who) (sw : Bool) (target next : Addr) :
    s.brSplit w sw (s.frag w).mask target next = .jump s target := by
  simp [State.brSplit]

/-- Settles O25: BRA, CALL and BRU by the branch form's law, JMPI and an agreeing RET as jumps of the uniform form. -/
theorem uniformBranches : Obligations.UniformBranches := by
  intro f g s w hr pc mask linked taken
  refine ⟨?_, ?_, ?_, fun hg ht => ?_, fun t hg hm ht hlink => ?_⟩
  · rw [← branchTarget_eq_targetOf]
    exact exec_branchOp_plain (exec_bra s f) rfl hr rfl
  · rw [← branchTarget_eq_targetOf]
    exact exec_branchOp (exec_call s f) rfl hr rfl
  · rw [← branchTarget_eq_targetOf, ← Wave.branchLanes_ne_zero]
    exact exec_branchOp_plain (exec_bru s f) rfl hr rfl
  · refine exec_uniOp_jump (exec_jmpi s g) (State.ready_runs hr hg) ?_
    simp only [(aligned_iff _).2 ht]
    rfl
  · refine exec_uniOp_jump (exec_ret s g) (State.ready_runs hr hg) ?_
    have hlowest : (s.wave w).v64 (lowestLane mask) ((s.wave w).vregs - 2) = t := hlink _ (lowestLane_mem hm)
    have haligned : (maskOf fun l => mask.getLsbD l && ((s.wave w).v64 l ((s.wave w).vregs - 2)).extractLsb' 0 2 != 0) = 0 :=
      maskOf_and_of_none fun l hl => by rw [hlink l hl, (aligned_iff t).2 ht]
    have hall : (maskOf fun l => mask.getLsbD l && (s.wave w).v64 l ((s.wave w).vregs - 2) == t) = mask :=
      maskOf_and_of_all fun l hl => by rw [hlink l hl, beq_self_eq_true]
    simp only [mask] at hlowest haligned hall
    simp only [hlowest, haligned, hall, brSplit_all]
    rfl

end Machine
end Sys2Proof

/-! Region bindings, scopes and task counts (R452 to R455) and roles (R457). -/

namespace Sys2Proof
namespace Machine

section
variable {s : State} {w : Who}

/-! ### Whether the instruction is under way -/

/-- A fragment that begins an instruction is not in SYNCWAIT. -/
theorem State.st_of_not_again (h : (s.frag w).again = false) : ((s.frag w).st == .syncwait) = false :=
  (Bool.or_eq_false_iff.1 h).1

/-- The model's test for a wait of kind `k`. -/
theorem State.waitsFor_iff (k : WaitKind) :
    ((s.frag w).st == .syncwait && (s.frag w).wait.kind == k) = true ↔ s.waitsFor w k := by
  rw [Bool.and_eq_true, beq_iff_eq, beq_iff_eq, State.waitsFor]

theorem boundYet_of_not_again (h : (s.frag w).again = false) : s.boundYet w = none := by
  simp [State.boundYet, State.st_of_not_again h]

theorem boundYet_of_ready (hk : s.waitsFor w .binding) (hready : (s.frag w).wait.ready = true) :
    s.boundYet w = some (.done s) := by
  simp [State.boundYet, (State.waitsFor_iff _).2 hk, hready]

/-! ### Effects -/

theorem State.regs_priv : (s.regs w).priv = (s.wave w).priv := by
  unfold State.regs
  split <;> rfl

/-- The scope index of a BYTE field is its low five bits. -/
theorem ofNat_scopeOf (b : BitVec 8) : BitVec.ofNat 5 (scopeOf b) = b.extractLsb' 0 5 := by
  refine BitVec.eq_of_toNat_eq ?_
  simp [scopeOf]

/-- An object that has been read: its reading keeps no byte back, and the state and the value are the reading's. -/
theorem gather_of_object {a : Addr} {n : Nat} {t : State} {x : Nat} (h : s.object w a n = some (t, x)) :
    let g := s.gather w { uni := true, pol := 2 } [{ lane := 0, addr := a, n := n }]
    (g.rest ||| g.x.any) = 0 ∧ g.s = t ∧ valAt g.bytes 0 0 = x := by
  intro g
  obtain ⟨r, hr, hx⟩ := Option.map_eq_some_iff.1 h
  obtain ⟨hany, hrest, hs, hbytes⟩ := gather_all g r.1 r.2 hr
  obtain ⟨rfl, rfl⟩ := Prod.mk.inj hx
  exact ⟨by rw [hany, hrest]; rfl, hs, by rw [hbytes]⟩

end

section
variable {f : UForm} {s : State} {w : Who}

/-! ### BIND and UNBIND (R452) -/

/-- An entry is written under a key of its own, for which the fragment waits. -/
theorem writeBinding_eq (n : Nat) (b : Binding) :
    s.writeBinding w n b =
      .wait ((s.updCtx w.ctx fun x => { x with binds := x.binds.set n b, bindUpd := x.bindUpd ++ [(s.nextId * 256 + n, b)] }).fresh.2)
        { kind := .binding, n := s.nextId * 256 + n } := rfl

/-- The arguments that BIND refuses: the entry's number, the length, and a region beyond the address space. -/
def bindRefused (n : Nat) (base : Addr) (len : Nat) : Prop := 255 < n ∨ len = 0 ∨ 2 ^ 40 ≤ len ∨ 2 ^ 64 < base.toNat + len

theorem bindRefused_iff (n : Nat) (base : Addr) (len : Nat) :
    (n > 255 || len ≥ 2 ^ 40 || len == 0 || base.toNat + len > 2 ^ 64) = true ↔ bindRefused n base len := by
  simp only [bindRefused, Bool.or_eq_true, decide_eq_true_eq, beq_iff_eq]
  omega

theorem exec_bind_writes (hr : s.runs w (.bind f) f) (ha : (s.frag w).again = false)
    (hin : ¬ bindRefused ((s.wave w).greg f.gd.toNat).toNat ((s.wave w).g64 f.ga.toNat) ((s.wave w).g64 f.gb.toNat).toNat)
    (hstale : s.stale w (s.capture w (scopeOf ((Instr.bind f).extU f).byte)) false (s.frag w).mask = none) :
    ∃ key, exec (.bind f) s = .next (s.awaiting w (.bind f)
      ((s.updCtx w.ctx fun x =>
        let b : Binding := { base := (s.wave w).g64 f.ga.toNat, sync := (s.wave w).g64 ((Instr.bind f).extU f).src3.toNat,
                             len := ((s.wave w).g64 f.gb.toNat).toNat,
                             scope := ((Instr.bind f).extU f).byte.extractLsb' 0 5, valid := true }
        { x with binds := x.binds.set ((s.wave w).greg f.gd.toNat).toNat b, bindUpd := x.bindUpd ++ [(key, b)] }).fresh.2)
      { kind := .binding, n := key }) := by
  refine ⟨s.nextId * 256 + ((s.wave w).greg f.gd.toNat).toNat, exec_uniOp_wait (exec_bind s f) hr ?_⟩
  simp only [boundYet_of_not_again ha, hstale, ofNat_scopeOf]
  rw [if_neg (mt (bindRefused_iff _ _ _).1 hin), writeBinding_eq]

theorem exec_bind_refused (hr : s.runs w (.bind f) f) (ha : (s.frag w).again = false)
    (hout : bindRefused ((s.wave w).greg f.gd.toNat).toNat ((s.wave w).g64 f.ga.toNat) ((s.wave w).g64 f.gb.toNat).toNat) :
    ∃ ops, exec (.bind f) s = .next (s.raised w (.bind f) ops s { code := 5, lanes := (s.frag w).mask }) := by
  refine exec_uniOp_trap (exec_bind s f) hr ?_
  simp only [boundYet_of_not_again ha]
  rw [if_pos ((bindRefused_iff _ _ _).2 hout)]

theorem exec_bind_completes (hr : s.runs w (.bind f) f) (hk : s.waitsFor w .binding) (hready : (s.frag w).wait.ready = true) :
    exec (.bind f) s = .next (s.finished w (.bind f) s) := by
  refine exec_uniOp_done (exec_bind s f) hr ?_
  simp only [boundYet_of_ready hk hready]

/-- UNBIND writes its entry as it stands, no longer valid. -/
theorem exec_unbind_writes (hr : s.runs w (.unbind f) f) (ha : (s.frag w).again = false)
    (hn : ((s.wave w).greg f.gd.toNat).toNat ≤ 255) :
    ∃ key, exec (.unbind f) s = .next (s.awaiting w (.unbind f)
      ((s.updCtx w.ctx fun x =>
        let b : Binding := { x.binds.getD ((s.wave w).greg f.gd.toNat).toNat {} with valid := false }
        { x with binds := x.binds.set ((s.wave w).greg f.gd.toNat).toNat b, bindUpd := x.bindUpd ++ [(key, b)] }).fresh.2)
      { kind := .binding, n := key }) := by
  refine ⟨s.nextId * 256 + ((s.wave w).greg f.gd.toNat).toNat, exec_uniOp_wait (exec_unbind s f) hr ?_⟩
  simp only [boundYet_of_not_again ha]
  rw [if_neg (Nat.not_lt_of_le hn), writeBinding_eq]
  rfl

theorem exec_unbind_completes (hr : s.runs w (.unbind f) f) (hk : s.waitsFor w .binding) (hready : (s.frag w).wait.ready = true) :
    exec (.unbind f) s = .next (s.finished w (.unbind f) s) := by
  refine exec_uniOp_done (exec_unbind s f) hr ?_
  simp only [boundYet_of_ready hk hready]

/-! ### SCOPESET and SCOPESYNC (R453, R454) -/

theorem exec_scopeset_priv (hr : s.runs w (.scopeset f) f) (ha : (s.frag w).again = false) (hpriv : (s.wave w).priv = false) :
    ∃ ops, exec (.scopeset f) s = .next (s.raised w (.scopeset f) ops s { code := 2, lanes := (s.frag w).mask }) := by
  refine exec_uniOp_trap (exec_scopeset s f) hr ?_
  simp only [State.st_of_not_again ha, State.regs_priv, hpriv]
  rfl

/-- In a privileged wave an image that reads and checks starts its update, for which the fragment waits. -/
theorem exec_scopeset_starts (hr : s.runs w (.scopeset f) f) (hrdy : s.ready w = true) (hpriv : (s.wave w).priv = true)
    (halign : ((s.wave w).g64 f.ga.toNat).toNat % 64 = 0) {t : State} {x : Nat}
    (hobj : s.object w ((s.wave w).g64 f.ga.toNat) 64 = some (t, x)) (hok : scopeImageOk x = true)
    (hc : ((s.wave w).greg f.gb.toNat).toNat ≤ 63) (hact : (s.ctx ((s.wave w).greg f.gb.toNat).toNat).st = .active) :
    exec (.scopeset f) s = .next (s.awaiting w (.scopeset f)
      (t.fresh.2.addScopeUpd ((s.wave w).greg f.gb.toNat).toNat (scopeUpdOf x t.nextId none))
      { kind := .scopeUpdate, n := t.nextId }) := by
  obtain ⟨hall, rfl, rfl⟩ := gather_of_object hobj
  have hctx : ¬ (((s.wave w).greg f.gb.toNat).toNat > 63 || (s.ctx ((s.wave w).greg f.gb.toNat).toNat).st != .active) = true := by
    simp [hact, hc]
  refine exec_uniOp_wait (exec_scopeset s f) hr ?_
  simp only [State.st_of_not_again (s.ready_again w hrdy), s.ready_regs w hrdy, hpriv, halign, hall, hok]
  exact if_neg hctx

theorem exec_scopeset_completes (hr : s.runs w (.scopeset f) f) (hk : s.waitsFor w .scopeUpdate)
    (hready : (s.frag w).wait.ready = true) : exec (.scopeset f) s = .next (s.finished w (.scopeset f) s) := by
  refine exec_uniOp_done (exec_scopeset s f) hr ?_
  simp only [(State.waitsFor_iff _).2 hk, hready]
  rfl

theorem exec_scopesync_idle (hr : s.runs w (.scopesync f) f) (ha : (s.frag w).again = false) (hnone : (s.ctx w.ctx).scopeUpd = []) :
    exec (.scopesync f) s = .next (s.finished w (.scopesync f) s) := by
  refine exec_uniOp_done (exec_scopesync s f) hr ?_
  simp only [State.st_of_not_again ha, hnone]
  rfl

theorem exec_scopesync_waits (hr : s.runs w (.scopesync f) f) (ha : (s.frag w).again = false) {u : ScopeUpd} {rest : List ScopeUpd}
    (hu : (s.ctx w.ctx).scopeUpd = u :: rest) :
    exec (.scopesync f) s = .next (s.awaiting w (.scopesync f) s { kind := .scopeSync, n := u.id }) := by
  refine exec_uniOp_wait (exec_scopesync s f) hr ?_
  simp only [State.st_of_not_again ha, hu]
  rfl

theorem exec_scopesync_completes (hr : s.runs w (.scopesync f) f) (hk : s.waitsFor w .scopeSync)
    (hhead : ((s.ctx w.ctx).scopeUpd.head?.map fun u => u.id) ≠ some (s.frag w).wait.n) :
    exec (.scopesync f) s = .next (s.finished w (.scopesync f) s) := by
  refine exec_uniOp_done (exec_scopesync s f) hr ?_
  simp only [(State.waitsFor_iff _).2 hk, beq_eq_false_iff_ne.2 hhead]
  rfl

/-! ### EXPECT (R455) -/

/-- A task's COUNT is raised by n (R239). -/
def State.raiseCount (s : State) (c t n : Nat) : State :=
  let k := (s.ctx c).tasks.getD t {}
  s.updCtx c fun x => { x with tasks := x.tasks.set t { k with count := k.count + n } }

theorem exec_expect_adds (hr : s.runs w (.expect f) f) (ha : (s.frag w).again = false)
    (ht : ((s.wave w).greg f.ga.toNat).toNat < 4096)
    (hn : ((s.ctx w.ctx).tasks.getD ((s.wave w).greg f.ga.toNat).toNat {}).count + ((s.wave w).greg f.gb.toNat).toNat ≤ 65535) :
    exec (.expect f) s = .next (s.awaiting w (.expect f)
      (s.raiseCount w.ctx ((s.wave w).greg f.ga.toNat).toNat ((s.wave w).greg f.gb.toNat).toNat)
      { kind := .reply, n := ((s.wave w).greg f.ga.toNat).toNat }) := by
  refine exec_uniOp_wait (exec_expect s f) hr ?_
  rw [State.st_of_not_again ha, if_neg Bool.false_ne_true, if_neg (Nat.not_le_of_lt ht), if_neg (Nat.not_lt_of_le hn)]
  rfl

theorem exec_expect_overflows (hr : s.runs w (.expect f) f) (ha : (s.frag w).again = false)
    (ht : ((s.wave w).greg f.ga.toNat).toNat < 4096)
    (hn : 65535 < ((s.ctx w.ctx).tasks.getD ((s.wave w).greg f.ga.toNat).toNat {}).count + ((s.wave w).greg f.gb.toNat).toNat) :
    ∃ ops, exec (.expect f) s = .next (s.raised w (.expect f) ops s
      { code := 10, cause := 3, lanes := (s.frag w).mask, info := BitVec.ofNat 96 ((s.wave w).greg f.ga.toNat).toNat }) := by
  refine exec_uniOp_trap (exec_expect s f) hr ?_
  rw [State.st_of_not_again ha, if_neg Bool.false_ne_true, if_neg (Nat.not_le_of_lt ht), if_pos hn]

theorem exec_expect_noTask (hr : s.runs w (.expect f) f) (ha : (s.frag w).again = false)
    (ht : 4096 ≤ ((s.wave w).greg f.ga.toNat).toNat) :
    ∃ ops, exec (.expect f) s = .next (s.raised w (.expect f) ops s { code := 5, lanes := (s.frag w).mask }) := by
  refine exec_uniOp_trap (exec_expect s f) hr ?_
  rw [State.st_of_not_again ha, if_neg Bool.false_ne_true, if_pos ht]

theorem exec_expect_completes (hr : s.runs w (.expect f) f) (hk : s.waitsFor w .reply) :
    exec (.expect f) s = .next (s.finished w (.expect f) s) := by
  refine exec_uniOp_done (exec_expect s f) hr ?_
  rw [hk.1]
  rfl

end

/-- Settles O35: each instruction's ends at its issue and once its wait is over, put together; ROLE's effect is the statement's. -/
theorem bindingsAndScopes : Obligations.BindingsAndScopes := by
  intro f s w
  refine ⟨fun hr => ⟨fun ha hn h0 hlen hend => exec_bind_writes hr ha ?_, exec_bind_completes hr, exec_bind_refused hr⟩,
    fun hr => ⟨exec_unbind_writes hr, exec_unbind_completes hr⟩,
    fun hr => ⟨exec_scopeset_priv hr, fun hrdy hpriv halign t x hobj => exec_scopeset_starts hr hrdy hpriv halign hobj,
      exec_scopeset_completes hr⟩,
    fun hr => ⟨exec_scopesync_idle hr, fun u rest ha => exec_scopesync_waits hr ha, exec_scopesync_completes hr⟩,
    fun hr => ⟨exec_expect_adds hr, exec_expect_completes hr, exec_expect_overflows hr, exec_expect_noTask hr⟩,
    fun hr => exec_uniOp_done (exec_role s f) hr rfl⟩
  unfold bindRefused
  omega

end Machine
end Sys2Proof
